-- ==== Sys2Proof/Word.lean ====
section
/-! DEFINITION. The word types of the part and their plainest arithmetic. -/

namespace Sys2Proof

/-- One byte of host memory, of a scan-link packet or of a pixel. -/
abbrev Byte := BitVec 8

/-- A 32-bit field of the exchange area or of a register. -/
abbrev Word := BitVec 32

/-- The sum of two counts, held at `limit`: how a saturating counter of the manual counts. -/
def satAdd (limit a b : Nat) : Nat := min limit (a + b)

/-- The largest value of a saturating counter of 16, 24 and 32 bits. -/
def max16 : Nat := 65535
def max24 : Nat := 16777215
def max32 : Nat := 4294967295

end Sys2Proof
end

