-- ==== Sys2Proof/Syntax.lean ====
section
/-! DEFINITION. The commands of the part: one constructor of `Instr` for each row of spec/opcode_table.json.
The table gives its rows no operands; an operand here is what the manual says the event brings with it
(log entry 1). -/

namespace Sys2Proof

/-- The two faces of the web. -/
inductive Face where
  | upper
  | lower
deriving DecidableEq, Repr

/-- A scan-link port, which is also the number of its head (R23). -/
abbrev Port := Fin 8

/-- The straps latched at power-on (R23, R116). -/
structure Straps where
  /-- eight ports fitted (0 to 7), else four (0 to 3) -/
  eightPorts : Bool
  /-- two marker outputs fitted, else none -/
  twoMarkers : Bool
deriving DecidableEq, Repr

/-- R23: the ports the straps show as fitted. -/
def Straps.fitted (straps : Straps) (p : Port) : Bool := straps.eightPorts || decide (p.val < 4)

/-- The levels on the mark and splice inputs: coating present, splice active (R9). -/
structure Sensors where
  markUpper : Bool
  markLower : Bool
  splice    : Bool
deriving DecidableEq, Repr

/-- The encoder phases whose hold runs out at one moment (R2, R3). -/
inductive Phases where
  | a
  | b
  | both
deriving DecidableEq, Repr

/-- A packet as it arrives on a scan link (R25): the bytes between its start symbol and its end, and whether the end
symbol followed the last field before any new start symbol (R33). -/
structure Packet where
  bytes  : List Byte
  closed : Bool
deriving DecidableEq, Repr

/-- The half of XBASE a register write goes to (R178, R194). -/
inductive XbaseHalf where
  | lo
  | hi
deriving DecidableEq, Repr

/-- The bus reads the part can have in flight (R180, R181, R148). The last two are the completion reads that judge a page
post and a status block write. -/
inductive ReadKind where
  | sample
  | batchCopy
  | stockReread
  | recipeLoad
  | postCompletion
  | statusCompletion
deriving DecidableEq, Repr

/-- The bytes a read found in a 32-bit field of the control block (R181, R195). -/
abbrev FieldBytes := Vector Byte 4

/-- Bytes of the 16 order entries at +0x040 to +0x23F (R182, R195). -/
abbrev OrderListBytes := Vector Byte 512

/-- Bytes of the 16 stock descriptors at +0x410 (R183, R195). -/
abbrev StockBytes := Vector Byte 256

/-- Bytes of a recipe slot up to the end of its last named field, 0x600 + 0x240 + 12 × 32 (R148, R198). -/
abbrev SlotBytes := Vector Byte 2496

/-- The commands: every row of spec/opcode_table.json, in the table's order. -/
inductive Instr where
  | powerOn (straps : Straps)
  | partReset
  | xbaseWrite (half : XbaseHalf) (value : Word)
  | enableSet
  | enableClear
  | pollIntervalWrite (value : Byte)
  | attnWrite (value : Word)
  | registerWriteIgnored (offset : BitVec 5) (value : Word)
  | encoderRawChange (a b : Bool) (sensors : Sensors)
  | encoderHoldExpiry (phases : Phases) (sensors : Sensors)
  | breakInputActive
  | breakInputInactive
  | helloReceived (port : Port) (packet : Packet)
  | linePacketReceived (port : Port) (packet : Packet)
  | lineDeadlineExpiry (face : Face)
  | rxTakeItem (face : Face)
  | teLineItem (face : Face)
  | tePatchEndItem (face : Face)
  | tePatchStartItem (face : Face)
  | teSpliceClosureItem (face : Face)
  | holdingQueueDrain
  | pageTake
  | postComplete
  | pageWriteFailure
  | statusWriteComplete
  | statusWriteFailure
  | pollTick
  | pageAgeExpiry
  | stallExpiry
  | readTimeout (read : ReadKind)
  | readErrorCompletion (read : ReadKind)
  | sampleReadComplete (generation count written : FieldBytes)
  | batchCopyComplete (entries : OrderListBytes)
  | stockRereadComplete (descriptors : StockBytes)
  | start (rollId s0 : Word)
  | stop
  | halt
  | recipe (slot : Word)
  | recipeLoadComplete (slot : SlotBytes)
  | flush
  | note (value : BitVec 64)
  | markon
  | clear
  | levels (levels : Vector Byte 8)
  | headreset (head : Word)
  | unknownOrder (code : Byte)
  | closeoutBegin
deriving DecidableEq, Repr

end Sys2Proof
end

