-- ==== Sys2Proof/WellFormed.lean ====
section
/-! DEFINITION. Which terms of `Instr` are commands of the part: the conditions on operands that their types do not
already carry. -/

namespace Sys2Proof

/-- The kind byte of a HELLO (R25). -/
def helloKind : Byte := 0x03

/-- The kind byte of a LINE (R25). -/
def lineKind : Byte := 0x04

/-- R32: a packet is a HELLO exactly when its kind byte is the HELLO code. -/
def Packet.isHello (p : Packet) : Bool := p.bytes.head? == some helloKind

/-- R195: the order codes are 0x01 to 0x0A. -/
def namesOrder (code : Byte) : Bool := decide (1 ≤ code.toNat) && decide (code.toNat ≤ 10)

/-- R194: IDENT is read only and nothing lies at 0x14 to 0x1F; every other offset of the window takes a write. -/
def offsetIgnoresWrites (offset : BitVec 5) : Bool := decide (16 ≤ offset.toNat)

/-- A command is well formed when its operands are ones the named event can bring. -/
def Instr.wellFormed : Instr → Bool
  | .helloReceived _ packet => packet.isHello
  | .linePacketReceived _ packet => !packet.isHello
  | .registerWriteIgnored offset _ => offsetIgnoresWrites offset
  | .unknownOrder code => !namesOrder code
  | .powerOn _ | .partReset | .xbaseWrite _ _ | .enableSet | .enableClear | .pollIntervalWrite _ | .attnWrite _
  | .encoderRawChange _ _ _ | .encoderHoldExpiry _ _ | .breakInputActive | .breakInputInactive
  | .lineDeadlineExpiry _ | .rxTakeItem _ | .teLineItem _ | .tePatchEndItem _ | .tePatchStartItem _
  | .teSpliceClosureItem _ | .holdingQueueDrain | .pageTake | .postComplete | .pageWriteFailure
  | .statusWriteComplete | .statusWriteFailure | .pollTick | .pageAgeExpiry | .stallExpiry | .readTimeout _
  | .readErrorCompletion _ | .sampleReadComplete _ _ _ | .batchCopyComplete _ | .stockRereadComplete _
  | .start _ _ | .stop | .halt | .recipe _ | .recipeLoadComplete _ | .flush | .note _ | .markon | .clear
  | .levels _ | .headreset _ | .closeoutBegin => true

end Sys2Proof
end

