-- ==== Sys2Proof/Decode.lean ====
section
/-! DEFINITION. Decoding of table words. No row of spec/opcode_table.json gives bits (every row's "fields" is empty and
none has a "fixed" pattern), so no word spells a command. The byte encodings the manual does give (order entries, packets,
recipe slots) are read in Machine/Operands.lean. -/

namespace Sys2Proof

/-- The command a word of the table spells: none, since no row gives bits. -/
def decodeTableWord (_nbits _w : Nat) : Option Instr := none

end Sys2Proof
end

