-- ==== Sys2Proof/Config.lean ====
section
/-! DEFINITION. What the part fixes once: its capacities and limits, and the free values the manual leaves open. -/

namespace Sys2Proof.Config

/-- R3: P is held between minus and plus this count. -/
def positionLimit : Int := 2000000000

/-- R168: the largest magnitude of a start position. -/
def startLimit : Int := 1000000000

/-- R1: reference cycles (25 MHz) to one step of the µs counter. -/
def cyclesPerMicrosecond : Nat := 25

/-- R1: steps of the µs counter to one ms tick. -/
def microsecondsPerTick : Nat := 1000

/-- R180: a read fails at this ms tick after it was issued. -/
def readTimeoutTicks : Nat := 2

/-- R10: entries of a face's edge queue. -/
def edgeQueueSize : Nat := 8

/-- R20: entries of the splice queue. -/
def spliceQueueSize : Nat := 2

/-- R32: line buffers of a head. -/
def lineBuffers : Nat := 2

/-- R55: runs of one face line. -/
def runListSize : Nat := 512

/-- R86: the last streak number. -/
def lastStreakNumber : Nat := 16777215

/-- R77: the top of a track's miss run. -/
def missRunTop : Nat := 4095

/-- R107: entries of the pairing list. -/
def pairingListSize : Nat := 128

/-- R110: stretches of a doubt log. -/
def doubtLogSize : Nat := 64

/-- R120: entries of the mark queue. -/
def markQueueSize : Nat := 32

/-- R138: slots of the holding queue. -/
def holdingSlots : Nat := 64

/-- R141: runs of the loss tally. -/
def lossRuns : Nat := 64

/-- R142: free slots that let loss close, and the most LOSS records of one burst. -/
def lossBurst : Nat := 8

/-- R130: giving this sequence sends the sequence-limit event. -/
def sequenceLimit : Nat := 4294963200

/-- R130: the last sequence the Record Unit gives in a roll. -/
def lastSequence : Nat := 4294967295

/-- R185: record slots of a page. -/
def pageSlots : Nat := 126

/-- R167, R183: entries of the order list and of the stock list. -/
def listEntries : Nat := 16

/-- FREE VALUE. R130 and R117: after the last sequence number has been given an issue receives no number, its mark
request is still answered, and the manual does not say which source sequence that request carries.
Applied to State's counter `free`, which every use advances. UNVERIFIED; assumption log 3. -/
opaque unnumberedSource : Nat → Word

end Sys2Proof.Config
end

