-- ==== Sys2Proof/Machine/State.lean ====
section
/-! DEFINITION. The state of the part, block by block as the manual's block table owns it, the reasons a step can stop,
and the state after reset. All of it is plain data. -/

namespace Sys2Proof.Machine

/-! ## Shared shapes -/

/-- One copy for each face. -/
structure PerFace (α : Type) where
  upper : α
  lower : α
deriving DecidableEq, Repr

/-- A range of columns, both ends included. -/
structure Range where
  lo : Nat
  hi : Nat
deriving DecidableEq, Repr

/-- A count with the stamps of its first and last event; empty when the count is 0 (R5, R7, R10, R56, R74, R100). -/
structure Tally where
  count : Nat
  first : Int
  last  : Int
deriving DecidableEq, Repr

/-- The lighting of a line (R6). -/
inductive Lighting where
  | r
  | t
deriving DecidableEq, Repr

/-- The lightings an object was seen under. -/
structure Lights where
  r : Bool
  t : Bool
deriving DecidableEq, Repr

/-- The section state of a face (section 1.6). -/
inductive Sect where
  | wait
  | coated
  | gap
deriving DecidableEq, Repr

/-! ## Recipes (chapter 9, R198) -/

/-- Lighting pattern of the shared part. -/
inductive Pattern where
  | rt
  | rOnly
  | tOnly
deriving DecidableEq, Repr

/-- An entry of the mark policy (R117). -/
inductive MarkTarget where
  | none
  | a
  | b
deriving DecidableEq, Repr

/-- The mark policy (R117). -/
structure MarkPolicy where
  pinholeOther   : MarkTarget
  pinholeThrough : MarkTarget
  spot           : MarkTarget
  large          : MarkTarget
  streak         : MarkTarget
deriving DecidableEq, Repr

/-- The settings of one marker output (R116). -/
structure Marker where
  offset     : Nat
  length     : Nat
  activeHigh : Bool
deriving DecidableEq, Repr

/-- One entry of the head table (R24). The face is held as its code, since every field of an entry whose present mark is
off is compared too (R153). -/
structure HeadEntry where
  present   : Bool
  faceCode  : Byte
  origin    : Nat
  width     : Nat
  missLimit : Nat
deriving DecidableEq, Repr

/-- The shared part of a recipe (section 9.1). -/
structure SharedPart where
  pitch          : Nat
  lighting       : Pattern
  filter         : Nat
  markFilter     : Nat
  minPeriod      : Nat
  deadline       : Nat
  d              : Nat
  qU             : Int
  qL             : Int
  qS             : Int
  eb             : Nat
  ea             : Nat
  pairing        : Bool
  mirror         : Bool
  cdTolerance    : Nat
  columnOffset   : Int
  mdWindow       : Nat
  autoResume     : Bool
  postAge        : Nat
  stallTime      : Nat
  repeatInterval : Nat
  policy         : MarkPolicy
  markerA        : Marker
  markerB        : Marker
  heads          : Vector HeadEntry 8
deriving DecidableEq, Repr

inductive CoatingMode where
  | intermittent
  | continuous
deriving DecidableEq, Repr

inductive GapBehaviour where
  | bridge
  | split
deriving DecidableEq, Repr

inductive LaneKind where
  | coated
  | margin
deriving DecidableEq, Repr

/-- The lighting under which a lane's streaks are looked for (R78). -/
inductive StreakLighting where
  | r
  | t
  | either
deriving DecidableEq, Repr

/-- One lane of a lane map (R46, R78). -/
structure Lane where
  first          : Nat
  last           : Nat
  kind           : LaneKind
  minWidth       : Nat
  bridge         : Nat
  streakLighting : StreakLighting
  maskCoatedR    : Byte
  maskCoatedT    : Byte
  maskGapR       : Byte
  maskGapT       : Byte
  window         : Nat
  maxWidth       : Nat
  tentativeLimit : Nat
  confirmHits    : Nat
  fadeMisses     : Nat
  endMisses      : Nat
deriving DecidableEq, Repr

/-- The face part of a recipe (section 9.1). -/
structure FacePart where
  mode        : CoatingMode
  gap         : GapBehaviour
  nominal     : Nat
  tolerance   : Nat
  maxGap      : Nat
  segment     : Nat
  reach       : Nat
  link        : Nat
  pinholeCd   : Nat
  pinholeMd   : Nat
  spotCd      : Nat
  spotMd      : Nat
  streakStart : Nat
  minPixels   : Nat
  classR      : List Byte
  classT      : List Byte
  lanes       : List Lane
deriving DecidableEq, Repr

/-- A recipe part with its source: the slot and recipe id it was read from (R147). -/
structure Sourced (α : Type) where
  part : α
  slot : BitVec 2
  id   : Word
deriving DecidableEq, Repr

/-- A load in progress (R147, R148): the slot being read, the on-chip copy being filled (the bytes read so far), and the ms ticks
since the read was issued. -/
structure Load where
  slot   : BitVec 2
  copy   : List Byte
  waited : Nat
deriving DecidableEq, Repr

/-- The Recipe Store's copy for one face (R147). -/
structure RsFace where
  active  : Option (Sourced FacePart)
  pending : Option (Sourced FacePart)
deriving DecidableEq, Repr

/-- Recipe Store (R147). -/
structure RecipeStore where
  shared : Option (Sourced SharedPart)
  faces  : PerFace RsFace
  load   : Option Load
deriving DecidableEq, Repr

/-! ## Motion Unit (chapter 1) -/

inductive Direction where
  | forward
  | reverse
deriving DecidableEq, Repr

/-- One encoder phase: its accepted level, and for a raw level that differs the reference cycles it has been held (R2). -/
structure Phase where
  accepted : Bool
  hold     : Option Nat
deriving DecidableEq, Repr

/-- A mark or splice edge begun and not yet accepted: its stamp and the samples still wanted (R9). -/
structure BegunEdge where
  stamp : Int
  left  : Nat
deriving DecidableEq, Repr

/-- An accepted mark edge in a face's edge queue: RISE or FALL (R10). -/
structure Edge where
  stamp : Int
  rise  : Bool
deriving DecidableEq, Repr

/-- An entry of the splice queue (R20): zone, and per face whether it has entered the zone and is done with the entry. -/
structure SpliceEntry where
  stamp   : Int
  first   : Int
  last    : Int
  entered : PerFace Bool
  done    : PerFace Bool
deriving DecidableEq, Repr

/-- The flags a patch's start gives its PATCH record (R13, R14). -/
structure StartFlags where
  synthStart : Bool
  segment    : Bool
deriving DecidableEq, Repr

/-- The Motion Unit's copy for one face. -/
structure MuFace where
  nextLine      : Nat
  prevTrigger   : Option Word
  skip          : Tally
  acceptedLevel : Bool
  begun         : Option BegunEdge
  edges         : List Edge
  overflow      : Tally
  sect          : Sect
  patchIndex    : Word
  startStamp    : Int
  lastEnd       : Int
  startFlags    : StartFlags
  edgeExtra     : Bool
  finishRequest : Bool
  finished      : Bool
deriving DecidableEq, Repr

/-- Motion Unit. -/
structure MotionUnit where
  refPhase       : Nat
  us             : Word
  msPhase        : Nat
  phaseA         : Phase
  phaseB         : Phase
  p              : Int
  h              : Int
  direction      : Direction
  s0             : Int
  jumps          : Tally
  limitSent      : Bool
  faces          : PerFace MuFace
  spliceAccepted : Bool
  spliceBegun    : Option BegunEdge
  splices        : List SpliceEntry
  stallCount     : Nat
  stallRaised    : Bool
deriving DecidableEq, Repr

/-! ## Items of the face streams (R8, R17, R38, R57) -/

/-- A line descriptor (R8) with its position split (R16). -/
structure LineDesc where
  number     : Nat
  stamp      : Int
  lighting   : Lighting
  sect       : Sect
  patchIndex : Word
  offset     : Int
  excluded   : Bool
  skipped    : Bool
deriving DecidableEq, Repr

/-- Flags of a PATCH record (R18, R197), less EDGE_EXTRA, which is added as the record is issued. -/
structure PatchFlags where
  synthStart : Bool
  synthEnd   : Bool
  short      : Bool
  long       : Bool
  segment    : Bool
deriving DecidableEq, Repr

/-- A patch-end item. `finishing` is the Motion Unit's mark of the patch end that finishes the face (R19, R113). -/
structure PatchEnd where
  index     : Word
  first     : Int
  last      : Int
  flags     : PatchFlags
  finishing : Bool
deriving DecidableEq, Repr

/-- A patch-start item, with the face part it applies, if any (R43, R156). -/
structure PatchStart where
  index : Word
  stamp : Int
  part  : Option FacePart
deriving DecidableEq, Repr

/-- A triggered line not yet assembled (R27, R35). -/
structure OpenLine where
  desc        : LineDesc
  expected    : List Port
  givenUp     : List Port
  triggerTime : Word
deriving DecidableEq, Repr

/-- Pixels of one head's owned columns, from the column `first` upward. -/
structure PixelSpan where
  first  : Nat
  values : List Byte
deriving DecidableEq, Repr

/-- An assembled face line (R37). -/
structure FaceLine where
  desc   : LineDesc
  pixels : List PixelSpan
  blind  : List Range
deriving DecidableEq, Repr

/-- An item of a face's line stream, from the Motion Unit to the Run Extractor (R8, R38). -/
inductive StreamItem where
  | patchEnd (item : PatchEnd)
  | patchStart (item : PatchStart)
  | spliceClosure
  | skipped (desc : LineDesc)
  | opened (line : OpenLine)
  | line (line : FaceLine)
deriving DecidableEq, Repr

/-- A run (R50). -/
structure Run where
  lane      : Nat
  first     : Nat
  last      : Nat
  pixels    : Nat
  classBits : Byte
  minValue  : Byte
  maxValue  : Byte
  blindEdge : Bool
deriving DecidableEq, Repr

/-- A line item as the Run Extractor hands it on (R57). -/
structure LineItem where
  desc    : LineDesc
  blind   : List Range
  runs    : List Run
  runFull : Bool
deriving DecidableEq, Repr

/-- What an item handed on by the Run Extractor is. -/
inductive HandedKind where
  | line (item : LineItem)
  | patchEnd (item : PatchEnd) (runFull : Tally)
  | patchStart (item : PatchStart)
  | spliceClosure
deriving DecidableEq, Repr

/-- An item handed on by the Run Extractor, with the face part it was processed under (R44). -/
structure Handed where
  kind : HandedKind
  part : Option FacePart
deriving DecidableEq, Repr

/-! ## Link Unit (chapter 2) -/

inductive LinkState where
  | absent
  | waiting
  | ready
  | live
  | failed
deriving DecidableEq, Repr

/-- The last HELLO received on a port. -/
structure Hello where
  headId : Byte
  count  : BitVec 16
deriving DecidableEq, Repr

/-- A line buffer holding a good packet: the number of the line it serves and its pixels (R32, R34). -/
structure LineBuffer where
  line   : Nat
  pixels : List Byte
deriving DecidableEq, Repr

/-- The seven counters of a head, 16 bits, saturating (R41). -/
structure HeadCounters where
  received : Nat
  missing  : Nat
  framing  : Nat
  check    : Nat
  overrun  : Nat
  stray    : Nat
  light    : Nat
deriving DecidableEq, Repr

/-- A line named by its number and stamp. -/
structure LineRef where
  number : Nat
  stamp  : Int
deriving DecidableEq, Repr

/-- The Link Unit's state of one head. `outstanding` is its outstanding-trigger list, by line number. -/
structure Head where
  link        : LinkState
  hello       : Option Hello
  recovering  : Bool
  outstanding : List Nat
  buffers     : List LineBuffer
  misses      : Nat
  firstMiss   : Int
  failedLine  : Option LineRef
  counters    : HeadCounters
deriving DecidableEq, Repr

/-- The Link Unit's copy for one face: its stream, whose `opened` items are the unassembled lines in trigger order. -/
structure LuFace where
  stream        : List StreamItem
  assembled     : Word
  lastTriggered : Option LineRef
deriving DecidableEq, Repr

/-- Link Unit. -/
structure LinkUnit where
  heads : Vector Head 8
  faces : PerFace LuFace
deriving DecidableEq, Repr

/-! ## Run Extractor (chapter 3) -/

/-- The Run Extractor's copy for one face; `handed` holds what it has handed on and the Track Engine has not yet taken. -/
structure RxFace where
  inForce : Option FacePart
  runFull : Tally
  handed  : List Handed
deriving DecidableEq, Repr

/-! ## Track Engine (chapter 5) -/

inductive TrackState where
  | tentative
  | confirmed
  | fading
deriving DecidableEq, Repr

/-- An active track (R77). `centre2` is twice the centre, which is held to half a column. `openSource` is the sequence of its
STREAK_OPEN record, the source its repeat marks name (R99). -/
structure Track where
  state        : TrackState
  lane         : Nat
  centre2      : Nat
  widthNow     : Nat
  maxWidth     : Nat
  columnMin    : Nat
  columnMax    : Nat
  widened      : Bool
  firstStamp   : Int
  patchIndex   : Word
  offset       : Int
  lastHit      : Int
  hits         : Nat
  observed     : Nat
  held         : Tally
  missRun      : Nat
  pixels       : Nat
  classBits    : Byte
  lights       : Lights
  blind        : Bool
  number       : Nat
  confirmStamp : Int
  patches      : Nat
  nextRepeat   : Int
  openSource   : Word
deriving DecidableEq, Repr

/-- The Track Engine's copy for one face. `lastPart` is the face part of the last line item it processed (R67, R95). -/
structure TeFace where
  tracks        : Vector (Option Track) 24
  patchStart    : Int
  confirmations : Nat
  larges        : Nat
  full          : Tally
  openStreaks   : Nat
  lastPart      : Option FacePart
deriving DecidableEq, Repr

/-- Track Engine. -/
structure TrackEngine where
  nextStreak : Nat
  faces      : PerFace TeFace
deriving DecidableEq, Repr

/-! ## Spot Merger (chapter 4) -/

/-- An open spot (R59). The CUT flag is clear while the spot grows and is set by the cut that closes it. -/
structure Spot where
  lane        : Nat
  columnMin   : Nat
  columnMax   : Nat
  firstLine   : Nat
  firstStamp  : Int
  lastLine    : Nat
  lastStamp   : Int
  joined      : Nat
  quiet       : Nat
  pixels      : Nat
  classBits   : Byte
  lights      : Lights
  minValue    : Byte
  maxValue    : Byte
  blind       : Bool
  cut         : Bool
  patchIndex  : Word
  offset      : Int
  sect        : Sect
  refused     : Bool
deriving DecidableEq, Repr

/-- The Spot Merger's copy for one face. -/
structure SmFace where
  spots    : Vector (Option Spot) 64
  pinholes : Nat
  spotted  : Nat
  larges   : Nat
  noise    : Nat
  full     : Tally
deriving DecidableEq, Repr

/-! ## Pairing Unit (chapter 6) -/

/-- A pinhole closure; in the Pairing Unit its columns are upper-face columns (R71, R104). -/
structure Closure where
  face       : Face
  first      : Int
  last       : Int
  cdMin      : Int
  cdMax      : Int
  patchIndex : Word
  offset     : Int
  pixels     : Nat
  classBits  : Byte
  lights     : Lights
  minValue   : Byte
  maxValue   : Byte
  cut        : Bool
  blind      : Bool
deriving DecidableEq, Repr

/-- An entry of the pairing list (R107). -/
structure PairEntry where
  closure : Closure
  due     : Int
deriving DecidableEq, Repr

/-- The kind of a doubt stretch; BLIND carries its column range in upper-face columns (R110). -/
inductive DoubtKind where
  | whole
  | blind (lo hi : Int)
deriving DecidableEq, Repr

/-- A stretch of a doubt log (R110). -/
structure Stretch where
  kind  : DoubtKind
  first : Int
  last  : Int
deriving DecidableEq, Repr

/-- The Pairing Unit's copy for one face; `lastLine` is the stamp of the last line of the face it has taken in the roll. -/
structure PuFace where
  processed : Int
  log       : List Stretch
  floor     : Int
  finished  : Bool
  lastLine  : Option Int
deriving DecidableEq, Repr

/-- Pairing Unit. -/
structure PairingUnit where
  active   : Bool
  list     : List PairEntry
  faces    : PerFace PuFace
  pinholes : Nat
  throughs : Nat
deriving DecidableEq, Repr

/-! ## Mark Unit (chapter 7) -/

/-- The two marker outputs. -/
inductive MarkOut where
  | a
  | b
deriving DecidableEq, Repr

/-- The state of a marker output; ACTIVE holds the value of H at which the pulse ends (R116). -/
inductive OutState where
  | idle
  | active (stop : Int)
  | forced
deriving DecidableEq, Repr

/-- An entry of the mark queue (R120). -/
structure MarkEntry where
  out    : MarkOut
  fire   : Int
  length : Nat
  source : Word
deriving DecidableEq, Repr

/-- The six mark counters, 32 bits, saturating (R128). -/
structure MarkCounters where
  fired  : Nat
  merged : Nat
  late   : Nat
  full   : Nat
  missed : Nat
  cut    : Nat
deriving DecidableEq, Repr

/-- Mark Unit. -/
structure MarkUnit where
  a         : OutState
  b         : OutState
  queue     : List MarkEntry
  breakFlag : Bool
  counters  : MarkCounters
deriving DecidableEq, Repr

/-! ## Records and the Record Unit (chapter 8) -/

inductive MarkState where
  | none
  | queued
  | partly
  | late
  | full
deriving DecidableEq, Repr

inductive EndReason where
  | stop
  | halt
  | limit
deriving DecidableEq, Repr

inductive PinholeResult where
  | single
  | through
  | uncertain
  | evicted
  | unresolved
  | off
deriving DecidableEq, Repr

inductive CloseReason where
  | faded
  | patchEnd
  | merged
  | recipe
  | splice
  | stop
  | halt
  | limit
deriving DecidableEq, Repr

inductive MissReason where
  | brk
  | rollEnd
deriving DecidableEq, Repr

/-- Fault codes (R136, R196). -/
inductive FaultCode where
  | encoderJump
  | overspeed
  | markOverflow
  | spliceOverflow
  | headMismatch
  | headFailed
  | headRecovered
  | runFull
  | spotFull
  | trackFull
  | pageWrite
  | memoryRead
  | statusWrite
  | stockInvalid
deriving DecidableEq, Repr

/-- What a FAULT record is about: a face, a head or neither (R136). -/
inductive FaultSubject where
  | face (f : Face)
  | head (p : Port)
  | none
deriving DecidableEq, Repr

/-- Fields common to SPOT and LARGE records (R72, R87). -/
structure SpotFields where
  face       : Face
  lane       : Nat
  first      : Int
  last       : Int
  patchIndex : Word
  offset     : Int
  cdMin      : Nat
  cdMax      : Nat
  pixels     : Nat
  classBits  : Byte
  lights     : Lights
  cut        : Bool
  blind      : Bool
  failed     : Bool
deriving DecidableEq, Repr

/-- What a record says, by kind (section 8.2). -/
inductive RecordBody where
  | rollStart (rollId : Word) (s0 : Int) (slot : BitVec 2) (recipeId : Word)
  | rollEnd (stamp : Int) (reason : EndReason) (pinholes through spots larges streaks : Nat)
  | patch (face : Face) (index : Word) (first last : Int) (flags : PatchFlags) (edgeExtra : Bool)
      (pinholes spots larges confirmations noise : Nat)
  | pinhole (result : PinholeResult) (closure : Closure) (partner : Option Closure)
  | spot (fields : SpotFields)
  | large (fields : SpotFields)
  | streakOpen (number : Nat) (face : Face) (lane centre width : Nat) (start confirm : Int) (patchIndex : Word)
      (classBits : Byte)
  | streakClose (number : Nat) (face : Face) (stop : Int) (hits observed maxWidth : Nat) (reason : CloseReason)
      (patches : Nat) (widened : Bool) (survivor : Nat) (held : Tally)
  | markMissed (out : MarkOut) (fire : Int) (source : Word) (reason : MissReason)
  | fault (code : FaultCode) (subject : FaultSubject) (first last : Int) (count : Nat)
  | splice (stamp first last : Int)
  | recipe (face : Face) (slot : BitVec 2) (id : Word) (effective : Int)
  | note (value : BitVec 64) (stamp : Int)
  | loss (firstLost count : Nat) (first last : Int) (pinhole streak : Nat)
deriving DecidableEq, Repr

/-- A numbered record with its mark state (R131). -/
structure Record where
  seq  : Nat
  mark : MarkState
  body : RecordBody
deriving DecidableEq, Repr

/-- The three group counts of a loss entry (R141). -/
structure LossGroups where
  pinhole : Nat
  streak  : Nat
  other   : Nat
deriving DecidableEq, Repr

/-- A run of the loss tally (R141). The scattered entry has the same shape with first sequence 0. `entered` orders the runs by the time
each joined the list (R142: the oldest is the earliest entered, 00_scope.md). -/
structure LossRun where
  entered    : Nat
  first      : Nat
  count      : Nat
  firstStamp : Int
  lastStamp  : Int
  groups     : LossGroups
deriving DecidableEq, Repr

/-- Record Unit. `nextSeq` is the number the next record takes; it stands at 2^32 once the last has been given.
`rollEndTaken` tells that the roll's ROLL_END has been taken (R165), `abandoned` that the abandon mark has acted (R145). -/
structure RecordUnit where
  nextSeq      : Nat
  queue        : List Record
  tallyOpen    : Bool
  runs         : List LossRun
  scattered    : LossRun
  spots        : Nat
  larges       : Nat
  lostTotal    : Nat
  abandoned    : Bool
  rollEndTaken : Bool
deriving DecidableEq, Repr

/-! ## Control Unit (chapter 10) -/

inductive Inspection where
  | off
  | idle
  | running
  | stopping
  | closing
deriving DecidableEq, Repr

/-- Results of orders (R196). -/
inductive ResultCode where
  | notRun
  | done
  | accepted
  | already
  | empty
  | refusedState
  | noRecipe
  | badOperand
  | refusedShared
  | refusedRecipe
  | memoryError
  | noStock
  | breakActive
  | unknownOrder
  | badCount
deriving DecidableEq, Repr

/-- The result of one order, with a recipe check's code and field offset (R150, R196). -/
structure OrderResult where
  code   : ResultCode
  check  : Nat
  offset : Nat
deriving DecidableEq, Repr

/-- The batch copy being executed: entries `next` to `count - 1` are still to be executed (R167). -/
structure Batch where
  generation : Word
  count      : Nat
  entries    : OrderListBytes
  next       : Nat
  results    : Vector OrderResult 16
deriving DecidableEq, Repr

/-- The fault capture (R146). -/
structure FaultCapture where
  code  : FaultCode
  stamp : Int
deriving DecidableEq, Repr

/-- How far close-out is (R164, R165): not closing, steps 1 to 6 still to begin, the drain of step 7, its final post. -/
inductive ClosePhase where
  | notClosing
  | waiting
  | drain
  | final
deriving DecidableEq, Repr

/-- Control Unit. `limitEvent` is a limit event sent by another block and not yet taken (R4, R130). -/
structure ControlUnit where
  state      : Inspection
  rollId     : Word
  endReason  : Option EndReason
  abandon    : Bool
  capture    : Option FaultCapture
  batch      : Option Batch
  phase      : ClosePhase
  limitEvent : Bool
deriving DecidableEq, Repr

/-! ## Exchange Unit (chapter 11) -/

/-- Attention causes, in the order of R176 and R191. -/
inductive Cause where
  | posted
  | orders
  | streak
  | through
  | fault
  | stockEmpty
  | loss
  | mark
deriving DecidableEq, Repr

/-- Post reasons (R186, R197). -/
inductive PostReason where
  | full
  | age
  | stall
  | flush
  | rollEnd
  | halt
deriving DecidableEq, Repr

/-- A copied stock descriptor (R183, R195). -/
structure Descriptor where
  address : BitVec 64
  pages   : BitVec 16
deriving DecidableEq, Repr

/-- A page being filled: its host address, the slots used, the records written into it, and its age in ms ticks since the first
of them (R185). -/
structure Page where
  address : BitVec 64
  used    : Nat
  records : List Record
  age     : Nat
deriving DecidableEq, Repr

/-- A post in progress, with the ms ticks since its completion read was issued (R180, R187). -/
structure Posting where
  page   : Page
  reason : PostReason
  waited : Nat
deriving DecidableEq, Repr

/-- A batch copy in flight: the generation and count its sample read (R182). -/
structure BatchCopy where
  generation : Word
  count      : Word
  waited     : Nat
deriving DecidableEq, Repr

/-- A stock re-read in flight: the written count its sample read (R183). -/
structure Reread where
  written : Word
  waited  : Nat
deriving DecidableEq, Repr

/-- The attention causes a status block write owes when it ends: POSTED after a post, ORDERS after a batch (R182, R187). -/
structure Owed where
  posted : Bool
  orders : Bool
deriving DecidableEq, Repr

/-- What the status block shows of a face. -/
structure FaceStatus where
  sect        : Sect
  activeSlot  : Nat
  pendingSlot : Nat
  openStreaks : Nat
  patchIndex  : Word
  activeId    : Word
  assembled   : Word
deriving DecidableEq, Repr

/-- What the status block shows of a head. -/
structure HeadStatus where
  link     : LinkState
  counters : HeadCounters
deriving DecidableEq, Repr

/-- The fields of the status block's contents (R196). -/
structure StatusFields where
  state       : Inspection
  rollId      : Word
  p           : Int
  h           : Int
  upper       : FaceStatus
  lower       : FaceStatus
  taken       : Word
  results     : List OrderResult
  consumed    : Word
  pagesTaken  : BitVec 16
  postedPage  : Word
  postedAt    : BitVec 64
  issued      : Nat
  lostTotal   : Nat
  capture     : Option FaultCapture
  flags       : Byte
  outstanding : BitVec 2
  breakFlag   : Bool
  marks       : MarkCounters
  heads       : List HeadStatus
deriving DecidableEq, Repr

/-- A status block write in progress, with the contents captured at its start (R189). -/
structure StatusWrite where
  owed     : Owed
  contents : StatusFields
  waited   : Nat
deriving DecidableEq, Repr

/-- The card's message interrupt as the host has configured it, outside the five registers (R191). -/
structure MessageConfig where
  enabled : Bool
  address : BitVec 64
  data    : Word
deriving DecidableEq, Repr

/-- Exchange Unit. `pollDue` tells that the last ms tick found the poll count at or beyond the interval (R179, R181).
`statusWanted` is the one further status block write that follows the write in progress (R189). -/
structure ExchangeUnit where
  xbase         : BitVec 64
  enable        : Bool
  pollInterval  : Byte
  flags         : Byte
  levels        : Vector (BitVec 2) 8
  outstanding   : BitVec 2
  message       : MessageConfig
  pollCount     : Nat
  pollDue       : Bool
  sample        : Option Nat
  resample      : Bool
  copy          : Option BatchCopy
  reread        : Option Reread
  taken         : Word
  seenWritten   : Word
  results       : Vector OrderResult 16
  descriptors   : Vector Descriptor 16
  consumed      : Word
  pagesTaken    : BitVec 16
  invalidLatch  : Bool
  emptySpell    : Bool
  filling       : Option Page
  posting       : Option Posting
  nextPage      : Word
  lastPosted    : BitVec 64
  statusStamp   : Word
  changed       : Bool
  statusWrite   : Option StatusWrite
  statusWanted  : Option Owed
deriving DecidableEq, Repr

/-! ## Outside the part -/

/-- The levels on the part's inputs (R2, R9, R124). -/
structure Pins where
  encA       : Bool
  encB       : Bool
  sensors    : Sensors
  breakInput : Bool
deriving DecidableEq, Repr

/-- What the part sends out: a packet on a scan link, a bus write, a bus read request, a message interrupt. -/
inductive Output where
  | link (port : Port) (bytes : List Byte)
  | busWrite (address : BitVec 64) (bytes : List Byte)
  | busRead (address : BitVec 64) (bytes : Nat)
  | message (address : BitVec 64) (data : Word)
deriving DecidableEq, Repr

/-! ## The whole machine -/

/-- The part: its blocks, its straps and pins, what it has sent out (oldest first), the counter of used free values, and the
commands that are waiting, first in, first out. -/
structure State where
  pending : List Instr
  straps  : Straps
  pins    : Pins
  mu      : MotionUnit
  lu      : LinkUnit
  rx      : PerFace RxFace
  te      : TrackEngine
  sm      : PerFace SmFace
  pu      : PairingUnit
  ku      : MarkUnit
  ru      : RecordUnit
  rs      : RecipeStore
  cu      : ControlUnit
  xu      : ExchangeUnit
  out     : List Output
  free    : Nat
deriving DecidableEq, Repr

/-- Why a command could fault: never. The manual gives every command an effect in every state, so no meaning faults and the
type has no constructor. -/
inductive Fault where
deriving DecidableEq, Repr

/-- Why a command could be refused. -/
inductive Refusal where
  /-- Raised by `exec` alone, for a command whose meaning has not been written yet; safe, since it claims nothing. No arm
  uses it: every command of the table is modelled. -/
  | notModelled (mnemonic : String)
deriving DecidableEq, Repr

/-! ## Values after power-on -/

/-- The empty tally. -/
def Tally.empty : Tally := { count := 0, first := 0, last := 0 }

/-- R167, R196: the result of an order not run, with check code and field offset 0 (log 48). -/
def OrderResult.notRun : OrderResult := { code := .notRun, check := 0, offset := 0 }

/-- Section 1.9: a face of the Motion Unit after power-on. -/
def MuFace.powerOn : MuFace :=
  { nextLine := 1, prevTrigger := none, skip := Tally.empty, acceptedLevel := false, begun := none, edges := [],
    overflow := Tally.empty, sect := .wait, patchIndex := 0, startStamp := 0, lastEnd := 0,
    startFlags := { synthStart := false, segment := false }, edgeExtra := false, finishRequest := false,
    finished := false }

/-- Section 1.9: the Motion Unit after power-on, each phase's accepted level being the raw level present (R2). That the count of cycles
below the µs counter, `refPhase`, stands at 0 is the model's choice (log 7), as is s0. -/
def MotionUnit.powerOn (pins : Pins) : MotionUnit :=
  { refPhase := 0, us := 0, msPhase := 0, phaseA := { accepted := pins.encA, hold := none },
    phaseB := { accepted := pins.encB, hold := none }, p := 0, h := 0, direction := .forward, s0 := 0,
    jumps := Tally.empty, limitSent := false, faces := { upper := MuFace.powerOn, lower := MuFace.powerOn },
    spliceAccepted := false, spliceBegun := none, splices := [], stallCount := 0, stallRaised := false }

/-- R41: all counters of a head at 0. -/
def HeadCounters.zero : HeadCounters :=
  { received := 0, missing := 0, framing := 0, check := 0, overrun := 0, stray := 0, light := 0 }

/-- Section 2.6: a head after power-on, by whether its port is fitted. -/
def Head.powerOn (fitted : Bool) : Head :=
  { link := if fitted then .waiting else .absent, hello := none, recovering := false, outstanding := [], buffers := [],
    misses := 0, firstMiss := 0, failedLine := none, counters := HeadCounters.zero }

/-- A face of the Link Unit after power-on. -/
def LuFace.powerOn : LuFace := { stream := [], assembled := 0, lastTriggered := none }

/-- Section 2.6: the Link Unit after power-on. -/
def LinkUnit.powerOn (straps : Straps) : LinkUnit :=
  { heads := #v[Head.powerOn (straps.fitted 0), Head.powerOn (straps.fitted 1), Head.powerOn (straps.fitted 2),
      Head.powerOn (straps.fitted 3), Head.powerOn (straps.fitted 4), Head.powerOn (straps.fitted 5),
      Head.powerOn (straps.fitted 6), Head.powerOn (straps.fitted 7)],
    faces := { upper := LuFace.powerOn, lower := LuFace.powerOn } }

/-- Section 3.9: a face of the Run Extractor after power-on. -/
def RxFace.powerOn : RxFace := { inForce := none, runFull := Tally.empty, handed := [] }

/-- Section 5.13: a face of the Track Engine after power-on. -/
def TeFace.powerOn : TeFace :=
  { tracks := Vector.replicate 24 none, patchStart := 0, confirmations := 0, larges := 0, full := Tally.empty,
    openStreaks := 0, lastPart := none }

/-- Section 5.13: the Track Engine after power-on. -/
def TrackEngine.powerOn : TrackEngine :=
  { nextStreak := 1, faces := { upper := TeFace.powerOn, lower := TeFace.powerOn } }

/-- Section 4.8: a face of the Spot Merger after power-on. -/
def SmFace.powerOn : SmFace :=
  { spots := Vector.replicate 64 none, pinholes := 0, spotted := 0, larges := 0, noise := 0, full := Tally.empty }

/-- Section 6.9: a face of the Pairing Unit after power-on. -/
def PuFace.powerOn : PuFace := { processed := 0, log := [], floor := 0, finished := false, lastLine := none }

/-- Section 6.9: the Pairing Unit after power-on. -/
def PairingUnit.powerOn : PairingUnit :=
  { active := false, list := [], faces := { upper := PuFace.powerOn, lower := PuFace.powerOn }, pinholes := 0,
    throughs := 0 }

/-- R128: all six mark counters at 0. -/
def MarkCounters.zero : MarkCounters := { fired := 0, merged := 0, late := 0, full := 0, missed := 0, cut := 0 }

/-- Section 7.10: the Mark Unit after power-on, before the break input acts. -/
def MarkUnit.powerOn : MarkUnit :=
  { a := .idle, b := .idle, queue := [], breakFlag := false, counters := MarkCounters.zero }

/-- R141: no loss entry. -/
def LossRun.empty : LossRun :=
  { entered := 0, first := 0, count := 0, firstStamp := 0, lastStamp := 0, groups := { pinhole := 0, streak := 0, other := 0 } }

/-- Section 8.7: the Record Unit after power-on. -/
def RecordUnit.powerOn : RecordUnit :=
  { nextSeq := 1, queue := [], tallyOpen := false, runs := [], scattered := LossRun.empty, spots := 0, larges := 0,
    lostTotal := 0, abandoned := false, rollEndTaken := false }

/-- R147: the Recipe Store after power-on. -/
def RecipeStore.powerOn : RecipeStore :=
  { shared := none, faces := { upper := { active := none, pending := none }, lower := { active := none, pending := none } },
    load := none }

/-- Section 10.6: the Control Unit after power-on. -/
def ControlUnit.powerOn : ControlUnit :=
  { state := .off, rollId := 0, endReason := none, abandon := false, capture := none, batch := none, phase := .notClosing,
    limitEvent := false }

/-- Section 11.8: the Exchange Unit after power-on; XBASE and the host's message configuration are given, since a part reset
keeps the one and neither reset touches the other. -/
def ExchangeUnit.powerOn (xbase : BitVec 64) (message : MessageConfig) : ExchangeUnit :=
  { xbase := xbase, enable := false, pollInterval := 10, flags := 0, levels := Vector.replicate 8 0, outstanding := 0,
    message := message, pollCount := 0, pollDue := false, sample := none, resample := false, copy := none, reread := none,
    taken := 0, seenWritten := 0, results := Vector.replicate 16 OrderResult.notRun,
    descriptors := Vector.replicate 16 { address := 0, pages := 0 }, consumed := 0, pagesTaken := 0,
    invalidLatch := false, emptySpell := false, filling := none, posting := none, nextPage := 1, lastPosted := 0,
    statusStamp := 0, changed := false, statusWrite := none, statusWanted := none }

/-- Every block at its power-on value, with the straps latched, the pins and the host's message configuration as they stand and
nothing sent or waiting. -/
def State.powerOn (straps : Straps) (pins : Pins) (message : MessageConfig) : State :=
  { pending := [], straps := straps, pins := pins, mu := MotionUnit.powerOn pins, lu := LinkUnit.powerOn straps,
    rx := { upper := RxFace.powerOn, lower := RxFace.powerOn }, te := TrackEngine.powerOn,
    sm := { upper := SmFace.powerOn, lower := SmFace.powerOn }, pu := PairingUnit.powerOn, ku := MarkUnit.powerOn,
    ru := RecordUnit.powerOn, rs := RecipeStore.powerOn, cu := ControlUnit.powerOn,
    xu := ExchangeUnit.powerOn 0 message, out := [], free := 0 }

/-- The straps, pins and message configuration that stand outside the part at reset: the manual fixes none of them.
DESIGN CHOICE, assumption log 2. -/
def resetStraps : Straps := { eightPorts := true, twoMarkers := true }
def resetPins : Pins :=
  { encA := false, encB := false, sensors := { markUpper := false, markLower := false, splice := false },
    breakInput := false }
def resetMessage : MessageConfig := { enabled := true, address := 0, data := 0 }

/-- The machine right after reset: every block at the power-on value its chapter gives, an empty queue of commands, and the
outside world as `resetStraps`, `resetPins` and `resetMessage` name it. -/
def State.reset : State := State.powerOn resetStraps resetPins resetMessage

end Sys2Proof.Machine
end

