-- ==== Sys2Proof/Machine/Operands.lean ====
section
/-! DEFINITION. Reading the byte formats that reach the part: little-endian fields of host memory (Introduction, R195, R198),
scan-link packets (R25, R26), order entries, stock descriptors and recipe slots. -/

namespace Sys2Proof.Machine

/-! ## Fields of a byte list -/

/-- The byte at an offset. -/
def byteAt (bytes : List Byte) (offset : Nat) : Byte := bytes.getD offset 0

/-- Unsigned little-endian fields of 8, 16 and 32 bits. -/
def u8 (bytes : List Byte) (offset : Nat) : Nat := (byteAt bytes offset).toNat
def u16 (bytes : List Byte) (offset : Nat) : Nat := u8 bytes offset + 256 * u8 bytes (offset + 1)
def u32 (bytes : List Byte) (offset : Nat) : Nat := u16 bytes offset + 65536 * u16 bytes (offset + 2)

/-- Little-endian words of 32 and 64 bits. -/
def word32 (bytes : List Byte) (offset : Nat) : Word := BitVec.ofNat 32 (u32 bytes offset)
def word64 (bytes : List Byte) (offset : Nat) : BitVec 64 :=
  BitVec.ofNat 64 (u32 bytes offset + 4294967296 * u32 bytes (offset + 4))

/-- R193: signed fields are two's complement. -/
def s32 (bytes : List Byte) (offset : Nat) : Int := (word32 bytes offset).toInt

/-! ## Packets (R25, R26, R33) -/

/-- R26: one bit entering the check register. -/
def crcBit (reg : BitVec 16) (bit : Bool) : BitVec 16 :=
  if reg.msb != bit then (reg <<< 1) ^^^ 0x1021#16 else reg <<< 1

/-- R26: one byte entering, most significant bit first. -/
def crcByte (reg : BitVec 16) (byte : Byte) : BitVec 16 :=
  [7, 6, 5, 4, 3, 2, 1, 0].foldl (fun r i => crcBit r (byte.getLsbD i)) reg

/-- R26: the check word of the bytes from the kind byte on. -/
def checkWord (bytes : List Byte) : BitVec 16 := bytes.foldl crcByte 0xFFFF#16

/-- R25: a field of 16 bits on a link, high-order byte first. -/
def be16 (value : BitVec 16) : List Byte := [(value >>> 8).setWidth 8, value.setWidth 8]

/-- R26: a sent packet with its check word appended. -/
def withCheck (bytes : List Byte) : List Byte := bytes ++ be16 (checkWord bytes)

/-- R25: the lighting byte of a packet. -/
def lightingByte : Lighting → Byte
  | .r => 0x00
  | .t => 0x01

/-- R25, R27: the TRIGGER of a line. -/
def triggerPacket (number : Nat) (lighting : Lighting) : List Byte :=
  withCheck [0x01, BitVec.ofNat 8 number, lightingByte lighting]

/-- R25, R31: a RETRAIN. -/
def retrainPacket : List Byte := withCheck [0x02]

/-- R25: the big-endian 16-bit field of a packet. -/
def linkU16 (bytes : List Byte) (offset : Nat) : Nat := 256 * u8 bytes offset + u8 bytes (offset + 1)

/-- R33: framing of a HELLO: closed by its end symbol, and as long as its fields. -/
def helloFramed (packet : Packet) : Bool := packet.closed && decide (packet.bytes.length = 4)

/-- R25: what a HELLO announces. -/
def helloFields (packet : Packet) : Hello :=
  { headId := byteAt packet.bytes 1, count := BitVec.ofNat 16 (linkU16 packet.bytes 2) }

/-- R25: pixel count, tag, lighting echo and pixels of a LINE. -/
def lineCount (packet : Packet) : Nat := linkU16 packet.bytes 4
def lineTag (packet : Packet) : Nat := u8 packet.bytes 2
def lineEcho (packet : Packet) : Byte := byteAt packet.bytes 3
def linePixels (packet : Packet) : List Byte := (packet.bytes.drop 6).take (lineCount packet)

/-- R33, check 1: framing of a packet in a line buffer. `width` is the head's recipe width, or none where no width is known. -/
def lineFramed (packet : Packet) (port : Port) (width : Option Nat) : Bool :=
  packet.closed && packet.bytes.head? == some lineKind && decide (packet.bytes.length = 8 + lineCount packet)
    && decide (u8 packet.bytes 1 = port.val) && (width.all fun w => decide (lineCount packet = w))

/-- R33, check 2: the check word received equals the one computed over the bytes before it. -/
def lineChecked (packet : Packet) : Bool :=
  decide (linkU16 packet.bytes (packet.bytes.length - 2) =
    (checkWord (packet.bytes.take (packet.bytes.length - 2))).toNat)

/-! ## Orders and stock (R195) -/

/-- R181: the eight bytes from +0x000 that the first read of a sample finds. -/
def sampleOrders (generation count : FieldBytes) : List Byte := generation.toList ++ count.toList

/-- R195: order generation and order count in the bytes from +0x000, the stock written count in those from +0x400. -/
def sampleGeneration (orders : List Byte) : Word := word32 orders 0x000
def sampleCount (orders : List Byte) : Word := word32 orders 0x004
def sampleWritten (stock : List Byte) : Word := word32 stock 0x000

/-- The 32 bytes of order entry `i`. -/
def orderEntry (entries : OrderListBytes) (i : Nat) : List Byte := (entries.toList.drop (32 * i)).take 32

/-- R195: the order an entry names, with its operands. -/
def orderOf (entry : List Byte) : Instr :=
  match u8 entry 0 with
  | 1 => .start (word32 entry 8) (word32 entry 12)
  | 2 => .stop
  | 3 => .halt
  | 4 => .recipe (word32 entry 8)
  | 5 => .flush
  | 6 => .note (word64 entry 8)
  | 7 => .markon
  | 8 => .clear
  | 9 => .levels #v[byteAt entry 8, byteAt entry 9, byteAt entry 10, byteAt entry 11, byteAt entry 12, byteAt entry 13,
      byteAt entry 14, byteAt entry 15]
  | 10 => .headreset (word32 entry 8)
  | _ => .unknownOrder (byteAt entry 0)

/-- R195: stock descriptor `i`. -/
def descriptorAt (bytes : StockBytes) (i : Nat) : Descriptor :=
  { address := word64 bytes.toList (16 * i), pages := BitVec.ofNat 16 (u16 bytes.toList (16 * i + 8)) }

/-! ## Recipe slots (R198) -/

/-- Offsets of the two face parts in a recipe slot. -/
def facePartOffset : Face → Nat
  | .upper => 0x200
  | .lower => 0x600

/-- Offset of head entry `p`, and of lane `i` within a face part. -/
def headOffset (p : Nat) : Nat := 0x090 + 8 * p
def laneOffset (i : Nat) : Nat := 0x240 + 32 * i

def readHead (slot : List Byte) (p : Nat) : HeadEntry :=
  { present := u8 slot (headOffset p) == 1, faceCode := byteAt slot (headOffset p + 1),
    origin := u16 slot (headOffset p + 2), width := u16 slot (headOffset p + 4),
    missLimit := u8 slot (headOffset p + 6) }

def readPattern (code : Nat) : Pattern := if code = 0 then .rt else if code = 1 then .rOnly else .tOnly

def readTarget (code : Nat) : MarkTarget := if code = 0 then .none else if code = 1 then .a else .b

def readMarker (slot : List Byte) (offset : Nat) : Marker :=
  { offset := u32 slot offset, length := u16 slot (offset + 4), activeHigh := u8 slot (offset + 6) == 1 }

def readPolicy (slot : List Byte) : MarkPolicy :=
  { pinholeOther := readTarget (u8 slot 0x074), pinholeThrough := readTarget (u8 slot 0x075),
    spot := readTarget (u8 slot 0x076), large := readTarget (u8 slot 0x077), streak := readTarget (u8 slot 0x078) }

/-- R198: the shared part of a slot. -/
def readShared (slot : List Byte) : SharedPart :=
  { pitch := u8 slot 0x040, lighting := readPattern (u8 slot 0x041), filter := u8 slot 0x042,
    markFilter := u8 slot 0x043, minPeriod := u16 slot 0x044, deadline := u16 slot 0x046, d := u32 slot 0x048,
    qU := s32 slot 0x04C, qL := s32 slot 0x050, qS := s32 slot 0x054, eb := u32 slot 0x058, ea := u32 slot 0x05C,
    pairing := u8 slot 0x060 == 1, mirror := u8 slot 0x061 == 1, cdTolerance := u8 slot 0x062,
    columnOffset := s32 slot 0x064, mdWindow := u16 slot 0x068, autoResume := u8 slot 0x06A == 1,
    postAge := u16 slot 0x06C, stallTime := u16 slot 0x06E, repeatInterval := u32 slot 0x070,
    policy := readPolicy slot,
    markerA := readMarker slot 0x080, markerB := readMarker slot 0x088,
    heads := #v[readHead slot 0, readHead slot 1, readHead slot 2, readHead slot 3, readHead slot 4, readHead slot 5,
      readHead slot 6, readHead slot 7] }

/-- R198: one lane, read from the bytes of a face part. -/
def readLane (part : List Byte) (i : Nat) : Lane :=
  let lane := part.drop (laneOffset i)
  { first := u16 lane 0, last := u16 lane 2, kind := if u8 lane 4 = 0 then .coated else .margin, minWidth := u8 lane 5,
    bridge := u8 lane 6,
    streakLighting := if u8 lane 7 = 0 then .r else if u8 lane 7 = 1 then .t else .either,
    maskCoatedR := byteAt lane 8, maskCoatedT := byteAt lane 9, maskGapR := byteAt lane 10, maskGapT := byteAt lane 11,
    window := u8 lane 12, maxWidth := u8 lane 13, tentativeLimit := u8 lane 14, confirmHits := u16 lane 16,
    fadeMisses := u16 lane 18, endMisses := u16 lane 20 }

/-- R198: a face part, read from the slot's bytes from its offset on. -/
def readFacePart (part : List Byte) : FacePart :=
  { mode := if u8 part 0x000 = 0 then .intermittent else .continuous,
    gap := if u8 part 0x001 = 0 then .bridge else .split, nominal := u32 part 0x004, tolerance := u32 part 0x008,
    maxGap := u32 part 0x00C, segment := u32 part 0x010, reach := u8 part 0x014, link := u8 part 0x015,
    pinholeCd := u8 part 0x016, pinholeMd := u8 part 0x017, spotCd := u8 part 0x018, spotMd := u8 part 0x019,
    streakStart := u8 part 0x01A, minPixels := u16 part 0x01C, classR := (part.drop 0x040).take 256,
    classT := (part.drop 0x140).take 256, lanes := (List.range (u8 part 0x002)).map (readLane part) }

/-- The face part of face `f` in a slot. -/
def slotFacePart (slot : List Byte) (f : Face) : FacePart := readFacePart (slot.drop (facePartOffset f))

/-- R198: the recipe id. -/
def slotRecipeId (slot : List Byte) : Word := word32 slot 0

end Sys2Proof.Machine
end

