-- ==== Sys2Proof/Machine/Ops.lean ====
section
/-! DEFINITION. Named operations over the state: access by face, port and table index, one updater for each block, tallies,
ordered insertion, and the views of the recipe and of the inspection state that every block reads. -/

namespace Sys2Proof.Machine

/-! ## Faces -/

/-- The opposite side. -/
def otherFace : Face → Face
  | .upper => .lower
  | .lower => .upper

def PerFace.get {α : Type} (x : PerFace α) : Face → α
  | .upper => x.upper
  | .lower => x.lower

def PerFace.set {α : Type} (x : PerFace α) (f : Face) (v : α) : PerFace α :=
  match f with
  | .upper => { x with upper := v }
  | .lower => { x with lower := v }

def PerFace.modify {α : Type} (x : PerFace α) (f : Face) (g : α → α) : PerFace α := x.set f (g (x.get f))

/-- The same value on both faces. -/
def PerFace.both {α : Type} (v : α) : PerFace α := { upper := v, lower := v }

/-- The ports in increasing number. -/
def allPorts : List Port := [0, 1, 2, 3, 4, 5, 6, 7]

/-! ## One updater for each block -/

def State.onMu (s : State) (g : MotionUnit → MotionUnit) : State := { s with mu := g s.mu }
def State.onLu (s : State) (g : LinkUnit → LinkUnit) : State := { s with lu := g s.lu }
def State.onRx (s : State) (g : PerFace RxFace → PerFace RxFace) : State := { s with rx := g s.rx }
def State.onTe (s : State) (g : TrackEngine → TrackEngine) : State := { s with te := g s.te }
def State.onSm (s : State) (g : PerFace SmFace → PerFace SmFace) : State := { s with sm := g s.sm }
def State.onPu (s : State) (g : PairingUnit → PairingUnit) : State := { s with pu := g s.pu }
def State.onKu (s : State) (g : MarkUnit → MarkUnit) : State := { s with ku := g s.ku }
def State.onRu (s : State) (g : RecordUnit → RecordUnit) : State := { s with ru := g s.ru }
def State.onRs (s : State) (g : RecipeStore → RecipeStore) : State := { s with rs := g s.rs }
def State.onCu (s : State) (g : ControlUnit → ControlUnit) : State := { s with cu := g s.cu }
def State.onXu (s : State) (g : ExchangeUnit → ExchangeUnit) : State := { s with xu := g s.xu }
def State.onPins (s : State) (g : Pins → Pins) : State := { s with pins := g s.pins }

/-- The part sends something out. -/
def State.emit (s : State) (o : Output) : State := { s with out := s.out ++ [o] }

/-- A free value is used up (log 3). -/
def State.useFree (s : State) : State := { s with free := s.free + 1 }

/-! ## Copies of one face, heads -/

def State.onMuFace (s : State) (f : Face) (g : MuFace → MuFace) : State :=
  s.onMu fun m => { m with faces := m.faces.modify f g }
def State.onLuFace (s : State) (f : Face) (g : LuFace → LuFace) : State :=
  s.onLu fun l => { l with faces := l.faces.modify f g }
def State.onRxFace (s : State) (f : Face) (g : RxFace → RxFace) : State := s.onRx fun r => r.modify f g
def State.onTeFace (s : State) (f : Face) (g : TeFace → TeFace) : State :=
  s.onTe fun t => { t with faces := t.faces.modify f g }
def State.onSmFace (s : State) (f : Face) (g : SmFace → SmFace) : State := s.onSm fun m => m.modify f g
def State.onPuFace (s : State) (f : Face) (g : PuFace → PuFace) : State :=
  s.onPu fun p => { p with faces := p.faces.modify f g }
def State.onRsFace (s : State) (f : Face) (g : RsFace → RsFace) : State :=
  s.onRs fun r => { r with faces := r.faces.modify f g }

def State.muFace (s : State) (f : Face) : MuFace := s.mu.faces.get f
def State.luFace (s : State) (f : Face) : LuFace := s.lu.faces.get f
def State.rxFace (s : State) (f : Face) : RxFace := s.rx.get f
def State.teFace (s : State) (f : Face) : TeFace := s.te.faces.get f
def State.smFace (s : State) (f : Face) : SmFace := s.sm.get f
def State.puFace (s : State) (f : Face) : PuFace := s.pu.faces.get f
def State.rsFace (s : State) (f : Face) : RsFace := s.rs.faces.get f

def State.head (s : State) (p : Port) : Head := s.lu.heads[p]
def State.onHead (s : State) (p : Port) (g : Head → Head) : State :=
  s.onLu fun l => { l with heads := l.heads.set p.val (g l.heads[p]) }
def State.onCounters (s : State) (p : Port) (g : HeadCounters → HeadCounters) : State :=
  s.onHead p fun h => { h with counters := g h.counters }

/-- An item joins the tail of a face's stream (R8, R38). -/
def State.pushStream (s : State) (f : Face) (item : StreamItem) : State :=
  s.onLuFace f fun l => { l with stream := l.stream ++ [item] }

/-! ## Tallies and counters -/

/-- One more event of a tally, at a stamp. -/
def Tally.add (t : Tally) (stamp : Int) : Tally :=
  { count := satAdd max32 t.count 1, first := if t.count = 0 then stamp else t.first, last := stamp }

def Tally.isEmpty (t : Tally) : Bool := t.count == 0

def bump16 (n : Nat) : Nat := satAdd max16 n 1
def bump32 (n : Nat) : Nat := satAdd max32 n 1

/-! ## Order -/

/-- Insertion before the first element that comes strictly after the new one; equal keys keep their order of insertion. -/
def insertBy {α : Type} (after : α → α → Bool) (x : α) : List α → List α
  | [] => [x]
  | y :: ys => if after y x then x :: y :: ys else y :: insertBy after x ys

/-- The elements in order, those with equal keys in the order they stood. -/
def sortBy {α : Type} (after : α → α → Bool) (xs : List α) : List α :=
  xs.foldl (fun acc x => insertBy after x acc) []

/-! ## Views -/

/-- The active shared part (R147). -/
def State.shared (s : State) : Option SharedPart := s.rs.shared.map Sourced.part

/-- The active face part of a face (R147). -/
def State.activePart (s : State) (f : Face) : Option FacePart := (s.rsFace f).active.map Sourced.part

/-- R160: the state is RUNNING or STOPPING. -/
def State.inspecting (s : State) : Bool :=
  match s.cu.state with
  | .running | .stopping => true
  | .off | .idle | .closing => false

def HeadEntry.face (e : HeadEntry) : Face := if e.faceCode = 0 then .upper else .lower

/-- R24: the entry of a present head on a fitted port; a part with no active recipe has none. -/
def State.entry (s : State) (p : Port) : Option HeadEntry :=
  match s.shared with
  | none => none
  | some sp => if sp.heads[p].present && s.straps.fitted p then some sp.heads[p] else none

/-- R24: the columns one lower-numbered head takes off a range that another head covers: a prefix of it or a suffix. -/
def cutOwned (full owned : Nat × Nat) (origin width : Nat) : Nat × Nat :=
  if origin ≤ full.1 then (max owned.1 (min full.2 (origin + width)), owned.2)
  else if full.2 ≤ origin + width then (owned.1, min owned.2 origin)
  else owned

/-- R24: the columns a present head owns, as a first column and the column after the last; the lower-numbered of two heads of
one face owns the columns they share. -/
def ownedSpan (heads : Vector HeadEntry 8) (p : Port) : Nat × Nat :=
  let e := heads[p]
  let full := (e.origin, e.origin + e.width)
  allPorts.foldl
    (fun owned q =>
      if decide (q.val < p.val) && heads[q].present && heads[q].face == e.face then
        cutOwned full owned heads[q].origin heads[q].width
      else owned)
    full

/-- R24: the owned range of a present head, or none when it owns no column. -/
def ownedRange (heads : Vector HeadEntry 8) (p : Port) : Option Range :=
  let span := ownedSpan heads p
  if span.1 < span.2 then some { lo := span.1, hi := span.2 - 1 } else none

/-- R6: the lighting of a line. -/
def lightingOf (pattern : Pattern) (number : Nat) : Lighting :=
  match pattern with
  | .rt => if number % 2 = 0 then .r else .t
  | .rOnly => .r
  | .tOnly => .t

/-- Lights seen with one more lighting. -/
def Lights.add (l : Lights) : Lighting → Lights
  | .r => { l with r := true }
  | .t => { l with t := true }

def Lights.union (a b : Lights) : Lights := { r := a.r || b.r, t := a.t || b.t }

/-- A face part with no lanes: what the lookups below answer where a face part is missing, which no roll reaches, since both
faces have a face part in force throughout every roll (R43). -/
def FacePart.empty : FacePart :=
  { mode := .intermittent, gap := .bridge, nominal := 0, tolerance := 0, maxGap := 0, segment := 0, reach := 0, link := 0,
    pinholeCd := 0, pinholeMd := 0, spotCd := 0, spotMd := 0, streakStart := 0, minPixels := 0, classR := [],
    classT := [], lanes := [] }

/-- A lane that yields nothing, for a lane index outside the lane map. -/
def Lane.empty : Lane :=
  { first := 0, last := 0, kind := .margin, minWidth := 0, bridge := 0, streakLighting := .either, maskCoatedR := 0,
    maskCoatedT := 0, maskGapR := 0, maskGapT := 0, window := 0, maxWidth := 0, tentativeLimit := 0, confirmHits := 0,
    fadeMisses := 0, endMisses := 0 }

/-- Lane `i` of a face part. -/
def FacePart.lane (part : FacePart) (i : Nat) : Lane := part.lanes.getD i Lane.empty

/-- A head table with no present head, for the lookups where no shared part is active. -/
def emptyHeads : Vector HeadEntry 8 :=
  Vector.replicate 8 { present := false, faceCode := 0, origin := 0, width := 0, missLimit := 0 }

/-- The head table of the active shared part. -/
def State.headTable (s : State) : Vector HeadEntry 8 := (s.shared.map SharedPart.heads).getD emptyHeads

end Sys2Proof.Machine
end

