-- ==== Sys2Proof/Machine/Flags.lean ====
section
/-! DEFINITION. The attention flags and levels (R191, R192) and the fault capture (R146). -/

namespace Sys2Proof.Machine

/-- R191: the bit of a cause in ATTN, and its place among the levels (R176). -/
def causeIndex : Cause → Fin 8
  | .posted => 0
  | .orders => 1
  | .streak => 2
  | .through => 3
  | .fault => 4
  | .stockEmpty => 5
  | .loss => 6
  | .mark => 7

/-- R191: the host's message data with the level in its low two bits. -/
def messageData (data : Word) (level : BitVec 2) : Word := (data &&& 0xFFFFFFFC#32) ||| level.setWidth 32

/-- R191: one message interrupt at a level; nothing goes out while the host has message interrupts disabled. -/
def sendMessage (s : State) (level : BitVec 2) : State :=
  if s.xu.message.enabled then
    s.emit (.message s.xu.message.address (messageData s.xu.message.data level))
  else s

/-- R191: the flag of a cause set. -/
def setFlag (flags : Byte) (c : Cause) : Byte := flags ||| (1#8 <<< (causeIndex c).val)

/-- R191: a cause occurs. Its flag is set whatever its level; a level above 0 and above the outstanding level sends a message
and becomes the outstanding level. -/
def raise (s : State) (c : Cause) : State :=
  let s1 := s.onXu fun x => { x with flags := setFlag x.flags c }
  let level := s.xu.levels[causeIndex c]
  if s.xu.outstanding < level then
    sendMessage (s1.onXu fun x => { x with outstanding := level }) level
  else s1

/-- R192: the highest level among the flags set, or 0. -/
def highestLevel (flags : Byte) (levels : Vector (BitVec 2) 8) : BitVec 2 :=
  allPorts.foldl
    (fun best i => if flags.getLsbD i.val && decide (best < levels[i]) then levels[i] else best) 0

/-- R192: flags cleared, the outstanding level computed anew and signalled again when it is above 0. -/
def clearFlags (s : State) (mask : Byte) : State :=
  let flags := s.xu.flags &&& ~~~mask
  let level := highestLevel flags s.xu.levels
  let s1 := s.onXu fun x => { x with flags := flags, outstanding := level }
  if 0 < level then sendMessage s1 level else s1

/-- R146: the fault capture takes a code with the value of H, and attention cause FAULT is raised. -/
def captureFault (s : State) (code : FaultCode) : State :=
  raise (s.onCu fun c => { c with capture := some { code := code, stamp := s.mu.h } }) .fault

end Sys2Proof.Machine
end

