-- ==== Sys2Proof/Machine/Marking.lean ====
section
/-! DEFINITION. The Mark Unit's operations (chapter 7): mark requests, insertion, laying a mark, cuts, the break flag. -/

namespace Sys2Proof.Machine

/-- The five entries of the mark policy (R117). -/
inductive PolicyEntry where
  | pinholeOther
  | pinholeThrough
  | spot
  | large
  | streak
deriving DecidableEq, Repr

/-- R117: the output a policy entry maps to. -/
def MarkPolicy.target (policy : MarkPolicy) : PolicyEntry → MarkTarget
  | .pinholeOther => policy.pinholeOther
  | .pinholeThrough => policy.pinholeThrough
  | .spot => policy.spot
  | .large => policy.large
  | .streak => policy.streak

def SharedPart.marker (sp : SharedPart) : MarkOut → Marker
  | .a => sp.markerA
  | .b => sp.markerB

def MarkUnit.output (k : MarkUnit) : MarkOut → OutState
  | .a => k.a
  | .b => k.b

def MarkUnit.setOutput (k : MarkUnit) (o : MarkOut) (v : OutState) : MarkUnit :=
  match o with
  | .a => { k with a := v }
  | .b => { k with b := v }

/-- R116: the level an output drives, or none while it is released (no recipe active) or not fitted. -/
def outputLevel (s : State) (o : MarkOut) : Option Bool :=
  match s.shared with
  | none => none
  | some sp =>
    if s.straps.twoMarkers then
      match s.ku.output o with
      | .active _ => some (sp.marker o).activeHigh
      | .idle | .forced => some (!(sp.marker o).activeHigh)
    else none

def State.onMarkCounters (s : State) (g : MarkCounters → MarkCounters) : State :=
  s.onKu fun k => { k with counters := g k.counters }

def bumpFired (s : State) : State := s.onMarkCounters fun c => { c with fired := bump32 c.fired }
def bumpMerged (s : State) : State := s.onMarkCounters fun c => { c with merged := bump32 c.merged }
def bumpLate (s : State) : State := s.onMarkCounters fun c => { c with late := bump32 c.late }
def bumpMarkFull (s : State) : State := s.onMarkCounters fun c => { c with full := bump32 c.full }
def bumpMissed (s : State) : State := s.onMarkCounters fun c => { c with missed := bump32 c.missed }
def bumpCut (s : State) : State := s.onMarkCounters fun c => { c with cut := bump32 c.cut }

/-- R118, R119: the outcome of a request with an output, by its fire position and pulse length. At the edge of fresh web it is
judged against H; below H, against H + 1, the first position at which the unit can act again. -/
def markOutcome (p h : Int) (queued : Nat) (fire : Int) (length : Nat) : MarkState :=
  if h < fire then
    if queued < Config.markQueueSize then .queued else .full
  else if p = h then
    if h < fire + length then .partly else .late
  else if fire + length ≤ h + 1 then .late
  else if queued < Config.markQueueSize then .partly
  else .full

/-- R120: an entry goes after every entry whose fire position is at or below its own. -/
def insertMark (entry : MarkEntry) (queue : List MarkEntry) : List MarkEntry :=
  insertBy (fun y x => decide (x.fire < y.fire)) entry queue

/-- R121: a mark acts on its output: an IDLE output becomes ACTIVE, an ACTIVE one has the mark merged into its pulse. -/
def layMark (s : State) (o : MarkOut) (stop : Int) : State :=
  match s.ku.output o with
  | .idle => bumpFired (s.onKu fun k => k.setOutput o (.active stop))
  | .active e => bumpMerged (s.onKu fun k => k.setOutput o (.active (max e stop)))
  | .forced => s

/-- The answer to a mark request: the mark state, and the entry that is missed at once because the break flag is set (R125). -/
structure MarkAnswer where
  mark   : MarkState
  missed : Option MarkEntry
deriving DecidableEq, Repr

/-- R118, R119, R125: what a decided request with an output does. -/
def takeRequest (s : State) (entry : MarkEntry) : State × MarkAnswer :=
  match markOutcome s.mu.p s.mu.h s.ku.queue.length entry.fire entry.length with
  | .queued => (s.onKu fun k => { k with queue := insertMark entry k.queue }, { mark := .queued, missed := none })
  | .partly =>
    if s.mu.p = s.mu.h then
      if s.ku.breakFlag then (s, { mark := .partly, missed := some entry })
      else (layMark s entry.out (entry.fire + entry.length), { mark := .partly, missed := none })
    else (s.onKu fun k => { k with queue := insertMark entry k.queue }, { mark := .partly, missed := none })
  | .late => (raise (bumpLate s) .mark, { mark := .late, missed := none })
  | .full => (raise (bumpMarkFull s) .mark, { mark := .full, missed := none })
  | .none => (s, { mark := .none, missed := none })

/-- R117: a mark request under a policy entry. -/
def markRequest (s : State) (kind : PolicyEntry) (stamp : Int) (source : Word) : State × MarkAnswer :=
  let none := (s, { mark := MarkState.none, missed := Option.none })
  match s.shared with
  | Option.none => none
  | some sp =>
    if s.straps.twoMarkers then
      match sp.policy.target kind with
      | .none => none
      | .a =>
        takeRequest s { out := .a, fire := stamp + sp.markerA.offset, length := sp.markerA.length, source := source }
      | .b =>
        takeRequest s { out := .b, fire := stamp + sp.markerB.offset, length := sp.markerB.length, source := source }
    else none

/-- An ACTIVE output is ended early and counted as cut (R116, R123, R124). -/
def cutOutput (s : State) (o : MarkOut) : State :=
  match s.ku.output o with
  | .active _ => bumpCut (s.onKu fun k => k.setOutput o .idle)
  | .idle | .forced => s

/-- R123: the reverse-start event ends every ACTIVE pulse. -/
def cutPulses (s : State) : State := cutOutput (cutOutput s .a) .b

/-- R121: an ACTIVE output whose end H has reached returns to IDLE. -/
def endPulse (s : State) (o : MarkOut) : State :=
  match s.ku.output o with
  | .active stop => if stop ≤ s.mu.h then s.onKu fun k => k.setOutput o .idle else s
  | .idle | .forced => s

/-- R124: the break input changes to active. -/
def breakActivated (s : State) : State :=
  if s.ku.breakFlag then raise s .mark
  else
    let s1 := cutPulses s
    let s2 := s1.onKu fun k => { k with breakFlag := true }
    let s3 :=
      if s.straps.twoMarkers then s2.onKu fun k => (k.setOutput .a .forced).setOutput .b .forced else s2
    raise s3 .mark

/-- R126: the break flag is cleared and both outputs return from FORCED to IDLE. -/
def clearBreak (s : State) : State :=
  s.onKu fun k => { (k.setOutput .a .idle).setOutput .b .idle with breakFlag := false }

/-- R126: auto-resume, when a patch-start item of the upper face reaches the unit. -/
def autoResume (s : State) : State :=
  match s.shared with
  | none => s
  | some sp => if sp.autoResume && s.ku.breakFlag && !s.pins.breakInput then clearBreak s else s

/-- R129: the Mark Unit at `start`. -/
def startMarks (s : State) : State :=
  s.onKu fun k =>
    { k with
      a := if k.a = .forced then .forced else .idle
      b := if k.b = .forced then .forced else .idle
      queue := []
      counters := MarkCounters.zero }

end Sys2Proof.Machine
end

