-- ==== Sys2Proof/Machine/Records.lean ====
section
/-! DEFINITION. The Record Unit's operations (chapter 8): numbering, the holding queue, loss, LOSS records, and the issue of a
record with its mark request. -/

namespace Sys2Proof.Machine

/-- R132: the slots of a record, one or two. -/
def RecordBody.slots : RecordBody → Nat
  | .pinhole _ _ (some _) => 2
  | .streakClose _ _ _ _ _ _ reason _ _ _ held => if reason = .merged ∨ held.count ≠ 0 then 2 else 1
  | _ => 1

/-- The slots a list of records occupies. -/
def slotsOf (records : List Record) : Nat := (records.map fun r => r.body.slots).sum

/-- R138: the free slots of the holding queue. -/
def freeSlots (r : RecordUnit) : Nat := Config.holdingSlots - slotsOf r.queue

/-- R141: one record more in the group of its kind. -/
def LossGroups.add (g : LossGroups) : RecordBody → LossGroups
  | .pinhole _ _ _ => { g with pinhole := bump32 g.pinhole }
  | .streakOpen _ _ _ _ _ _ _ _ _ => { g with streak := bump32 g.streak }
  | .streakClose _ _ _ _ _ _ _ _ _ _ _ => { g with streak := bump32 g.streak }
  | _ => { g with other := bump32 g.other }

/-- R141: a loss entry with one more record, lost at the stamp `h`. -/
def LossRun.add (run : LossRun) (h : Int) (body : RecordBody) : LossRun :=
  { run with
    count := bump32 run.count
    firstStamp := if run.count = 0 then h else run.firstStamp
    lastStamp := h
    groups := run.groups.add body }

/-- R141: the run whose next number is `seq` is extended. -/
def extendRun (seq : Nat) (h : Int) (body : RecordBody) : List LossRun → Option (List LossRun)
  | [] => none
  | run :: rest =>
    if run.first + run.count = seq then some (run.add h body :: rest)
    else (extendRun seq h body rest).map (run :: ·)

/-- R142: the place in the order of entry of a run that joins the list now, behind every run already there. -/
def nextEntry (runs : List LossRun) : Nat := runs.foldl (fun n x => max n (x.entered + 1)) 0

/-- R142: the oldest of the runs, the earliest entered. -/
def oldestRun : List LossRun → Option LossRun
  | [] => none
  | run :: rest =>
    match oldestRun rest with
    | none => some run
    | some x => if run.entered ≤ x.entered then some run else some x

/-- R141: a lost record joins the tally: it extends a run, opens a run in its place, or joins the scattered entry. -/
def joinLoss (r : RecordUnit) (seq : Nat) (h : Int) (body : RecordBody) : RecordUnit :=
  match extendRun seq h body r.runs with
  | some runs => { r with tallyOpen := true, runs := runs }
  | none =>
    if r.runs.length < Config.lossRuns then
      let run := { LossRun.empty with first := seq, entered := nextEntry r.runs }.add h body
      { r with tallyOpen := true, runs := insertBy (fun y x => decide (x.first < y.first)) run r.runs }
    else { r with tallyOpen := true, scattered := r.scattered.add h body }

/-- R140: a record is lost. -/
def loseRecord (s : State) (entry : Record) : State :=
  s.onRu fun r => { joinLoss r entry.seq s.mu.h entry.body with lostTotal := bump32 r.lostTotal }

/-- R130: a record takes the next sequence, or none once the last has been given. The sequence-limit event goes out as its
number is given. -/
def takeNumber (s : State) : State × Option Nat :=
  let n := s.ru.nextSeq
  if n ≤ Config.lastSequence then
    let s1 := s.onRu fun r => { r with nextSeq := n + 1 }
    (if n = Config.sequenceLimit then s1.onCu fun c => { c with limitEvent := true } else s1, some n)
  else (s, none)

/-- R138, R140: a numbered record enters the holding queue, or is lost when the tally is open or it does not fit. A record
without a number is discarded and counted in the lost record total (R130). -/
def placeRecord (s : State) (number : Option Nat) (mark : MarkState) (body : RecordBody) : State :=
  match number with
  | none => s.onRu fun r => { r with lostTotal := bump32 r.lostTotal }
  | some seq =>
    let entry : Record := { seq := seq, mark := mark, body := body }
    if s.ru.tallyOpen || decide (freeSlots s.ru < body.slots) then loseRecord s entry
    else s.onRu fun r => { r with queue := r.queue ++ [entry] }

/-- R134, R146: the roll counts, and the fault capture for a FAULT record, as a record is taken. -/
def countRecord (s : State) (body : RecordBody) : State :=
  match body with
  | .spot _ => s.onRu fun r => { r with spots := bump32 r.spots }
  | .large _ => s.onRu fun r => { r with larges := bump32 r.larges }
  | .fault code _ _ _ _ => captureFault s code
  | .rollStart _ _ _ _ | .rollEnd _ _ _ _ _ _ _ | .patch _ _ _ _ _ _ _ _ _ _ _ | .pinhole _ _ _
  | .streakOpen _ _ _ _ _ _ _ _ _ | .streakClose _ _ _ _ _ _ _ _ _ _ _ | .markMissed _ _ _ _ | .splice _ _ _
  | .recipe _ _ _ _ | .note _ _ | .loss _ _ _ _ _ _ => s

/-- R131: a record without a mark request is taken. -/
def issue (s : State) (body : RecordBody) : State :=
  let (s1, number) := takeNumber s
  countRecord (placeRecord s1 number .none body) body

/-- R127: a MARK_MISSED record is issued and counted. -/
def issueMissed (s : State) (entry : MarkEntry) (reason : MissReason) : State :=
  bumpMissed (issue s (.markMissed entry.out entry.fire entry.source reason))

/-- R125: a request answered PARTIAL while the break flag is set is missed after its issuing record. -/
def settleMissed (s : State) (answer : MarkAnswer) : State :=
  match answer.missed with
  | none => s
  | some entry => issueMissed s entry .brk

/-- R117: the source sequence of a mark request: the issuing record's own sequence. With no number it is a free value (log 3). -/
def sourceOf (s : State) : Option Nat → State × Word
  | some seq => (s, BitVec.ofNat 32 seq)
  | none => (s.useFree, Config.unnumberedSource s.free)

/-- R131: a record with a mark request is taken: number, answer of the Mark Unit, place. Answers the state and the source
sequence of the request. -/
def issueMarked (s : State) (body : RecordBody) (kind : PolicyEntry) (stamp : Int) : State × Word :=
  let (s1, number) := takeNumber s
  let (s2, source) := sourceOf s1 number
  let (s3, answer) := markRequest s2 kind stamp source
  (settleMissed (countRecord (placeRecord s3 number answer.mark body) body) answer, source)

/-- R99: a mark request that goes with no record of its own. -/
def requestOnly (s : State) (kind : PolicyEntry) (stamp : Int) (source : Word) : State :=
  let (s1, answer) := markRequest s kind stamp source
  settleMissed s1 answer

/-- R136: one FAULT record. -/
def issueFault (s : State) (code : FaultCode) (subject : FaultSubject) (first last : Int) (count : Nat) : State :=
  issue s (.fault code subject first last count)

/-- A FAULT record for a tally that holds something; an empty tally gives none. -/
def issueTally (s : State) (code : FaultCode) (f : Face) (t : Tally) : State :=
  if t.isEmpty then s else issueFault s code (.face f) t.first t.last t.count

/-! ## Closing loss (R142, R143) -/

/-- R143: the LOSS record of an entry. -/
def lossBody (run : LossRun) : RecordBody :=
  .loss run.first run.count run.firstStamp run.lastStamp run.groups.pinhole run.groups.streak

/-- R142: one LOSS record is issued into the room already present, and attention cause LOSS is raised. -/
def issueLoss (s : State) (run : LossRun) : State :=
  let (s1, number) := takeNumber s
  match number with
  | none => s1
  | some seq =>
    raise (s1.onRu fun r => { r with queue := r.queue ++ [{ seq := seq, mark := .none, body := lossBody run }] }) .loss

/-- R142: the test may be made: not once the abandon mark has acted or the last sequence has been given. -/
def lossTestAllowed (r : RecordUnit) : Bool := !r.abandoned && decide (r.nextSeq ≤ Config.lastSequence)

/-- R142: up to `n` LOSS records, oldest run first, the scattered entry after the runs. -/
def lossRecords : Nat → State → State
  | 0, s => s
  | n + 1, s =>
    if lossTestAllowed s.ru then
      match oldestRun s.ru.runs with
      | some run => lossRecords n (issueLoss (s.onRu fun r => { r with runs := r.runs.erase run }) run)
      | none =>
        if s.ru.scattered.count = 0 then s
        else issueLoss (s.onRu fun r => { r with scattered := LossRun.empty }) s.ru.scattered
    else s

/-- R142: with every entry reported, the tally closes. -/
def closeTally (s : State) : State :=
  if s.ru.runs.isEmpty && s.ru.scattered.count == 0 then s.onRu fun r => { r with tallyOpen := false } else s

/-- R142: the test, and the bursts that follow it. Each burst but the last fills eight of the queue's 64 slots, so `n` = 9 is
more than any state needs. -/
def closeLoss : Nat → State → State
  | 0, s => s
  | n + 1, s =>
    if s.ru.tallyOpen && lossTestAllowed s.ru && decide (Config.lossBurst ≤ freeSlots s.ru) then
      closeLoss n (closeTally (lossRecords Config.lossBurst s))
    else s

/-- R142: the test as the Record Unit makes it. -/
def testLoss (s : State) : State := closeLoss 9 s

/-! ## Taking marks at an advance of H (R121, R125) -/

/-- R121, R125: one entry taken from the queue. -/
def takeMark (s : State) (entry : MarkEntry) : State :=
  if s.ku.breakFlag then issueMissed s entry .brk else layMark s entry.out (entry.fire + entry.length)

/-- R121: at an advance, every entry at the head whose fire position H has reached is taken, then pulses end. -/
def advanceMarks (s : State) : State :=
  let due := s.ku.queue.takeWhile fun e => decide (e.fire ≤ s.mu.h)
  let s1 := s.onKu fun k => { k with queue := k.queue.dropWhile fun e => decide (e.fire ≤ s.mu.h) }
  endPulse (endPulse (due.foldl takeMark s1) .a) .b

end Sys2Proof.Machine
end

