-- ==== Sys2Proof/Machine/Formats.lean ====
section
/-! DEFINITION. The byte formats the part writes or shows (R193 to R197): registers, status block, page header, record slots. -/

namespace Sys2Proof.Machine

/-! ## Little-endian fields -/

def le16 (n : Nat) : List Byte := [BitVec.ofNat 8 n, BitVec.ofNat 8 (n / 256)]
def le24 (n : Nat) : List Byte := le16 n ++ [BitVec.ofNat 8 (n / 65536)]
def le32 (n : Nat) : List Byte := le16 n ++ le16 (n / 65536)
def le64 (n : Nat) : List Byte := le32 n ++ le32 (n / 4294967296)

/-- R193: a signed 32-bit field, two's complement. -/
def leInt32 (i : Int) : List Byte := le32 (BitVec.ofInt 32 i).toNat
def leInt16 (i : Int) : List Byte := le16 (BitVec.ofInt 16 i).toNat

/-- R193: zeros up to a length. -/
def padTo (n : Nat) (bytes : List Byte) : List Byte := bytes ++ List.replicate (n - bytes.length) 0

/-! ## Codes -/

def faceBit : Face → Nat
  | .upper => 0
  | .lower => 1

/-- A flag as a bit of weight `w`. -/
def weight (b : Bool) (w : Nat) : Nat := if b then w else 0

def MarkState.code : MarkState → Nat
  | .none => 0
  | .queued => 1
  | .partly => 2
  | .late => 3
  | .full => 4

def EndReason.code : EndReason → Nat
  | .stop => 1
  | .halt => 2
  | .limit => 3

def PinholeResult.code : PinholeResult → Nat
  | .single => 0
  | .through => 1
  | .uncertain => 2
  | .evicted => 3
  | .unresolved => 4
  | .off => 5

def CloseReason.code : CloseReason → Nat
  | .faded => 0
  | .patchEnd => 1
  | .merged => 2
  | .recipe => 3
  | .splice => 4
  | .stop => 5
  | .halt => 6
  | .limit => 7

def MissReason.code : MissReason → Nat
  | .brk => 1
  | .rollEnd => 2

def FaultCode.code : FaultCode → Nat
  | .encoderJump => 0x01
  | .overspeed => 0x02
  | .markOverflow => 0x03
  | .spliceOverflow => 0x04
  | .headMismatch => 0x05
  | .headFailed => 0x06
  | .headRecovered => 0x07
  | .runFull => 0x08
  | .spotFull => 0x09
  | .trackFull => 0x0A
  | .pageWrite => 0x0B
  | .memoryRead => 0x20
  | .statusWrite => 0x21
  | .stockInvalid => 0x22

def PostReason.code : PostReason → Nat
  | .full => 1
  | .age => 2
  | .stall => 3
  | .flush => 4
  | .rollEnd => 5
  | .halt => 6

def ResultCode.code : ResultCode → Nat
  | .notRun => 0x00
  | .done => 0x01
  | .accepted => 0x02
  | .already => 0x03
  | .empty => 0x04
  | .refusedState => 0x10
  | .noRecipe => 0x11
  | .badOperand => 0x12
  | .refusedShared => 0x13
  | .refusedRecipe => 0x14
  | .memoryError => 0x15
  | .noStock => 0x16
  | .breakActive => 0x17
  | .unknownOrder => 0x18
  | .badCount => 0x19

def Inspection.code : Inspection → Nat
  | .off => 0
  | .idle => 1
  | .running => 2
  | .stopping => 3
  | .closing => 4

def LinkState.code : LinkState → Nat
  | .absent => 0
  | .waiting => 1
  | .ready => 2
  | .live => 3
  | .failed => 4

def Sect.code : Sect → Nat
  | .wait => 0
  | .coated => 1
  | .gap => 2

def MarkOut.code : MarkOut → Nat
  | .a => 0
  | .b => 1

/-- R197: the byte that names a FAULT record's face or head. -/
def FaultSubject.code : FaultSubject → Nat
  | .face f => faceBit f
  | .head p => p.val
  | .none => 0xFF

/-! ## Record slots (R197) -/

/-- R197: kind code of a record. -/
def RecordBody.kind : RecordBody → Nat
  | .rollStart _ _ _ _ => 0x01
  | .rollEnd _ _ _ _ _ _ _ => 0x02
  | .patch _ _ _ _ _ _ _ _ _ _ _ => 0x03
  | .pinhole _ _ _ => 0x10
  | .spot _ => 0x11
  | .large _ => 0x12
  | .streakOpen _ _ _ _ _ _ _ _ _ => 0x20
  | .streakClose _ _ _ _ _ _ _ _ _ _ _ => 0x21
  | .markMissed _ _ _ _ => 0x30
  | .fault _ _ _ _ _ => 0x40
  | .splice _ _ _ => 0x41
  | .recipe _ _ _ _ => 0x50
  | .note _ _ => 0x51
  | .loss _ _ _ _ _ _ => 0x60

/-- R197: bit 0 CUT, bit 1 BLIND, bit 2 R seen, bit 3 T seen, bit 4 FAILED_TRACK. -/
def objectFlags (cut blind : Bool) (lights : Lights) (failed : Bool) : Nat :=
  weight cut 1 + weight blind 2 + weight lights.r 4 + weight lights.t 8 + weight failed 16

/-- R197: flags of a PATCH record. -/
def patchFlagBits (flags : PatchFlags) (edgeExtra : Bool) : Nat :=
  weight flags.synthStart 1 + weight flags.synthEnd 2 + weight flags.short 4 + weight flags.long 8
    + weight flags.segment 16 + weight edgeExtra 32

/-- R197: the eight bytes every slot begins with, and the body behind them, filled up to 32 bytes. -/
def slotBytes (rec : Record) (second : Bool) (face code a b : Nat) (body : List Byte) : List Byte :=
  padTo 32
    ([BitVec.ofNat 8 rec.body.kind,
      BitVec.ofNat 8 (weight second 128 + 64 * face + 8 * rec.mark.code + code), BitVec.ofNat 8 a, BitVec.ofNat 8 b]
      ++ le32 rec.seq ++ body)

def spotBody (x : SpotFields) : List Byte :=
  leInt32 x.first ++ leInt32 x.last ++ le32 x.patchIndex.toNat ++ leInt32 x.offset ++ le16 x.cdMin ++ le16 x.cdMax
    ++ [BitVec.ofNat 8 x.lane] ++ le24 x.pixels

/-- R197: the face bit of a FAULT slot. -/
def faultFace : FaultSubject → Nat
  | .face f => faceBit f
  | .head _ | .none => 0

/-- R197: the first slot of a record. A THROUGH record unites CUT and BLIND of both closures and shows the lights of the entry's own
(log 51). -/
def firstSlot (rec : Record) : List Byte :=
  match rec.body with
  | .rollStart rollId s0 slot id =>
    slotBytes rec false 0 0 slot.toNat 0 (le32 rollId.toNat ++ leInt32 s0 ++ le32 id.toNat)
  | .rollEnd stamp reason pinholes through spots larges streaks =>
    slotBytes rec false 0 reason.code 0 0
      (leInt32 stamp ++ le32 pinholes ++ le32 through ++ le32 spots ++ le32 larges ++ le32 streaks)
  | .patch face index first last flags edgeExtra pinholes spots larges confirmations noise =>
    slotBytes rec false (faceBit face) 0 (patchFlagBits flags edgeExtra) 0
      (le32 index.toNat ++ leInt32 first ++ leInt32 last ++ [0, 0] ++ le16 pinholes ++ le16 spots ++ le16 larges
        ++ le16 confirmations ++ le16 noise)
  | .pinhole result c partner =>
    let cut := c.cut || (partner.any fun q => q.cut)
    let blind := c.blind || (partner.any fun q => q.blind)
    slotBytes rec false (faceBit c.face) result.code (objectFlags cut blind c.lights false) c.classBits.toNat
      (leInt32 c.first ++ leInt32 c.last ++ le32 c.patchIndex.toNat ++ leInt32 c.offset ++ leInt16 c.cdMin
        ++ [BitVec.ofInt 8 (c.cdMax - c.cdMin), c.minValue, c.maxValue] ++ le24 c.pixels)
  | .spot x =>
    slotBytes rec false (faceBit x.face) 0 (objectFlags x.cut x.blind x.lights x.failed) x.classBits.toNat (spotBody x)
  | .large x =>
    slotBytes rec false (faceBit x.face) 0 (objectFlags x.cut x.blind x.lights x.failed) x.classBits.toNat (spotBody x)
  | .streakOpen number face lane centre width start confirm patchIndex classBits =>
    slotBytes rec false (faceBit face) 0 lane classBits.toNat
      (le32 number ++ leInt32 start ++ leInt32 confirm ++ le32 patchIndex.toNat ++ le16 centre ++ le16 width)
  | .streakClose number face stop hits observed maxWidth reason patches widened _ _ =>
    slotBytes rec false (faceBit face) reason.code (weight widened 1) 0
      (le32 number ++ leInt32 stop ++ le32 hits ++ le32 observed ++ le16 maxWidth ++ le16 patches)
  | .markMissed out fire source reason =>
    slotBytes rec false 0 0 out.code reason.code (leInt32 fire ++ le32 source.toNat)
  | .fault code subject first last count =>
    slotBytes rec false (faultFace subject) 0 code.code subject.code (leInt32 first ++ leInt32 last ++ le32 count)
  | .splice stamp first last => slotBytes rec false 0 0 0 0 (leInt32 stamp ++ leInt32 first ++ leInt32 last)
  | .recipe face slot id effective =>
    slotBytes rec false (faceBit face) 0 slot.toNat 0 (le32 id.toNat ++ leInt32 effective)
  | .note value stamp => slotBytes rec false 0 0 0 0 (le64 value.toNat ++ leInt32 stamp)
  | .loss firstLost count first last pinhole streak =>
    slotBytes rec false 0 0 0 0
      (le32 firstLost ++ le32 count ++ leInt32 first ++ leInt32 last ++ le32 pinhole ++ le32 streak)

/-- R197: the second slot of a two-slot record. The extent of an arriving closure is the CD extent of R59, max - min + 1 (log 31).
The kinds that never take a second slot answer nothing. -/
def secondSlot (rec : Record) : List Byte :=
  match rec.body with
  | .pinhole _ _ (some c) =>
    slotBytes rec true (faceBit c.face) 0 0 c.classBits.toNat
      (leInt32 c.first ++ leInt32 c.last ++ leInt16 c.cdMin
        ++ [BitVec.ofInt 8 (c.cdMax - c.cdMin + 1), c.minValue, c.maxValue] ++ le24 c.pixels)
  | .streakClose _ face _ _ _ _ _ _ _ survivor held =>
    slotBytes rec true (faceBit face) 0 0 0
      (le32 survivor ++ le32 held.count ++ leInt32 held.first ++ leInt32 held.last)
  | _ => []

/-- The bytes of a record, one slot or two. -/
def recordBytes (rec : Record) : List Byte :=
  if rec.body.slots = 2 then firstSlot rec ++ secondSlot rec else firstSlot rec

/-! ## Page header (R187, R197) -/

def pageHeader (sequence : Word) (rollId : Word) (page : Page) (reason : PostReason) (previous : BitVec 64)
    (stamp : Int) : List Byte :=
  let first := (page.records.head?.map Record.seq).getD 0
  let last := (page.records.getLast?.map Record.seq).getD 0
  padTo 64
    (le32 sequence.toNat ++ le32 rollId.toNat ++ le16 page.used ++ [BitVec.ofNat 8 reason.code, 0] ++ le32 first
      ++ le32 last ++ [0, 0, 0, 0] ++ le64 previous.toNat ++ leInt32 stamp)

/-! ## Status block (R189, R196) -/

/-- R196: a slot field, 0xFF where there is none. -/
def slotField (part : Option (Sourced FacePart)) : Nat :=
  match part with
  | none => 0xFF
  | some x => x.slot.toNat

/-- R196: the fields of a face. With no face part active the recipe id shows 0 (log 50). -/
def faceStatus (s : State) (f : Face) : FaceStatus :=
  { sect := (s.muFace f).sect, activeSlot := slotField (s.rsFace f).active,
    pendingSlot := slotField (s.rsFace f).pending, openStreaks := (s.teFace f).openStreaks,
    patchIndex := (s.muFace f).patchIndex, activeId := ((s.rsFace f).active.map Sourced.id).getD 0,
    assembled := (s.luFace f).assembled }

def headStatus (s : State) (p : Port) : HeadStatus := { link := (s.head p).link, counters := (s.head p).counters }

/-- R196: the contents of the status block as the state stands. Before the first post the posted page sequence shows 0 (log 50). -/
def statusFields (s : State) : StatusFields :=
  { state := s.cu.state, rollId := s.cu.rollId, p := s.mu.p, h := s.mu.h, upper := faceStatus s .upper,
    lower := faceStatus s .lower, taken := s.xu.taken, results := s.xu.results.toList, consumed := s.xu.consumed,
    pagesTaken := s.xu.pagesTaken, postedPage := s.xu.nextPage - 1, postedAt := s.xu.lastPosted,
    issued := s.ru.nextSeq - 1, lostTotal := s.ru.lostTotal, capture := s.cu.capture, flags := s.xu.flags,
    outstanding := s.xu.outstanding, breakFlag := s.ku.breakFlag, marks := s.ku.counters,
    heads := allPorts.map (headStatus s) }

def faceStatusBytes (x : FaceStatus) : List Byte :=
  [BitVec.ofNat 8 x.sect.code, BitVec.ofNat 8 x.activeSlot, BitVec.ofNat 8 x.pendingSlot, BitVec.ofNat 8 x.openStreaks]
    ++ le32 x.patchIndex.toNat ++ le32 x.activeId.toNat ++ le32 x.assembled.toNat

def resultBytes (r : OrderResult) : List Byte :=
  [BitVec.ofNat 8 r.code.code, BitVec.ofNat 8 r.check] ++ le16 r.offset

/-- R196: the fault capture; an empty one shows stamp 0 (log 50). -/
def captureBytes (c : Option FaultCapture) : List Byte :=
  match c with
  | none => [0, 0, 0, 0] ++ le32 0
  | some x => [BitVec.ofNat 8 x.code.code, 0, 0, 0] ++ leInt32 x.stamp

def headStatusBytes (x : HeadStatus) : List Byte :=
  padTo 32
    ([BitVec.ofNat 8 x.link.code, 0] ++ le16 x.counters.received ++ le16 x.counters.missing ++ le16 x.counters.framing
      ++ le16 x.counters.check ++ le16 x.counters.overrun ++ le16 x.counters.stray ++ le16 x.counters.light)

/-- R196: the bytes from +0x000 to +0xFFB, the opening stamp first. -/
def statusBytes (stamp : Word) (x : StatusFields) : List Byte :=
  let b1 := padTo 0x008 (le32 stamp.toNat ++ [BitVec.ofNat 8 x.state.code])
  let b2 := padTo 0x010 (b1 ++ le32 x.rollId.toNat)
  let b3 := padTo 0x020 (b2 ++ leInt32 x.p ++ leInt32 x.h)
  let b4 := padTo 0x040 (b3 ++ faceStatusBytes x.upper)
  let b5 := padTo 0x060 (b4 ++ faceStatusBytes x.lower)
  let b6 := padTo 0x080 (b5 ++ le32 x.taken.toNat)
  let b7 := padTo 0x0C0 (b6 ++ (x.results.map resultBytes).flatten)
  let b8 := padTo 0x0C8 (b7 ++ le32 x.consumed.toNat ++ le16 x.pagesTaken.toNat)
  let b9 := padTo 0x0D0 (b8 ++ le32 x.postedPage.toNat)
  let b10 := padTo 0x0E8 (b9 ++ le64 x.postedAt.toNat ++ le32 x.issued ++ le32 x.lostTotal ++ captureBytes x.capture)
  let b11 := padTo 0x100 (b10 ++ [x.flags, x.outstanding.setWidth 8, BitVec.ofNat 8 (weight x.breakFlag 1)])
  let b12 :=
    padTo 0x200
      (b11 ++ le32 x.marks.fired ++ le32 x.marks.merged ++ le32 x.marks.late ++ le32 x.marks.full
        ++ le32 x.marks.missed ++ le32 x.marks.cut)
  padTo 0xFFC (b12 ++ (x.heads.map headStatusBytes).flatten)

/-! ## Registers (R178, R179, R191, R194) -/

/-- R161: PCTL.ACTIVE reads 0 in OFF and 1 in every other state. -/
def activeBit (s : State) : Bool := s.cu.state != .off

/-- R194: what a read of the window gives. Reading changes nothing. At an offset that is not a multiple of 4 it gives 0 (log 55). -/
def readRegister (s : State) (offset : Nat) : Word :=
  match offset with
  | 0x00 => s.xu.xbase.setWidth 32
  | 0x04 => (s.xu.xbase >>> 32).setWidth 32
  | 0x08 =>
    BitVec.ofNat 32 (weight s.xu.enable 1 + 256 * s.xu.pollInterval.toNat + weight (activeBit s) 0x80000000)
  | 0x0C => BitVec.ofNat 32 (s.xu.flags.toNat + 256 * s.xu.outstanding.toNat)
  | 0x10 =>
    BitVec.ofNat 32
      (0x7420 + 0x010000 + weight s.straps.eightPorts 0x1000000 + weight s.straps.twoMarkers 0x2000000)
  | _ => 0

end Sys2Proof.Machine
end

