-- ==== Sys2Proof/Machine/Exchange.lean ====
section
/-! DEFINITION. The Exchange Unit's operations (chapter 11): samples, the status block write, stock, pages and posts. -/

namespace Sys2Proof.Machine

/-- An address within the exchange area. -/
def exchangeAt (s : State) (offset : Nat) : BitVec 64 := s.xu.xbase + BitVec.ofNat 64 offset

/-! ## Samples (R181) -/

/-- R181: a sample is started, or the resample mark set while one is in progress. None is made in OFF. -/
def startSample (s : State) : State :=
  if s.cu.state = .off then s
  else if s.xu.sample.isSome then s.onXu fun x => { x with resample := true }
  else
    ((s.onXu fun x => { x with sample := some 0 }).emit (.busRead (exchangeAt s 0x000) 8)).emit
      (.busRead (exchangeAt s 0x400) 4)

/-- R181: a sample has ended; a marked repeat follows, its reads after what the sample itself brought (log 44). -/
def endSample (s : State) : State :=
  let s1 := s.onXu fun x => { x with sample := none, resample := false }
  if s.xu.resample then startSample s1 else s1

/-! ## The status block (R189, R190) -/

def Owed.none : Owed := { posted := false, orders := false }
def Owed.union (a b : Owed) : Owed := { posted := a.posted || b.posted, orders := a.orders || b.orders }

/-- R182, R187: the causes a status block write owed are raised, POSTED before ORDERS (log 45). -/
def payOwed (s : State) (owed : Owed) : State :=
  let s1 := if owed.posted then raise s .posted else s
  if owed.orders then raise s1 .orders else s1

/-- R189: the write itself: opening stamp, contents, closing stamp, and the completion read of R180. The contents are captured
here and the changed mark is cleared. -/
def writeStatus (s : State) (owed : Owed) : State :=
  let stamp := s.xu.statusStamp + 1
  let contents := statusFields s
  let s1 := s.onXu fun x =>
    { x with
      statusStamp := stamp
      changed := false
      statusWrite := some { owed := owed, contents := contents, waited := 0 } }
  let bytes := statusBytes stamp contents
  ((((s1.emit (.busWrite (exchangeAt s 0x1000) (bytes.take 4))).emit
    (.busWrite (exchangeAt s 0x1004) (bytes.drop 4))).emit
    (.busWrite (exchangeAt s 0x1FFC) (le32 stamp.toNat))).emit (.busRead (exchangeAt s 0x1FFC) 4))

/-- R189, R190: a write begins. While XBASE is 0 none is made, and what it would have owed is not held back (log 12). -/
def beginStatus (s : State) (owed : Owed) : State := if s.xu.xbase = 0 then payOwed s owed else writeStatus s owed

/-- R189: a trigger of the status block write, with the causes the write owes when it ends. A trigger that comes while a write is
in progress causes one further write when that ends. -/
def wantStatus (s : State) (owed : Owed) : State :=
  if s.xu.statusWrite.isSome then
    s.onXu fun x => { x with statusWanted := some ((x.statusWanted.getD Owed.none).union owed) }
  else beginStatus s owed

/-- R189: the write in progress has ended; what it owed is raised, and then the one further write begins (log 49). -/
def endStatus (s : State) : State :=
  match s.xu.statusWrite with
  | none => s
  | some w =>
    let s1 := payOwed (s.onXu fun x => { x with statusWrite := none, statusWanted := none }) w.owed
    match s.xu.statusWanted with
    | none => s1
    | some owed => beginStatus s1 owed

/-- R190: the write in progress has failed: STATUS_WRITE is reported, the changed mark is set again, and then what it owed is raised
(log 49). -/
def failStatus (s : State) : State :=
  match s.xu.statusWrite with
  | none => s
  | some _ => endStatus (captureFault (s.onXu fun x => { x with changed := true }) .statusWrite)

/-- R167, R182: the results of the last batch have not stood in a status block write that has ended. -/
def resultsUnwritten (x : ExchangeUnit) : Bool :=
  (x.statusWanted.any fun o => o.orders) || (x.statusWrite.any fun w => w.owed.orders)

/-! ## Stock (R183, R184) -/

/-- R183: the available count; a value above 16 is invalid. -/
def availableCount (x : ExchangeUnit) : Nat := (x.seenWritten - x.consumed).toNat

/-- R183: an invalid stock is treated as empty. -/
def usableCount (x : ExchangeUnit) : Nat :=
  if availableCount x ≤ Config.listEntries then availableCount x else 0

/-- R184: a descriptor is invalid when its page count is 0 or its address is not 4 KiB aligned. -/
def descriptorValid (d : Descriptor) : Bool := d.pages != 0 && d.address &&& 0xFFF#64 == 0

/-- R184: the index of the descriptor the unit takes next. -/
def cursorIndex (x : ExchangeUnit) : Fin 16 := ⟨x.consumed.toNat % 16, Nat.mod_lt _ (by decide)⟩

/-- R184: the descriptor at the cursor. -/
def cursorDescriptor (x : ExchangeUnit) : Descriptor := x.descriptors[cursorIndex x]

/-- R184: every invalid descriptor at the cursor is skipped, each counted as consumed and reported. At most 16 can be
available. -/
def skipInvalid : Nat → State → State
  | 0, s => s
  | n + 1, s =>
    if usableCount s.xu = 0 ∨ descriptorValid (cursorDescriptor s.xu) then s
    else skipInvalid n (captureFault (s.onXu fun x => { x with consumed := x.consumed + 1, pagesTaken := 0 }) .stockInvalid)

/-- R184: one page is taken from the descriptor at the cursor and becomes the filling page. -/
def takePage (s : State) : State :=
  let d := cursorDescriptor s.xu
  let taken := s.xu.pagesTaken + 1
  s.onXu fun x =>
    { x with
      filling := some
        { address := d.address + 4096#64 * x.pagesTaken.setWidth 64, used := 0, records := [], age := 0 }
      consumed := if taken = d.pages then x.consumed + 1 else x.consumed
      pagesTaken := if taken = d.pages then 0 else taken
      emptySpell := false }

/-- R184: no valid descriptor is available; STOCK_EMPTY is raised once in a spell. -/
def stockEmpty (s : State) : State :=
  if s.xu.emptySpell then s else raise (s.onXu fun x => { x with emptySpell := true }) .stockEmpty

/-! ## Pages (R185 to R188) -/

/-- R187: the post of the filling page begins: header, then the completion read of its last doubleword. A page holding no record
is not posted (R186). -/
def beginPost (s : State) (reason : PostReason) : State :=
  match s.xu.filling with
  | none => s
  | some page =>
    if page.records.isEmpty then s
    else
      let header := pageHeader s.xu.nextPage s.cu.rollId page reason s.xu.lastPosted s.mu.h
      ((s.onXu fun x =>
        { x with filling := none, posting := some { page := page, reason := reason, waited := 0 } }).emit
          (.busWrite page.address header)).emit (.busRead (page.address + 60#64) 4)

/-- R185: the address of a page's slot. -/
def slotAddress (page : Page) (slot : Nat) : BitVec 64 := page.address + BitVec.ofNat 64 (64 + 32 * slot)

/-- R139, R185: the head record of the holding queue is written into the page's next slots and leaves the queue. -/
def writeRecord (s : State) (page : Page) (rec : Record) (rest : List Record) : State :=
  let page1 := { page with used := page.used + rec.body.slots, records := page.records ++ [rec] }
  ((s.onRu fun r => { r with queue := rest }).onXu fun x => { x with filling := some page1 }).emit
    (.busWrite (slotAddress page page.used) (recordBytes rec))

/-- R185: a page that has used its last slot is posted. -/
def postWhenFull (s : State) : State :=
  match s.xu.filling with
  | none => s
  | some page => if Config.pageSlots ≤ page.used then beginPost s .full else s

/-- R144: the records of an abandoned page join the loss tally in sequence order, at the present H. -/
def loseRecords (s : State) (records : List Record) : State := records.foldl loseRecord s

/-- R144, R165, R188: a page is abandoned with its records. The FAULT record PAGE_WRITE is issued, except once ROLL_END has been
taken, when the fault capture alone takes the code. -/
def abandonPage (s : State) (records : List Record) : State :=
  let s1 := testLoss (loseRecords s records)
  if s.ru.rollEndTaken then captureFault s1 .pageWrite
  else issueFault s1 .pageWrite .none s.mu.h s.mu.h records.length

end Sys2Proof.Machine
end

