-- ==== Sys2Proof/Machine/Link.lean ====
section
/-! DEFINITION. The Link Unit's operations (chapter 2): triggers, assembly, link states, received packets. -/

namespace Sys2Proof.Machine

/-- The face a head belongs to. -/
def headFace (s : State) (p : Port) : Face :=
  match s.entry p with
  | none => .upper
  | some e => e.face

/-! ## Unassembled lines -/

/-- The unassembled triggered lines of a stream, in trigger order. -/
def openLines (stream : List StreamItem) : List OpenLine :=
  stream.filterMap fun item =>
    match item with
    | .opened line => some line
    | .patchEnd _ | .patchStart _ | .spliceClosure | .skipped _ | .line _ => none

/-- The oldest unassembled line gives its place in the stream to its face line. -/
def replaceOldest (line : FaceLine) : List StreamItem → List StreamItem
  | [] => []
  | .opened _ :: rest => .line line :: rest
  | .patchEnd x :: rest => .patchEnd x :: replaceOldest line rest
  | .patchStart x :: rest => .patchStart x :: replaceOldest line rest
  | .spliceClosure :: rest => .spliceClosure :: replaceOldest line rest
  | .skipped x :: rest => .skipped x :: replaceOldest line rest
  | .line x :: rest => .line x :: replaceOldest line rest

/-- The head is marked as given up in one item, where that is an unassembled line of one of these numbers. -/
def giveUpIn (p : Port) (numbers : List Nat) : StreamItem → StreamItem
  | .opened line =>
    if numbers.contains line.desc.number then .opened { line with givenUp := line.givenUp ++ [p] } else .opened line
  | .patchEnd x => .patchEnd x
  | .patchStart x => .patchStart x
  | .spliceClosure => .spliceClosure
  | .skipped x => .skipped x
  | .line x => .line x

/-- R30, R34: the lines leave the head's outstanding list and the head is marked as given up in each. -/
def giveUp (s : State) (p : Port) (numbers : List Nat) : State :=
  (s.onHead p fun h => { h with outstanding := h.outstanding.filter fun n => !numbers.contains n }).onLuFace
    (headFace s p) fun l => { l with stream := l.stream.map (giveUpIn p numbers) }

/-- R30: what leaving LIVE does to a head that is LIVE; any other head is left as it is. -/
def leaveLive (s : State) (p : Port) : State :=
  if (s.head p).link = .live then
    giveUp (s.onHead p fun h => { h with misses := 0 }) p (s.head p).outstanding
  else s

/-! ## Assembly (R35 to R39) -/

/-- The good packet a head holds for a line. -/
def goodPacket (h : Head) (number : Nat) : Option LineBuffer := h.buffers.find? fun b => b.line == number

/-- R35: a line is complete. -/
def lineComplete (s : State) (line : OpenLine) : Bool :=
  line.expected.all fun p => line.givenUp.contains p || (goodPacket (s.head p) line.desc.number).isSome

/-- R39, R40: a LIVE head has reached its miss limit at the assembly of a line. -/
def failHead (s : State) (p : Port) (desc : LineDesc) (limit : Nat) : State :=
  let first := (s.head p).firstMiss
  let s1 := leaveLive s p
  let s2 := s1.onHead p fun h =>
    { h with link := .failed, recovering := false, failedLine := some { number := desc.number, stamp := desc.stamp } }
  if s.inspecting then issueFault s2 .headFailed (.head p) first desc.stamp limit else s2

/-- R39: a LIVE head counts one more consecutive miss, and fails at its miss limit. -/
def countMiss (s : State) (p : Port) (desc : LineDesc) : State :=
  let s1 := s.onHead p fun h =>
    { h with misses := h.misses + 1, firstMiss := if h.misses = 0 then desc.stamp else h.firstMiss }
  match s.entry p with
  | none => s1
  | some e => if e.missLimit ≤ (s1.head p).misses then failHead s1 p desc e.missLimit else s1

/-- R36, R39: one head of the expected set is judged at the assembly of a line. -/
def judgeHead (desc : LineDesc) (s : State) (p : Port) : State :=
  if (goodPacket (s.head p) desc.number).isSome then s.onHead p fun h => { h with misses := 0 }
  else
    let s1 := s.onHead p fun h =>
      { h with
        outstanding := h.outstanding.filter fun n => n != desc.number
        counters := { h.counters with missing := bump16 h.counters.missing } }
    if (s1.head p).link = .live then countMiss s1 p desc else s1

/-- R37: the present heads of a face that own columns, with the range each owns. -/
def ownedHeads (s : State) (f : Face) : List (Port × Range) :=
  allPorts.filterMap fun p =>
    match s.entry p with
    | none => none
    | some e => if e.face = f then (ownedRange s.headTable p).map fun r => (p, r) else none

/-- R37: touching blind ranges are joined. The ranges come in increasing column order and do not overlap. -/
def joinRanges : List Range → List Range
  | [] => []
  | r :: rest =>
    match joinRanges rest with
    | [] => [r]
    | q :: qs => if q.lo ≤ r.hi + 1 then { lo := r.lo, hi := max r.hi q.hi } :: qs else r :: q :: qs

/-- R37: the pixels one head gives a face line, cut to the columns it owns. -/
def ownedPixels (s : State) (number : Nat) (owner : Port × Range) : Option PixelSpan :=
  match goodPacket (s.head owner.1) number with
  | none => none
  | some b =>
    let origin := s.headTable[owner.1].origin
    some
      { first := owner.2.lo
        values := (b.pixels.drop (owner.2.lo - origin)).take (owner.2.hi + 1 - owner.2.lo) }

/-- R37: the face line of a triggered line, from the good packets held for it. -/
def buildLine (s : State) (f : Face) (desc : LineDesc) : FaceLine :=
  let owners := sortBy (fun a b => decide (b.2.lo < a.2.lo)) (ownedHeads s f)
  let blind := owners.filter fun o => (goodPacket (s.head o.1) desc.number).isNone
  { desc := desc, pixels := owners.filterMap (ownedPixels s desc.number), blind := joinRanges (blind.map Prod.snd) }

/-- R35: the buffers that hold packets for a line of the face are freed. -/
def freeBuffers (number : Nat) (s : State) (p : Port) : State :=
  s.onHead p fun h => { h with buffers := h.buffers.filter fun b => b.line != number }

/-- R35, R36, R37, R39: an unassembled line is assembled and takes its place in the stream. Heads are judged in increasing port number
(log 8). -/
def assembleLine (s : State) (f : Face) (line : OpenLine) : State :=
  let built := buildLine s f line.desc
  let s1 := s.onLuFace f fun l => { l with stream := replaceOldest built l.stream, assembled := l.assembled + 1 }
  let s2 := line.expected.foldl (judgeHead line.desc) s1
  line.expected.foldl (freeBuffers line.desc.number) s2

/-- The oldest unassembled line of a face is assembled. -/
def assembleOldest (s : State) (f : Face) : State :=
  match openLines (s.luFace f).stream with
  | [] => s
  | line :: _ => assembleLine s f line

/-- R35: complete lines are assembled, oldest first, as long as the oldest unassembled line is complete. -/
def assembleComplete : Nat → State → Face → State
  | 0, s, _ => s
  | n + 1, s, f =>
    match openLines (s.luFace f).stream with
    | [] => s
    | line :: _ => if lineComplete s line then assembleComplete n (assembleLine s f line) f else s

/-- R35, for a face: as many assemblies as it has unassembled lines are enough. -/
def assembleReady (s : State) (f : Face) : State :=
  assembleComplete (openLines (s.luFace f).stream).length s f

/-- R42: every unassembled line is assembled at once, oldest first. -/
def assembleAll (s : State) (f : Face) : State :=
  (openLines (s.luFace f).stream).foldl (fun t _ => assembleOldest t f) s

/-- R36: the line deadline of an unassembled line has passed. -/
def deadlinePassed (s : State) (line : OpenLine) : Bool :=
  match s.shared with
  | none => false
  | some sp => decide (sp.deadline ≤ (s.mu.us - line.triggerTime).toNat)

/-- R36: the oldest lines whose deadline has passed are assembled. -/
def assembleOverdue : Nat → State → Face → State
  | 0, s, _ => s
  | n + 1, s, f =>
    match openLines (s.luFace f).stream with
    | [] => s
    | line :: _ =>
      if deadlinePassed s line then assembleOverdue n (assembleReady (assembleLine s f line) f) f else s

/-! ## Triggers (R27) -/

/-- R27: the heads a TRIGGER of the face goes to. -/
def triggerSet (s : State) (f : Face) : List Port :=
  allPorts.filter fun p =>
    match s.entry p with
    | none => false
    | some e => e.face == f && ((s.head p).link == .ready || (s.head p).link == .live)

/-- R40: a head whose recovering mark is set becomes LIVE at the trigger of a line. -/
def recoverHead (s : State) (p : Port) (desc : LineDesc) : State :=
  let s1 := s.onHead p fun h => { h with recovering := false }
  if s.inspecting then
    match (s.head p).failedLine with
    | none => issueFault s1 .headRecovered (.head p) s.mu.s0 desc.stamp (desc.number - 1)
    | some line => issueFault s1 .headRecovered (.head p) line.stamp desc.stamp (desc.number - line.number - 1)
  else s1

/-- R27: the TRIGGER of a line is sent to one head, before what its recovery reports (log 52). -/
def sendTrigger (desc : LineDesc) (s : State) (p : Port) : State :=
  let h := s.head p
  let s1 := (s.onHead p fun h => { h with link := .live, outstanding := h.outstanding ++ [desc.number] }).emit
    (.link p (triggerPacket desc.number desc.lighting))
  if h.link = .ready ∧ h.recovering then recoverHead s1 p desc else s1

/-- R36: the trigger about to be sent is the second later one of the older of two unassembled lines. -/
def makeRoom (s : State) (f : Face) : State :=
  if 2 ≤ (openLines (s.luFace f).stream).length then assembleReady (assembleOldest s f) f else s

/-- R27, R35: a triggered line of a face is taken from the Motion Unit. Heads are triggered, and recover, in increasing port number
(log 8). -/
def triggerLine (s : State) (f : Face) (desc : LineDesc) : State :=
  let s1 := makeRoom s f
  let expected := triggerSet s1 f
  let s2 := expected.foldl (sendTrigger desc) s1
  let line : OpenLine := { desc := desc, expected := expected, givenUp := [], triggerTime := s.mu.us }
  let s3 := (s2.pushStream f (.opened line)).onLuFace f fun l =>
    { l with lastTriggered := some { number := desc.number, stamp := desc.stamp } }
  assembleReady s3 f

/-! ## Link states (R28 to R31) -/

/-- R29: a HELLO matches the recipe's entry for the port. -/
def helloMatches (p : Port) (e : HeadEntry) (hello : Hello) : Bool :=
  decide (hello.headId.toNat = p.val) && decide (hello.count.toNat = e.width)

/-- R28: the state a head takes when a recipe becomes active. -/
def activatedLink (p : Port) (entry : Option HeadEntry) (hello : Option Hello) : LinkState :=
  match entry, hello with
  | none, _ => .absent
  | some _, none => .waiting
  | some e, some x => if helloMatches p e x then .ready else .failed

/-- R28: every head at the activation of a recipe. -/
def activateHeads (s : State) : State :=
  allPorts.foldl
    (fun t p => t.onHead p fun h =>
      { h with link := activatedLink p (t.entry p) h.hello, recovering := false, misses := 0 }) s

/-- R29: a matching HELLO makes the head READY. -/
def readyHead (s : State) (p : Port) : State :=
  (leaveLive s p).onHead p fun h =>
    { h with link := .ready, recovering := h.recovering || (s.head p).link == .failed }

/-- R29, R40: a HELLO that does not match makes the head FAILED. -/
def mismatchHead (s : State) (p : Port) (f : Face) (hello : Hello) : State :=
  let last := (s.luFace f).lastTriggered
  let s1 := (leaveLive s p).onHead p fun h =>
    { h with
      link := .failed
      recovering := false
      failedLine := if (s.head p).link = .failed then h.failedLine else last }
  let stamp := (last.map LineRef.stamp).getD s.mu.s0
  if s.inspecting then issueFault s1 .headMismatch (.head p) stamp stamp hello.count.toNat else s1

/-- R29: a HELLO with framing intact acts by the state of the head. -/
def takeHello (s : State) (p : Port) (hello : Hello) : State :=
  let s1 := s.onHead p fun h => { h with hello := some hello }
  match s.entry p with
  | none => s1
  | some e =>
    if (s.head p).link = .absent then s1
    else
      assembleReady (if helloMatches p e hello then readyHead s1 p else mismatchHead s1 p e.face hello) e.face

/-- R29, R32, R33: a HELLO arrives. Nothing is received from a port that is not fitted (R23). -/
def receiveHello (s : State) (p : Port) (packet : Packet) : State :=
  if s.straps.fitted p then
    if helloFramed packet then takeHello s p (helloFields packet)
    else s.onCounters p fun c => { c with framing := bump16 c.framing }
  else s

/-- R31: RETRAIN goes to a port and its remembered HELLO is cleared. -/
def sendRetrain (s : State) (p : Port) : State :=
  (s.onHead p fun h => { h with hello := none }).emit (.link p retrainPacket)

/-- R31: `headreset` of a head. An ABSENT head has only its remembered HELLO cleared. -/
def resetHead (s : State) (p : Port) : State :=
  let s1 := sendRetrain s p
  if (s.head p).link = .absent then s1
  else
    assembleReady ((leaveLive s1 p).onHead p fun h => { h with link := .waiting, recovering := false, misses := 0 })
      (headFace s p)

/-! ## Line packets (R32 to R34) -/

/-- R33, check 3: the lighting echo is the one the pattern gives a line of the tag's parity. -/
def echoRight (s : State) (packet : Packet) : Bool :=
  match s.shared with
  | none => true
  | some sp => lineEcho packet == lightingByte (lightingOf sp.lighting (lineTag packet))

/-- R34: a LINE that has passed the first three checks is compared with the outstanding triggers of its head. -/
def matchLine (s : State) (p : Port) (packet : Packet) : State :=
  let outstanding := (s.head p).outstanding
  let other : Nat → Bool := fun n => n % 256 != lineTag packet
  match outstanding.dropWhile other with
  | [] => s.onCounters p fun c => { c with stray := bump16 c.stray }
  | number :: _ =>
    let s1 := giveUp s p (outstanding.takeWhile other)
    let s2 := s1.onHead p fun h =>
      { h with
        outstanding := h.outstanding.filter fun n => n != number
        buffers := h.buffers ++ [{ line := number, pixels := linePixels packet }]
        counters := { h.counters with received := bump16 h.counters.received } }
    assembleReady s2 (headFace s p)

/-- R32, R33: a packet other than a HELLO arrives. -/
def receiveLine (s : State) (p : Port) (packet : Packet) : State :=
  if s.straps.fitted p then
    if Config.lineBuffers ≤ (s.head p).buffers.length then
      s.onCounters p fun c => { c with overrun := bump16 c.overrun }
    else if !lineFramed packet p ((s.entry p).map HeadEntry.width) then
      s.onCounters p fun c => { c with framing := bump16 c.framing }
    else if !lineChecked packet then s.onCounters p fun c => { c with check := bump16 c.check }
    else if !echoRight s packet then s.onCounters p fun c => { c with light := bump16 c.light }
    else matchLine s p packet
  else s

/-- `start` empties the Link Unit's roll state (section 2.6). -/
def startLinks (s : State) : State :=
  s.onLu fun l =>
    { l with
      heads := l.heads.map fun h => { h with failedLine := none, outstanding := [], buffers := [], misses := 0 }
      faces := PerFace.both LuFace.powerOn }

end Sys2Proof.Machine
end

