-- ==== Sys2Proof/Machine/Motion.lean ====
section
/-! DEFINITION. The Motion Unit's operations (chapter 1): encoder, edges, section tracker, trigger schedule, splices. -/

namespace Sys2Proof.Machine

/-! ## Skip stretches, finish, splice queue (R7, R19, R20) -/

/-- R7: the open skip stretch of a face is reported and closed; with none open nothing happens. -/
def closeSkip (s : State) (f : Face) : State :=
  issueTally (s.onMuFace f fun m => { m with skip := Tally.empty }) .overspeed f (s.muFace f).skip

/-- R20: an entry both faces are done with leaves the splice queue. -/
def purgeSplices (entries : List SpliceEntry) : List SpliceEntry :=
  entries.filter fun e => !(e.done.upper && e.done.lower)

/-- R19: a face is finished. It is done with every entry of the splice queue (R20). -/
def finishFace (s : State) (f : Face) : State :=
  closeSkip
    ((s.onMuFace f fun m => { m with finished := true }).onMu fun m =>
      { m with splices := purgeSplices (m.splices.map fun e => { e with done := e.done.set f true }) })
    f

/-! ## Boundaries (R11 to R14) -/

/-- The active face part of a face, as the section tracker reads it. -/
def trackerPart (s : State) (f : Face) : FacePart := (s.activePart f).getD FacePart.empty

/-- R12, R13, R14: a patch end. The first one after a finish request finishes the face (R19). -/
def makePatchEnd (s : State) (f : Face) (stamp : Int) (flags : PatchFlags) : State :=
  let m := s.muFace f
  let item : PatchEnd :=
    { index := m.patchIndex, first := m.startStamp, last := stamp, flags := flags, finishing := m.finishRequest }
  let s1 := (s.onMuFace f fun m => { m with sect := .gap, lastEnd := stamp }).pushStream f (.patchEnd item)
  if m.finishRequest then finishFace s1 f else s1

/-- R156: a pending face part is applied at a patch start, with its RECIPE record. A part in CONTINUOUS mode discards the edges
still queued (R14). -/
def applyPending (s : State) (f : Face) (stamp : Int) : State × Option FacePart :=
  match (s.rsFace f).pending with
  | none => (s, none)
  | some part =>
    let s1 := s.onRsFace f fun r => { r with active := some part, pending := none }
    let s2 := s1.onMuFace f fun m => { m with edges := if part.part.mode = .continuous then [] else m.edges }
    (issue s2 (.recipe f part.slot part.id stamp), some part.part)

/-- R12, R13, R14: a patch start. -/
def makePatchStart (s : State) (f : Face) (stamp : Int) (flags : StartFlags) : State :=
  let index := (s.muFace f).patchIndex + 1
  let s1 := s.onMuFace f fun m =>
    { m with sect := .coated, patchIndex := index, startStamp := stamp, startFlags := flags }
  let (s2, part) := applyPending s1 f stamp
  s2.pushStream f (.patchStart { index := index, stamp := stamp, part := part })

/-- R12: the patch end a FALL makes. -/
def fallFlags (m : MuFace) (part : FacePart) (stamp : Int) : PatchFlags :=
  { synthStart := m.startFlags.synthStart, synthEnd := false,
    short := decide (stamp - m.startStamp < (part.nominal : Int) - part.tolerance), long := false,
    segment := m.startFlags.segment }

/-- R13: the flags of a synthetic patch end. -/
def synthFlags (m : MuFace) : PatchFlags :=
  { synthStart := m.startFlags.synthStart, synthEnd := true, short := false, long := true,
    segment := m.startFlags.segment }

/-- R14: the flags of a patch end at a segment boundary. -/
def segmentFlags (m : MuFace) : PatchFlags :=
  { synthStart := m.startFlags.synthStart, synthEnd := false, short := false, long := false, segment := true }

/-- R12: the edge at the head of the queue is removed and acts on the section state. -/
def applyEdge (s : State) (f : Face) (edge : Edge) : State :=
  let m := s.muFace f
  let s1 := s.onMuFace f fun m => { m with edges := m.edges.tail }
  match m.sect, edge.rise with
  | .wait, true | .gap, true => makePatchStart s1 f edge.stamp { synthStart := false, segment := false }
  | .coated, false => makePatchEnd s1 f edge.stamp (fallFlags m (trackerPart s f) edge.stamp)
  | .wait, false | .gap, false | .coated, true => s1.onMuFace f fun m => { m with edgeExtra := true }

/-- R13: a synthetic boundary. WAIT has none. -/
def applySynthetic (s : State) (f : Face) (stamp : Int) : State :=
  match (s.muFace f).sect with
  | .coated => makePatchEnd s f stamp (synthFlags (s.muFace f))
  | .gap => makePatchStart s f stamp { synthStart := true, segment := false }
  | .wait => s

/-- R14: a segment boundary, a patch end and then a patch start, or the end alone when it finishes the face (R19). -/
def applySegment (s : State) (f : Face) (stamp : Int) : State :=
  let s1 := makePatchEnd s f stamp (segmentFlags (s.muFace f))
  if (s1.muFace f).finished then s1 else makePatchStart s1 f stamp { synthStart := false, segment := true }

/-- A boundary that waits to be applied. -/
inductive Boundary where
  | edge (edge : Edge)
  | synthetic (stamp : Int)
  | segment (stamp : Int)
deriving DecidableEq, Repr

def Boundary.stamp : Boundary → Int
  | .edge e => e.stamp
  | .synthetic x => x
  | .segment x => x

/-- R13: the synthetic boundary of the current section. -/
def syntheticStamp (m : MuFace) (part : FacePart) : Option Int :=
  match m.sect with
  | .wait => none
  | .coated => some (m.startStamp + part.nominal + part.tolerance)
  | .gap => some (m.lastEnd + part.maxGap)

/-- R14: the first segment boundary beyond the start of the current patch. -/
def segmentStamp (s0 : Int) (m : MuFace) (part : FacePart) : Option Int :=
  if part.segment = 0 then none else some (s0 + max 1 ((m.startStamp - s0) / part.segment + 1) * part.segment)

/-- R11: the earliest boundary, an edge before a synthetic one of the same stamp. After a redundant edge there the synthetic boundary,
computed anew, stands at that stamp still, and is made (log 32). -/
def nextBoundary (s : State) (f : Face) : Option Boundary :=
  let m := s.muFace f
  let part := trackerPart s f
  match part.mode with
  | .continuous => (segmentStamp s.mu.s0 m part).map Boundary.segment
  | .intermittent =>
    match m.edges, syntheticStamp m part with
    | [], none => none
    | [], some x => some (.synthetic x)
    | e :: _, none => some (.edge e)
    | e :: _, some x => if e.stamp ≤ x then some (.edge e) else some (.synthetic x)

def applyBoundary (s : State) (f : Face) : Boundary → State
  | .edge e => applyEdge s f e
  | .synthetic x => applySynthetic s f x
  | .segment x => applySegment s f x

/-- R11: boundaries at or below a stamp are applied, earliest first, until none remains or the face is finished. -/
def applyBoundaries : Nat → State → Face → Int → State
  | 0, s, _, _ => s
  | n + 1, s, f, stamp =>
    if (s.muFace f).finished then s
    else
      match nextBoundary s f with
      | none => s
      | some b => if b.stamp ≤ stamp then applyBoundaries n (applyBoundary s f b) f stamp else s

/-- How many boundaries can lie before a line: each edge may set the section back to its own stamp, and from there every
synthetic or segment boundary moves forward by a count at least (R151 keeps the lengths above 0). Log 25. -/
def boundaryFuel (s : State) (f : Face) (stamp : Int) : Nat :=
  let m := s.muFace f
  let low := m.edges.foldl (fun x e => min x e.stamp) (min m.startStamp (min m.lastEnd s.mu.s0))
  (m.edges.length + 1) * (2 * (stamp - low).toNat + 3)

/-! ## Splice zones (R21) -/

def SpliceEntry.holds (e : SpliceEntry) (stamp : Int) : Bool := decide (e.first ≤ stamp) && decide (stamp ≤ e.last)

/-- R21: a line of the face within the zone is its entry into it. A face whose next line after a late acceptance lies beyond the zone
makes no entry (log 40). -/
def enterZone (f : Face) (stamp : Int) (s : State) (e : SpliceEntry) : State :=
  if e.holds stamp && !e.entered.get f then
    let s1 := s.pushStream f .spliceClosure
    match f with
    | .upper => issue s1 (.splice e.stamp e.first e.last)
    | .lower => s1
  else s

/-- R20, R21: what a prepared line writes into an entry. -/
def markEntry (f : Face) (stamp : Int) (e : SpliceEntry) : SpliceEntry :=
  { e with
    entered := e.entered.set f (e.entered.get f || e.holds stamp)
    done := e.done.set f (e.done.get f || decide (e.last < stamp)) }

/-- R21: a prepared line meets the splice queue (log 40). A line that enters several zones takes their entries in queue order, each with
its closure and its SPLICE record (log 53). -/
def meetSplices (s : State) (f : Face) (stamp : Int) : State :=
  (s.mu.splices.foldl (enterZone f stamp) s).onMu fun m =>
    { m with splices := purgeSplices (m.splices.map (markEntry f stamp)) }

/-! ## The line (R6 to R8, R16) -/

/-- R6: the stamp of a line. -/
def lineStamp (s : State) (sp : SharedPart) (number : Nat) : Int := s.mu.s0 + (number : Int) * sp.pitch

/-- Section 1.3: the camera offset of a face. -/
def cameraOffset (sp : SharedPart) : Face → Nat
  | .upper => 0
  | .lower => sp.d

/-- R8, R16: the descriptor of a prepared line. -/
def describeLine (s : State) (sp : SharedPart) (f : Face) (number : Nat) (excluded skipped : Bool) : LineDesc :=
  let m := s.muFace f
  let stamp := lineStamp s sp number
  { number := number, stamp := stamp, lighting := lightingOf sp.lighting number, sect := m.sect,
    patchIndex := if m.sect = .wait then 0 else m.patchIndex,
    offset := if m.sect = .wait then stamp - s.mu.s0 else stamp - m.startStamp, excluded := excluded,
    skipped := skipped }

/-- R7: the minimum line period lets the face be triggered. -/
def periodOver (s : State) (sp : SharedPart) (f : Face) : Bool :=
  match (s.muFace f).prevTrigger with
  | none => true
  | some t => decide (sp.minPeriod ≤ (s.mu.us - t).toNat)

/-- R7: the line is triggered; an open skip stretch closes, its record before those of the Link Unit at this trigger (log 8). -/
def sendLine (s : State) (sp : SharedPart) (f : Face) (number : Nat) (excluded : Bool) : State :=
  let s1 := (closeSkip s f).onMuFace f fun m => { m with prevTrigger := some s.mu.us }
  triggerLine s1 f (describeLine s sp f number excluded false)

/-- R7, R8: the line is skipped. -/
def skipLine (s : State) (sp : SharedPart) (f : Face) (number : Nat) (excluded : Bool) : State :=
  (s.onMuFace f fun m => { m with skip := m.skip.add (lineStamp s sp number) }).pushStream f
    (.skipped (describeLine s sp f number excluded true))

/-- R6, R7, R11, R21: a due line is prepared and then triggered or skipped. A line whose preparation finishes the face is
neither (R19). -/
def prepareLine (s : State) (sp : SharedPart) (f : Face) : State :=
  let number := (s.muFace f).nextLine
  let stamp := lineStamp s sp number
  let s1 := applyBoundaries (boundaryFuel s f stamp) s f stamp
  if (s1.muFace f).finished then s1
  else
    let excluded := s1.mu.splices.any fun e => e.holds stamp
    let s2 := meetSplices s1 f stamp
    let s3 := if periodOver s2 sp f then sendLine s2 sp f number excluded else skipLine s2 sp f number excluded
    s3.onMuFace f fun m => { m with nextLine := number + 1 }

/-- R6: the next line of a face is due. -/
def lineDue (s : State) (sp : SharedPart) (f : Face) : Bool :=
  !(s.muFace f).finished && decide (lineStamp s sp (s.muFace f).nextLine + cameraOffset sp f ≤ s.mu.h)

def prepareIfDue (s : State) (sp : SharedPart) (f : Face) : State := if lineDue s sp f then prepareLine s sp f else s

/-! ## Edges (R9, R10, R20) -/

/-- The outcome of one sample of an input: the edge begun and not accepted, and the stamp of an edge accepted now. -/
structure Sampled where
  begun    : Option BegunEdge
  accepted : Option Int
deriving DecidableEq, Repr

/-- R9: one sample of an input against its accepted level. -/
def sampleInput (begun : Option BegunEdge) (accepted level : Bool) (stamp : Int) (filter : Nat) : Sampled :=
  if level = accepted then { begun := none, accepted := none }
  else
    match begun with
    | none =>
      if filter = 0 then { begun := none, accepted := some stamp }
      else { begun := some { stamp := stamp, left := filter }, accepted := none }
    | some b =>
      if b.left ≤ 1 then { begun := none, accepted := some b.stamp }
      else { begun := some { b with left := b.left - 1 }, accepted := none }

/-- Section 1.3: the mark sensor of a face. -/
def markOffset (sp : SharedPart) : Face → Int
  | .upper => sp.qU
  | .lower => sp.qL

def markLevel (s : State) : Face → Bool
  | .upper => s.pins.sensors.markUpper
  | .lower => s.pins.sensors.markLower

/-- R10: an accepted mark edge enters the queue, is lost, or in CONTINUOUS mode only updates the level. -/
def queueEdge (part : FacePart) (m : MuFace) (edge : Edge) : MuFace :=
  if part.mode = .continuous then m
  else if m.edges.length < Config.edgeQueueSize then { m with edges := m.edges ++ [edge] }
  else { m with overflow := m.overflow.add edge.stamp }

/-- R9: the mark input of an unfinished face is sampled. -/
def sampleMark (s : State) (sp : SharedPart) (f : Face) : State :=
  let m := s.muFace f
  if m.finished then s
  else
    let level := markLevel s f
    let r := sampleInput m.begun m.acceptedLevel level (s.mu.h - markOffset sp f) sp.markFilter
    match r.accepted with
    | none => s.onMuFace f fun m => { m with begun := r.begun }
    | some stamp =>
      s.onMuFace f fun m =>
        queueEdge (trackerPart s f) { m with begun := r.begun, acceptedLevel := level } { stamp := stamp, rise := level }

/-- R20, R21: a face is done with an entry as it is accepted: it is finished, or has prepared a line beyond the zone. -/
def passedZone (s : State) (sp : SharedPart) (last : Int) (f : Face) : Bool :=
  (s.muFace f).finished ||
    (decide (1 < (s.muFace f).nextLine) && decide (last < lineStamp s sp ((s.muFace f).nextLine - 1)))

/-- R20, R21: a splice edge is accepted. -/
def acceptSplice (s : State) (sp : SharedPart) (z : Int) : State :=
  if s.mu.splices.length < Config.spliceQueueSize then
    let first := z - sp.eb
    let last := z + sp.ea
    let entry : SpliceEntry :=
      { stamp := z, first := first, last := last, entered := PerFace.both false,
        done := { upper := passedZone s sp last .upper, lower := passedZone s sp last .lower } }
    let s1 := s.onMu fun m => { m with splices := purgeSplices (m.splices ++ [entry]) }
    if entry.done.upper then issue s1 (.splice z first last) else s1
  else issueFault s .spliceOverflow .none z z 1

/-- R9: the splice input is sampled while a face is unfinished. A change to inactive only updates the accepted level. -/
def sampleSplice (s : State) (sp : SharedPart) : State :=
  if (s.muFace .upper).finished && (s.muFace .lower).finished then s
  else
    let level := s.pins.sensors.splice
    let r := sampleInput s.mu.spliceBegun s.mu.spliceAccepted level (s.mu.h - sp.qS) sp.markFilter
    let s1 := s.onMu fun m => { m with spliceBegun := r.begun }
    match r.accepted with
    | none => s1
    | some z =>
      let s2 := s1.onMu fun m => { m with spliceAccepted := level }
      if level then acceptSplice s2 sp z else s2

/-! ## Advances and steps (R3 to R5) -/

/-- R4: the position-limit event goes to the Control Unit once for the roll. -/
def sendLimit (s : State) : State :=
  if Config.positionLimit ≤ s.mu.h ∧ s.mu.limitSent = false then
    (s.onMu fun m => { m with limitSent := true }).onCu fun c => { c with limitEvent := true }
  else s

/-- What an advance of H brings while the state is RUNNING or STOPPING: samples first, then due lines (log 8). -/
def inspectAdvance (s : State) : State :=
  match s.shared with
  | none => s
  | some sp =>
    let s1 := sampleSplice (sampleMark (sampleMark (sendLimit s) sp .upper) sp .lower) sp
    prepareIfDue (prepareIfDue s1 sp .upper) sp .lower

/-- R4: an advance onto fresh web. Marks fire in every state (R121). -/
def advance (s : State) : State :=
  let s1 := s.onMu fun m => { m with h := m.p }
  advanceMarks (if s1.inspecting then inspectAdvance s1 else s1)

/-- R3, R22: P takes a new value; the stall count is cleared. -/
def movePosition (s : State) (p : Int) : State :=
  s.onMu fun m => { m with p := p, stallCount := 0, stallRaised := false }

/-- R3, R4: a forward step. -/
def forwardStep (s : State) : State :=
  let s1 := s.onMu fun m => { m with direction := .forward }
  if s.mu.p < Config.positionLimit then
    let s2 := movePosition s1 (s.mu.p + 1)
    if s2.mu.h < s2.mu.p then advance s2 else s2
  else s1

/-- R3, R4: a reverse step. The first one in FORWARD ends the marker pulses (R123). -/
def reverseStep (s : State) : State :=
  let s1 := if s.mu.direction = .forward then cutPulses (s.onMu fun m => { m with direction := .reverse }) else s
  if -Config.positionLimit < s.mu.p then movePosition s1 (s.mu.p - 1) else s1

/-- R3, R5: an encoder jump leaves P; in RUNNING and STOPPING it is tallied. -/
def encoderJump (s : State) : State :=
  if s.inspecting then s.onMu fun m => { m with jumps := m.jumps.add m.p } else s

/-- Section 1.2: the place of a pair of levels in the forward cycle 00, 10, 11, 01. -/
def cyclePlace : Bool → Bool → Fin 4
  | false, false => 0
  | true, false => 1
  | true, true => 2
  | false, true => 3

/-- R3: the accepted levels have gone from one place of the cycle to another. -/
def decodeStep (s : State) (before after : Fin 4) : State :=
  if after = before then s
  else if after = before + 1 then forwardStep s
  else if after + 1 = before then reverseStep s
  else encoderJump s

/-- The place of the accepted levels. -/
def MotionUnit.place (m : MotionUnit) : Fin 4 := cyclePlace m.phaseA.accepted m.phaseB.accepted

/-- R2: the encoder filter in force. -/
def encoderFilter (s : State) : Nat := (s.shared.map SharedPart.filter).getD 0

/-- R2: a raw level arrives on a phase whose raw level was `before`. -/
def Phase.arrive (phase : Phase) (filter : Nat) (before raw : Bool) : Phase :=
  if raw = before then phase
  else if raw = phase.accepted then { phase with hold := none }
  else if filter = 0 then { accepted := raw, hold := none }
  else { phase with hold := some 0 }

/-- R2: the held level is accepted. -/
def Phase.accept (phase : Phase) : Phase := { accepted := !phase.accepted, hold := none }

/-- R2: the hold of a phase has run out: `elapsed` reference cycles of 40 ns reach N × 100 ns. -/
def Phase.ripe (phase : Phase) (filter : Nat) : Bool :=
  match phase.hold with
  | none => false
  | some elapsed => decide (5 * filter ≤ 2 * elapsed)

/-- The levels on the sensor inputs as an encoder command brings them (log 1). -/
def setSensors (s : State) (sensors : Sensors) : State := s.onPins fun p => { p with sensors := sensors }

/-- R2, R3: new accepted levels are decoded. -/
def decodeLevels (s : State) (a b : Phase) : State :=
  let before := s.mu.place
  let s1 := s.onMu fun m => { m with phaseA := a, phaseB := b }
  decodeStep s1 before s1.mu.place

/-- R2, R3: a raw change of the encoder inputs. -/
def rawChange (s : State) (a b : Bool) (sensors : Sensors) : State :=
  let n := encoderFilter s
  let s1 := (setSensors s sensors).onPins fun p => { p with encA := a, encB := b }
  decodeLevels s1 (s.mu.phaseA.arrive n s.pins.encA a) (s.mu.phaseB.arrive n s.pins.encB b)

/-- R2, R3: whether the holds of exactly these phases are the ones that run out next, together (log 26). -/
def holdsRunOut (m : MotionUnit) (n : Nat) : Phases → Bool
  | .a => m.phaseA.ripe n && (!m.phaseB.ripe n || decide (m.phaseB.hold.getD 0 < m.phaseA.hold.getD 0))
  | .b => m.phaseB.ripe n && (!m.phaseA.ripe n || decide (m.phaseA.hold.getD 0 < m.phaseB.hold.getD 0))
  | .both => m.phaseA.ripe n && m.phaseB.ripe n && m.phaseA.hold == m.phaseB.hold

/-- R2, R3: the holds of the named phases run out. -/
def holdExpiry (s : State) (phases : Phases) (sensors : Sensors) : State :=
  let m := s.mu
  let s1 := setSensors s sensors
  if holdsRunOut m (encoderFilter s) phases then
    match phases with
    | .a => decodeLevels s1 m.phaseA.accept m.phaseB
    | .b => decodeLevels s1 m.phaseA m.phaseB.accept
    | .both => decodeLevels s1 m.phaseA.accept m.phaseB.accept
  else s1

/-! ## The roll (section 1.9) -/

/-- Section 1.9, R14: a face of the Motion Unit at `start`. -/
def startMuFace (mode : CoatingMode) (s0 : Int) (level : Bool) : MuFace :=
  { MuFace.powerOn with
    acceptedLevel := level
    startStamp := s0
    lastEnd := s0
    sect := if mode = .continuous then .coated else .wait
    patchIndex := if mode = .continuous then 1 else 0 }

/-- Section 1.9: the Motion Unit at `start`. Setting P to another value is a change of P (R22). -/
def startMotion (s : State) (s0 : Int) : State :=
  (if s.mu.p = s0 then s else movePosition s s0).onMu fun m =>
    { m with
      h := s0
      direction := .forward
      s0 := s0
      jumps := Tally.empty
      limitSent := false
      faces :=
        { upper := startMuFace (trackerPart s .upper).mode s0 s.pins.sensors.markUpper
          lower := startMuFace (trackerPart s .lower).mode s0 s.pins.sensors.markLower }
      spliceAccepted := s.pins.sensors.splice
      spliceBegun := none
      splices := [] }

end Sys2Proof.Machine
end

