-- ==== Sys2Proof/Machine/Extract.lean ====
section
/-! DEFINITION. The Run Extractor's operations (chapter 3): classes, masks, candidates, runs, and the handing on of items. -/

namespace Sys2Proof.Machine

/-- R45: the table class of a pixel value under a lighting. -/
def tableClass (part : FacePart) (lighting : Lighting) (value : Byte) : Byte :=
  match lighting with
  | .r => part.classR.getD value.toNat 0
  | .t => part.classT.getD value.toNat 0

/-- R47: the mask a lane uses on a line; WAIT selects none. -/
def Lane.mask (lane : Lane) (sect : Sect) (lighting : Lighting) : Byte :=
  match sect, lighting with
  | .wait, _ => 0
  | .coated, .r => lane.maskCoatedR
  | .coated, .t => lane.maskCoatedT
  | .gap, .r => lane.maskGapR
  | .gap, .t => lane.maskGapT

def Range.holds (r : Range) (column : Nat) : Bool := decide (r.lo ≤ column) && decide (column ≤ r.hi)

/-- A column lies in a blind range. -/
def isBlind (blind : List Range) (column : Nat) : Bool := blind.any fun r => r.holds column

/-- The pixel value at a column, where a good packet gave one. -/
def pixelAt (pixels : List PixelSpan) (column : Nat) : Option Byte :=
  match pixels.find? fun x => decide (x.first ≤ column) && decide (column < x.first + x.values.length) with
  | none => none
  | some x => x.values[column - x.first]?

/-- R48: a candidate: its class bits and value. -/
structure Candidate where
  bits  : Byte
  value : Byte
deriving DecidableEq, Repr

/-- R48: the candidate at a column that is not blind, under the selected mask. -/
def candidateAt (part : FacePart) (line : FaceLine) (mask : Byte) (column : Nat) : Option Candidate :=
  match pixelAt line.pixels column with
  | none => none
  | some value =>
    let bits := tableClass part line.desc.lighting value &&& mask
    if bits = 0 then none else some { bits := bits, value := value }

/-- R50: a run of one candidate, and a run with one candidate more. -/
def Run.single (lane column : Nat) (c : Candidate) : Run :=
  { lane := lane, first := column, last := column, pixels := 1, classBits := c.bits, minValue := c.value,
    maxValue := c.value, blindEdge := false }

def minByte (a b : Byte) : Byte := if a ≤ b then a else b
def maxByte (a b : Byte) : Byte := if a ≤ b then b else a

def Run.extend (r : Run) (column : Nat) (c : Candidate) : Run :=
  { r with
    last := column
    pixels := r.pixels + 1
    classBits := r.classBits ||| c.bits
    minValue := minByte r.minValue c.value
    maxValue := maxByte r.maxValue c.value }

def Run.width (r : Run) : Nat := r.last - r.first + 1

/-- The runs of a lane found so far and the one that can still grow. -/
structure Scan where
  current : Option Run
  found   : List Run
deriving DecidableEq, Repr

/-- The growing run ends. -/
def Scan.close (scan : Scan) : Scan := { current := none, found := scan.found ++ scan.current.toList }

/-- R49: one column of a lane, from low columns to high. -/
def scanColumn (part : FacePart) (line : FaceLine) (index : Nat) (lane : Lane) (mask : Byte) (scan : Scan)
    (column : Nat) : Scan :=
  if isBlind line.blind column then scan.close
  else
    match candidateAt part line mask column with
    | none => scan
    | some c =>
      match scan.current with
      | none => { scan with current := some (Run.single index column c) }
      | some r =>
        if column - r.last - 1 ≤ lane.bridge then { scan with current := some (r.extend column c) }
        else { scan.close with current := some (Run.single index column c) }

/-- R51: the run has a blind column within bridge + 1 columns of its own lane on either side. -/
def touchesBlind (blind : List Range) (lane : Lane) (r : Run) : Bool :=
  (List.range (lane.bridge + 1)).any fun i =>
    (decide (lane.first + i + 1 ≤ r.first) && isBlind blind (r.first - i - 1)) ||
      (decide (r.last + i + 1 ≤ lane.last) && isBlind blind (r.last + i + 1))

/-- The columns of a lane. -/
def Lane.columns (lane : Lane) : List Nat := List.range' lane.first (lane.last + 1 - lane.first)

/-- R48 to R52: the runs of one lane that pass the width test. -/
def laneRuns (part : FacePart) (line : FaceLine) (index : Nat) : List Run :=
  let lane := part.lane index
  let mask := lane.mask line.desc.sect line.desc.lighting
  let scan := (lane.columns.foldl (scanColumn part line index lane mask) { current := none, found := [] }).close
  (scan.found.filter fun r => decide (lane.minWidth ≤ r.width)).map fun r =>
    { r with blindEdge := touchesBlind line.blind lane r }

/-- R53, R54: every run of a line, lane by lane. -/
def lineRuns (part : FacePart) (line : FaceLine) : List Run :=
  if line.desc.excluded || line.desc.sect == .wait then []
  else ((List.range part.lanes.length).map (laneRuns part line)).flatten

/-- R55: the line item of an assembled face line. -/
def lineItem (part : FacePart) (line : FaceLine) : LineItem :=
  let runs := lineRuns part line
  { desc := line.desc, blind := line.blind, runs := runs.take Config.runListSize,
    runFull := decide (Config.runListSize < runs.length) }

/-- R54: the line item of a skipped line. -/
def skippedItem (desc : LineDesc) : LineItem := { desc := desc, blind := [], runs := [], runFull := false }

/-- R57: an item is handed on, with the face part it was processed under (R44). -/
def handOn (r : RxFace) (kind : HandedKind) : RxFace :=
  { r with handed := r.handed ++ [{ kind := kind, part := r.inForce }] }

/-- R43, R55 to R57: the Run Extractor's work on one item. -/
def extractItem (r : RxFace) : StreamItem → RxFace
  | .line line =>
    let item := lineItem (r.inForce.getD FacePart.empty) line
    handOn { r with runFull := if item.runFull then r.runFull.add line.desc.stamp else r.runFull } (.line item)
  | .skipped desc => handOn r (.line (skippedItem desc))
  | .patchEnd item => handOn { r with runFull := Tally.empty } (.patchEnd item r.runFull)
  | .patchStart item => handOn { r with inForce := item.part.or r.inForce } (.patchStart item)
  | .spliceClosure => handOn r .spliceClosure
  | .opened _ => r

/-- R38: the item a face's stream hands on next; an unassembled line holds the stream. -/
def nextItem (stream : List StreamItem) : Option StreamItem :=
  match stream with
  | [] => none
  | .opened _ :: _ => none
  | item :: _ => some item

/-- R57: the Run Extractor takes the next item of a face. -/
def takeItem (s : State) (f : Face) : State :=
  match nextItem (s.luFace f).stream with
  | none => s
  | some item =>
    (s.onLuFace f fun l => { l with stream := l.stream.tail }).onRxFace f fun r => extractItem r item

/-- R43: the Run Extractor at the activation of a recipe. -/
def activateParts (s : State) (upper lower : FacePart) : State :=
  (s.onRxFace .upper fun r => { r with inForce := some upper }).onRxFace .lower fun r => { r with inForce := some lower }

/-- Section 3.9: the Run Extractor at `start`. -/
def startExtract (s : State) : State :=
  s.onRx fun r =>
    { upper := { r.upper with runFull := Tally.empty, handed := [] }
      lower := { r.lower with runFull := Tally.empty, handed := [] } }

end Sys2Proof.Machine
end

