-- ==== Sys2Proof/Machine/Tracks.lean ====
section
/-! DEFINITION. The Track Engine's operations (chapter 5): claims, counts, changes, merges, handovers and cuts. -/

namespace Sys2Proof.Machine

/-! ## Tables -/

/-- The entries of a table that are taken, by index. -/
def taken {α : Type} {n : Nat} (table : Vector (Option α) n) : List (Fin n × α) :=
  (List.finRange n).filterMap fun i => table[i].map fun x => (i, x)

/-- The lowest free entry of a table. -/
def lowestFree {α : Type} {n : Nat} (table : Vector (Option α) n) : Option (Fin n) :=
  (List.finRange n).find? fun i => table[i].isNone

def State.track (s : State) (f : Face) (i : Fin 24) : Option Track := (s.teFace f).tracks[i]

def State.setTrack (s : State) (f : Face) (i : Fin 24) (t : Option Track) : State :=
  s.onTeFace f fun e => { e with tracks := e.tracks.set i.val t }

/-- The active tracks of a face in order of age, oldest first, ties by the lower table index. -/
def agedTracks (s : State) (f : Face) : List (Fin 24 × Track) :=
  sortBy (fun a b => decide (b.2.firstStamp < a.2.firstStamp)) (taken (s.teFace f).tracks)

/-! ## Windows and lightings -/

def bump24 (n : Nat) (more : Nat) : Nat := satAdd max24 n more

/-- R80, R82: the track's window meets the columns `lo` to `hi`. -/
def Track.windowMeets (t : Track) (w lo hi : Nat) : Bool :=
  decide (t.centre2 ≤ 2 * hi + 2 * w) && decide (2 * lo ≤ t.centre2 + 2 * w)

/-- R78: a line's lighting matches the streak lighting of a lane. -/
def StreakLighting.matches : StreakLighting → Lighting → Bool
  | .either, _ => true
  | .r, .r => true
  | .t, .t => true
  | .r, .t => false
  | .t, .r => false

def distance (a b : Nat) : Nat := if a ≤ b then b - a else a - b

/-! ## Claim (R80) -/

/-- R80: a track may claim a run. -/
def candidateFor (part : FacePart) (desc : LineDesc) (r : Run) (t : Track) : Bool :=
  decide (t.lane = r.lane) && t.windowMeets (part.lane r.lane).window r.first r.last
    && (part.lane r.lane).streakLighting.matches desc.lighting

/-- The nearer of two candidates, the earlier one when they are equally near. -/
def nearer (r : Run) (best : Option (Fin 24 × Track)) (x : Fin 24 × Track) : Option (Fin 24 × Track) :=
  match best with
  | none => some x
  | some b =>
    if distance x.2.centre2 (r.first + r.last) < distance b.2.centre2 (r.first + r.last) then some x else some b

/-- R80: the table index of the track a run goes to. -/
def claimant (part : FacePart) (desc : LineDesc) (tracks : List (Fin 24 × Track)) (r : Run) : Option (Fin 24) :=
  if (part.lane r.lane).kind = .coated ∧ desc.sect = .coated then
    ((tracks.filter fun x => candidateFor part desc r x.2).foldl (nearer r) none).map Prod.fst
  else none

/-- A run with the track that has claimed it. -/
structure Claimed where
  run   : Run
  track : Option (Fin 24)
deriving DecidableEq, Repr

def claimRuns (part : FacePart) (desc : LineDesc) (tracks : List (Fin 24 × Track)) (runs : List Run) : List Claimed :=
  runs.map fun r => { run := r, track := claimant part desc tracks r }

/-! ## Count (R81 to R83, R99) -/

/-- R82: the hold comes from the blind list. -/
def heldBlind (part : FacePart) (blind : List Range) (t : Track) : Bool :=
  blind.any fun r => t.windowMeets (part.lane t.lane).window r.lo r.hi

/-- R82: the track is held on the line. -/
def isHeld (part : FacePart) (desc : LineDesc) (blind : List Range) (t : Track) : Bool :=
  !(part.lane t.lane).streakLighting.matches desc.lighting || heldBlind part blind t || desc.excluded
    || desc.sect == .gap || desc.skipped

/-- R81: what every claimed run gives its track, held or observed. -/
def Track.absorbRun (t : Track) (r : Run) : Track :=
  { t with
    pixels := bump24 t.pixels r.pixels
    classBits := t.classBits ||| r.classBits
    blind := t.blind || r.blindEdge }

/-- R81: the lowest first column and the highest last column of the claimed runs. -/
def extentLo (first : Run) (runs : List Run) : Nat := runs.foldl (fun x r => min x r.first) first.first
def extentHi (first : Run) (runs : List Run) : Nat := runs.foldl (fun x r => max x r.last) first.last

/-- R81, R83: a hit with the extent `lo` to `hi`. -/
def Track.hit (t : Track) (desc : LineDesc) (maxWidth lo hi : Nat) : Track :=
  let width := hi - lo + 1
  { t with
    centre2 := lo + hi
    widthNow := width
    maxWidth := max t.maxWidth width
    columnMin := min t.columnMin lo
    columnMax := max t.columnMax hi
    widened := t.widened || decide (maxWidth < width)
    observed := bump32 t.observed
    hits := bump32 t.hits
    missRun := 0
    lastHit := desc.stamp
    lights := t.lights.add desc.lighting
    state := if t.state = .fading then .confirmed else t.state }

/-- R83: a miss. -/
def Track.miss (t : Track) : Track :=
  { t with observed := bump32 t.observed, missRun := satAdd Config.missRunTop t.missRun 1 }

/-- R82: a held line. -/
def Track.hold (t : Track) (stamp : Int) (blind : Bool) : Track :=
  { t with held := t.held.add stamp, blind := t.blind || blind }

/-- R82, R83: a track after the count stage of a line, by the runs it has claimed. -/
def countTrack (part : FacePart) (desc : LineDesc) (blind : List Range) (runs : List Run) (t : Track) : Track :=
  let t1 := runs.foldl Track.absorbRun t
  if isHeld part desc blind t then t1.hold desc.stamp (heldBlind part blind t)
  else
    match runs with
    | [] => t1.miss
    | r :: rest => t1.hit desc (part.lane t.lane).maxWidth (extentLo r rest) (extentHi r rest)

/-- R99: the next repeat-mark stamp once a hit at `stamp` has been tested. -/
def nextRepeatAfter (interval : Nat) (due stamp : Int) : Int := due + interval * ((stamp - due) / interval + 1)

/-- R99: the repeat-mark test of a hit of a CONFIRMED track. -/
def repeatMark (s : State) (f : Face) (i : Fin 24) (t : Track) (stamp : Int) : State :=
  match s.shared with
  | none => s
  | some sp =>
    if sp.repeatInterval = 0 then s
    else if stamp < t.nextRepeat then s
    else
      (requestOnly s .streak stamp t.openSource).setTrack f i
        (some { t with nextRepeat := nextRepeatAfter sp.repeatInterval t.nextRepeat stamp })

/-- The runs a track has claimed. -/
def claimedBy (claims : List Claimed) (i : Fin 24) : List Run :=
  (claims.filter fun c => c.track == some i).map Claimed.run

/-- R82, R83, R99: the count stage for one track. -/
def countOne (part : FacePart) (f : Face) (item : LineItem) (claims : List Claimed) (s : State) (x : Fin 24 × Track) :
    State :=
  let runs := claimedBy claims x.1
  let t := countTrack part item.desc item.blind runs x.2
  let s1 := s.setTrack f x.1 (some t)
  if t.state = .confirmed ∧ runs ≠ [] ∧ !isHeld part item.desc item.blind x.2 then
    repeatMark s1 f x.1 t item.desc.stamp
  else s1

/-! ## Confirmation, failure, closure (R85 to R90) -/

/-- R87: a TENTATIVE track fails, with its LARGE record and mark request. -/
def failTrack (s : State) (f : Face) (i : Fin 24) (t : Track) (cut : Bool) : State :=
  let fields : SpotFields :=
    { face := f, lane := t.lane, first := t.firstStamp, last := t.lastHit, patchIndex := t.patchIndex,
      offset := t.offset, cdMin := t.columnMin, cdMax := t.columnMax, pixels := t.pixels, classBits := t.classBits,
      lights := t.lights, cut := cut, blind := t.blind, failed := true }
  ((issueMarked s (.large fields) .large t.firstStamp).1.setTrack f i none).onTeFace f fun e =>
    { e with larges := bump16 e.larges }

/-- R85: the STREAK_OPEN record of a track that takes a number. -/
def openBody (f : Face) (t : Track) (number : Nat) (stamp : Int) : RecordBody :=
  .streakOpen number f t.lane (t.centre2 / 2) t.widthNow t.firstStamp stamp t.patchIndex t.classBits

/-- R85: the track takes the next number and its STREAK_OPEN record is issued; cause STREAK follows its mark request (log 52). -/
def openStreak (s : State) (f : Face) (i : Fin 24) (t : Track) (stamp : Int) : State :=
  let number := s.te.nextStreak
  let interval := (s.shared.map SharedPart.repeatInterval).getD 0
  let s1 := s.onTe fun e => { e with nextStreak := number + 1 }
  let (s2, source) := issueMarked s1 (openBody f t number stamp) .streak stamp
  let s3 := s2.setTrack f i
    (some
      { t with
        state := .confirmed
        number := number
        confirmStamp := stamp
        nextRepeat := stamp + interval
        openSource := source })
  (raise s3 .streak).onTeFace f fun e =>
    { e with confirmations := bump16 e.confirmations, openStreaks := e.openStreaks + 1 }

/-- R85, R86: a TENTATIVE track has reached its confirm hits. With the numbers exhausted it fails at once. -/
def confirmTrack (s : State) (f : Face) (i : Fin 24) (t : Track) (stamp : Int) : State :=
  if Config.lastStreakNumber < s.te.nextStreak then failTrack s f i t false else openStreak s f i t stamp

/-- R89: a numbered track is closed. -/
def closeTrack (s : State) (f : Face) (i : Fin 24) (t : Track) (reason : CloseReason) (survivor : Nat) : State :=
  ((issue s
    (.streakClose t.number f t.lastHit t.hits t.observed t.maxWidth reason t.patches t.widened survivor t.held)).setTrack
      f i none).onTeFace f fun e => { e with openStreaks := e.openStreaks - 1 }

/-- R85, R87, R88, R90: the change stage for one track. -/
def changeOne (part : FacePart) (f : Face) (desc : LineDesc) (s : State) (i : Fin 24) : State :=
  match s.track f i with
  | none => s
  | some t =>
    let lane := part.lane t.lane
    match t.state with
    | .tentative =>
      if lane.confirmHits ≤ t.hits then confirmTrack s f i t desc.stamp
      else if lane.tentativeLimit < t.missRun then failTrack s f i t false
      else s
    | .confirmed => if lane.fadeMisses ≤ t.missRun then s.setTrack f i (some { t with state := .fading }) else s
    | .fading => if lane.endMisses ≤ t.missRun then closeTrack s f i t .faded 0 else s

/-! ## Merging (R91, R92) -/

/-- R92: what the survivor takes in from the younger track. -/
def Track.takeIn (t younger : Track) : Track :=
  { t with
    hits := satAdd max32 t.hits younger.hits
    pixels := bump24 t.pixels younger.pixels
    classBits := t.classBits ||| younger.classBits
    lights := t.lights.union younger.lights
    columnMin := min t.columnMin younger.columnMin
    columnMax := max t.columnMax younger.columnMax
    maxWidth := max t.maxWidth younger.maxWidth
    widened := t.widened || younger.widened
    blind := t.blind || younger.blind
    missRun := min t.missRun younger.missRun
    lastHit := max t.lastHit younger.lastHit }

/-- R92: the survivor's state after it has taken in a younger track. -/
def settleSurvivor (s : State) (f : Face) (i : Fin 24) (t : Track) (lane : Lane) (stamp : Int) : State :=
  match t.state with
  | .tentative => if lane.confirmHits ≤ t.hits then confirmTrack s f i t stamp else s.setTrack f i (some t)
  | .confirmed => s.setTrack f i (some t)
  | .fading =>
    if t.missRun < lane.fadeMisses then s.setTrack f i (some { t with state := .confirmed })
    else s.setTrack f i (some t)

/-- R92: the younger track is freed, silently while TENTATIVE, else closed with reason MERGED. Its record names 0 too when the survivor
has failed for want of a number (log 37). -/
def freeYounger (s : State) (f : Face) (older j : Fin 24) (younger : Track) : State :=
  match younger.state with
  | .tentative => s.setTrack f j none
  | .confirmed | .fading => closeTrack s f j younger .merged ((s.track f older).map Track.number |>.getD 0)

/-- R91, R92: track `j` merges into the older track `i` when both are active and its centre lies in the window. -/
def mergeOne (part : FacePart) (f : Face) (stamp : Int) (i : Fin 24) (s : State) (j : Fin 24) : State :=
  match s.track f i, s.track f j with
  | some t, some younger =>
    let lane := part.lane t.lane
    if distance t.centre2 younger.centre2 ≤ 2 * lane.window then
      freeYounger (settleSurvivor s f i (t.takeIn younger) lane stamp) f i j younger
    else s
  | some _, none | none, some _ | none, none => s

/-- R91: the tracks of a lane, oldest first, each taking in the younger ones within its window. -/
def mergeAged (part : FacePart) (f : Face) (stamp : Int) : List (Fin 24) → State → State
  | [], s => s
  | i :: rest, s => mergeAged part f stamp rest (rest.foldl (mergeOne part f stamp i) s)

/-- R91: the merge check of one lane. -/
def mergeLane (part : FacePart) (f : Face) (stamp : Int) (s : State) (lane : Nat) : State :=
  mergeAged part f stamp (((agedTracks s f).filter fun x => x.2.lane == lane).map Prod.fst) s

/-- R79: the Track Engine's four stages for a line item. Answers the state and the runs it leaves unclaimed. Lanes are merge-checked in
increasing index (log 36). -/
def trackLine (s : State) (f : Face) (part : FacePart) (item : LineItem) : State × List Run :=
  let aged := agedTracks s f
  let claims := claimRuns part item.desc (taken (s.teFace f).tracks) item.runs
  let s1 := aged.foldl (countOne part f item claims) s
  let s2 := (aged.map Prod.fst).foldl (changeOne part f item.desc) s1
  let s3 := (List.range part.lanes.length).foldl (mergeLane part f item.desc.stamp) s2
  (s3, (claims.filter fun c => c.track.isNone).map Claimed.run)

/-! ## Handover (R84) -/

/-- R75: what a handover request carries. -/
structure Request where
  lane       : Nat
  columnMin  : Nat
  columnMax  : Nat
  firstLine  : Nat
  firstStamp : Int
  lastLine   : Nat
  lastStamp  : Int
  hits       : Nat
  classBits  : Byte
  lights     : Lights
deriving DecidableEq, Repr

/-- R84: the TENTATIVE track a request opens. The table gives no confirm stamp, next repeat stamp or source of repeat marks: they stand
at 0 until the confirmation sets them (log 41). -/
def openTrack (patchIndex : Word) (patchStart : Int) (q : Request) : Track :=
  let width := q.columnMax - q.columnMin + 1
  { state := .tentative, lane := q.lane, centre2 := q.columnMin + q.columnMax, widthNow := width, maxWidth := width,
    columnMin := q.columnMin, columnMax := q.columnMax, widened := false, firstStamp := q.firstStamp,
    patchIndex := patchIndex, offset := q.firstStamp - patchStart, lastHit := q.lastStamp, hits := q.hits,
    observed := q.lastLine - q.firstLine + 1, held := Tally.empty, missRun := 0, pixels := 0,
    classBits := q.classBits, lights := q.lights, blind := false, number := 0, confirmStamp := 0, patches := 1,
    nextRepeat := 0, openSource := 0 }

/-- R84, R100: a handover request is answered. Answers whether it was accepted. -/
def takeHandover (s : State) (f : Face) (part : FacePart) (desc : LineDesc) (q : Request) : State × Bool :=
  match lowestFree (s.teFace f).tracks with
  | none => (s.onTeFace f fun e => { e with full := e.full.add desc.stamp }, false)
  | some i =>
    let t := openTrack desc.patchIndex (s.teFace f).patchStart q
    let s1 := s.setTrack f i (some t)
    let s2 := if (part.lane q.lane).confirmHits ≤ t.hits then confirmTrack s1 f i t desc.stamp else s1
    (mergeLane part f desc.stamp s2 q.lane, true)

/-! ## Cuts (R93 to R98) -/

/-- R98: one track is cut. -/
def cutOne (f : Face) (reason : CloseReason) (s : State) (x : Fin 24 × Track) : State :=
  match x.2.state with
  | .tentative => failTrack s f x.1 x.2 true
  | .confirmed | .fading => closeTrack s f x.1 x.2 reason 0

/-- R98: every active track of a face is cut, oldest first. -/
def cutTracks (s : State) (f : Face) (reason : CloseReason) : State :=
  (agedTracks s f).foldl (cutOne f reason) s

/-- R93: the Track Engine at a patch-end item, before its counts are closed. -/
def trackPatchEnd (s : State) (f : Face) (part : FacePart) : State :=
  if part.gap = .split ∧ part.mode = .intermittent then cutTracks s f .patchEnd else s

/-- R94, R95: the Track Engine at a patch-start item. -/
def trackPatchStart (s : State) (f : Face) (item : PatchStart) : State :=
  let s1 := if item.part.isSome then cutTracks s f .recipe else s
  s1.onTeFace f fun e =>
    { e with
      patchStart := item.stamp
      tracks := e.tracks.map fun t => t.map fun x => { x with patches := bump16 x.patches } }

/-- Section 5.13: the Track Engine at `start`. -/
def startTracks (s : State) (s0 : Int) : State :=
  s.onTe fun _ =>
    { nextStreak := 1
      faces := PerFace.both { TeFace.powerOn with patchStart := s0 } }

end Sys2Proof.Machine
end

