-- ==== Sys2Proof/Machine/Pairing.lean ====
section
/-! DEFINITION. The Pairing Unit's operations (chapter 6): matching, the pairing list, progress, doubt logs, resolution. -/

namespace Sys2Proof.Machine

/-! ## Coordinates (R104) -/

/-- R104: a lower column range in upper-face coordinates. -/
def mapLower (sp : SharedPart) (lo hi : Int) : Int × Int :=
  if sp.mirror then (sp.columnOffset - hi, sp.columnOffset - lo) else (lo + sp.columnOffset, hi + sp.columnOffset)

/-- R104: a column range of a face in upper-face coordinates. -/
def mapColumns (s : State) (f : Face) (lo hi : Int) : Int × Int :=
  match f, s.shared with
  | .upper, _ => (lo, hi)
  | .lower, none => (lo, hi)
  | .lower, some sp => mapLower sp lo hi

/-- R104: a closure as the Pairing Unit holds it. -/
def mapClosure (s : State) (c : Closure) : Closure :=
  let m := mapColumns s c.face c.cdMin c.cdMax
  { c with cdMin := m.1, cdMax := m.2 }

/-- R106: the CD tolerance T and the MD window W. -/
def cdTolerance (s : State) : Int := (s.shared.map SharedPart.cdTolerance).getD 0
def mdWindow (s : State) : Int := (s.shared.map SharedPart.mdWindow).getD 0

/-! ## Records (R115) -/

/-- R115: a PINHOLE record of one closure. -/
def issueSingle (result : PinholeResult) (s : State) (c : Closure) : State :=
  (issueMarked s (.pinhole result c none) .pinholeOther c.first).1.onPu fun p => { p with pinholes := bump32 p.pinholes }

/-- R106, R115: a THROUGH record of an entry's closure and the arriving one; cause THROUGH follows its mark request (log 52). -/
def issueThrough (s : State) (entry arriving : Closure) : State :=
  let s1 := (issueMarked s (.pinhole .through entry (some arriving)) .pinholeThrough (min entry.first arriving.first)).1
  raise (s1.onPu fun p => { p with pinholes := bump32 p.pinholes, throughs := bump32 p.throughs }) .through

/-! ## Doubt logs (R110, R111) -/

/-- R111: the reach point of the log of face `g`. -/
def reachPoint (s : State) (g : Face) : Int :=
  let f := otherFace g
  (s.pu.list.foldl (fun x e => if e.closure.face = f then min x e.closure.first else x) ((s.puFace f).processed + 1))
    - mdWindow s

/-- R111: stretches no window can reach are discarded from the log of one face. -/
def discardLog (s : State) (g : Face) : State :=
  let reach := reachPoint s g
  s.onPuFace g fun p => { p with log := p.log.filter fun x => decide (reach ≤ x.last) }

/-- R111: both logs. -/
def discardLogs (s : State) : State := discardLog (discardLog s .upper) .lower

/-- R110: the doubts of a line. -/
def lineDoubts (s : State) (f : Face) (item : LineItem) : List DoubtKind :=
  if item.desc.skipped || item.desc.excluded || item.desc.sect == .wait then [.whole]
  else
    item.blind.map fun r =>
      let m := mapColumns s f r.lo r.hi
      .blind m.1 m.2

/-- R110: the doubt extends a stretch that ran up to the previous line. -/
def extendStretch (kind : DoubtKind) (previous stamp : Int) : List Stretch → Option (List Stretch)
  | [] => none
  | x :: rest =>
    if x.kind = kind ∧ x.last = previous then some ({ x with last := stamp } :: rest)
    else (extendStretch kind previous stamp rest).map (x :: ·)

/-- R110: a new stretch; a full log drops the one with the earliest first stamp, the first entered of several (log 38), and raises the
floor. -/
def openStretch (p : PuFace) (x : Stretch) : PuFace :=
  if p.log.length < Config.doubtLogSize then { p with log := p.log ++ [x] }
  else
    match p.log with
    | [] => { p with log := [x] }
    | oldest :: rest => { p with log := rest ++ [x], floor := max p.floor oldest.last }

/-- R110: one doubt of a line with the given stamp. -/
def logDoubt (stamp : Int) (p : PuFace) (kind : DoubtKind) : PuFace :=
  match p.lastLine.bind fun previous => extendStretch kind previous stamp p.log with
  | some log => { p with log := log }
  | none => openStretch p { kind := kind, first := stamp, last := stamp }

/-! ## Resolution (R112) -/

/-- A stretch's stamps meet a window. -/
def Stretch.meets (x : Stretch) (lo hi : Int) : Bool := decide (x.first ≤ hi) && decide (lo ≤ x.last)

/-- R112: a stretch makes an entry doubtful. -/
def stretchDoubts (s : State) (c : Closure) (due : Int) (x : Stretch) : Bool :=
  x.meets (c.first - mdWindow s) due &&
    match x.kind with
    | .whole => true
    | .blind lo hi => decide (lo ≤ c.cdMax + cdTolerance s) && decide (c.cdMin - cdTolerance s ≤ hi)

/-- R112: the doubt test against the log of face `g`. -/
def doubtful (s : State) (g : Face) (e : PairEntry) : Bool :=
  decide (e.closure.first - mdWindow s ≤ (s.puFace g).floor) ||
    (s.puFace g).log.any (stretchDoubts s e.closure e.due)

/-- R112: an entry is resolved against face `g`. -/
def resolveEntry (g : Face) (s : State) (e : PairEntry) : State :=
  issueSingle (if doubtful s g e then .uncertain else .single) s e.closure

/-- R109 step 3, R112: the entries of the other face that face `g` has passed are resolved, in list order. -/
def resolvePassed (s : State) (g : Face) : State :=
  let passed : PairEntry → Bool := fun e =>
    e.closure.face == otherFace g && decide (e.due ≤ (s.puFace g).processed)
  (s.pu.list.filter passed).foldl (resolveEntry g)
    (s.onPu fun p => { p with list := p.list.filter fun e => !passed e })

/-! ## Arrival of a closure (R105 to R108) -/

/-- R106: an entry of the other face matches a closure. -/
def entryMatches (s : State) (c : Closure) (e : PairEntry) : Bool :=
  let t := cdTolerance s
  let w := mdWindow s
  e.closure.face == otherFace c.face && decide (c.cdMin ≤ e.closure.cdMax + t) && decide (e.closure.cdMin ≤ c.cdMax + t)
    && decide (c.first ≤ e.closure.last + w) && decide (e.closure.first ≤ c.last + w)

/-- The first entry a test accepts, and the list without it. -/
def removeFirst (test : PairEntry → Bool) : List PairEntry → Option (PairEntry × List PairEntry)
  | [] => none
  | e :: rest =>
    if test e then some (e, rest) else (removeFirst test rest).map fun r => (r.1, e :: r.2)

/-- R107: insertion by due stamp, after entries of the same due stamp. -/
def insertDue (e : PairEntry) (list : List PairEntry) : List PairEntry :=
  insertBy (fun y x => decide (x.due < y.due)) e list

/-- R107, R108: a closure becomes an entry; a full list evicts its head first. -/
def insertClosure (s : State) (e : PairEntry) : State :=
  if s.pu.list.length < Config.pairingListSize then s.onPu fun p => { p with list := insertDue e p.list }
  else
    match s.pu.list with
    | [] => s.onPu fun p => { p with list := [e] }
    | head :: rest =>
      discardLogs
        ((issueSingle .evicted (s.onPu fun p => { p with list := rest }) head.closure).onPu fun p =>
          { p with list := insertDue e p.list })

/-- R107: a closure that matches nothing. -/
def placeClosure (s : State) (c : Closure) : State :=
  let g := otherFace c.face
  let e : PairEntry := { closure := c, due := c.last + mdWindow s }
  if (s.puFace g).finished then issueSingle .uncertain s c
  else if e.due ≤ (s.puFace g).processed then resolveEntry g s e
  else insertClosure s e

/-- R105, R106: a closure reaches the Pairing Unit. -/
def takeClosure (s : State) (closure : Closure) : State :=
  let c := mapClosure s closure
  if s.pu.active then
    match removeFirst (entryMatches s c) s.pu.list with
    | some (e, rest) => discardLogs (issueThrough (s.onPu fun p => { p with list := rest }) e.closure c)
    | none => placeClosure s c
  else issueSingle .off s c

/-! ## Progress (R109) -/

/-- R109, steps 3 and 4. -/
def settleProgress (s : State) (f : Face) : State := discardLogs (resolvePassed s f)

/-- R109: the progress of a line, with the face's open-spot horizon. Its doubts are logged in the order of its blind list (log 42). -/
def lineProgress (s : State) (f : Face) (item : LineItem) (horizon : Option Int) : State :=
  let stamp := item.desc.stamp
  let doubts := if s.pu.active then lineDoubts s f item else []
  let through := (horizon.map fun h => min stamp (h - 1)).getD stamp
  settleProgress
    (s.onPuFace f fun p => { doubts.foldl (logDoubt stamp) p with processed := through, lastLine := some stamp }) f

/-- R109: the progress at an event item, which carries no horizon. -/
def eventProgress (s : State) (f : Face) : State :=
  settleProgress (s.onPuFace f fun p => { p with processed := p.lastLine.getD p.processed }) f

/-! ## Finish, close-out, start (R113, R114, R105) -/

/-- R113: a face is finished for the Pairing Unit. -/
def finishPairing (s : State) (g : Face) : State :=
  let waiting : PairEntry → Bool := fun e => e.closure.face == otherFace g
  let s1 := (s.onPuFace g fun p => { p with finished := true }).onPu fun p =>
    { p with list := p.list.filter fun e => !waiting e }
  discardLogs (((s.pu.list.filter waiting).map PairEntry.closure).foldl (issueSingle .uncertain) s1)

/-- R114: close-out step 3. -/
def unresolvedPairing (s : State) : State :=
  let s1 := s.onPu fun p =>
    { p with
      list := []
      faces := { upper := { p.faces.upper with log := [] }, lower := { p.faces.lower with log := [] } } }
  (s.pu.list.map PairEntry.closure).foldl (issueSingle .unresolved) s1

/-- R105: a face has a present head. -/
def hasHead (s : State) (f : Face) : Bool :=
  allPorts.any fun p =>
    match s.entry p with
    | none => false
    | some e => e.face == f

/-- Section 6.9: the Pairing Unit at `start`. -/
def startPairing (s : State) (s0 : Int) : State :=
  let active := (s.shared.map SharedPart.pairing).getD false && hasHead s .upper && hasHead s .lower
  s.onPu fun _ =>
    { active := active
      list := []
      faces := PerFace.both { PuFace.powerOn with processed := s0, floor := s0 }
      pinholes := 0
      throughs := 0 }

end Sys2Proof.Machine
end

