-- ==== Sys2Proof/Machine/Spots.lean ====
section
/-! DEFINITION. The Spot Merger's operations (chapter 4), and with them the whole of what one item does on its way from the
Track Engine to the Pairing Unit. -/

namespace Sys2Proof.Machine

def State.setSpot (s : State) (f : Face) (i : Fin 64) (x : Option Spot) : State :=
  s.onSmFace f fun m => { m with spots := m.spots.set i.val x }

/-- R59: CD extent and MD extent. -/
def Spot.cdExtent (x : Spot) : Nat := x.columnMax - x.columnMin + 1
def Spot.mdExtent (x : Spot) : Nat := x.lastLine - x.firstLine + 1

/-- Columns of a spot meet a range widened by the link on both sides. -/
def Spot.near (x : Spot) (link lo hi : Nat) : Bool :=
  decide (lo ≤ x.columnMax + link) && decide (x.columnMin ≤ hi + link)

/-! ## Joining, merging, opening (R61 to R64) -/

/-- R61: a run joins an open spot. -/
def joins (part : FacePart) (r : Run) (x : Spot) : Bool :=
  decide (x.lane = r.lane) && x.near part.link r.first r.last && decide (x.quiet < part.reach)

/-- R62: a spot takes a run of a line in. -/
def Spot.takeRun (x : Spot) (desc : LineDesc) (r : Run) : Spot :=
  let fresh := x.lastLine != desc.number
  { x with
    columnMin := min x.columnMin r.first
    columnMax := max x.columnMax r.last
    lastLine := desc.number
    lastStamp := desc.stamp
    joined := if fresh then bump16 x.joined else x.joined
    quiet := if fresh then 0 else x.quiet
    pixels := bump24 x.pixels r.pixels
    classBits := x.classBits ||| r.classBits
    lights := x.lights.add desc.lighting
    minValue := minByte x.minValue r.minValue
    maxValue := maxByte x.maxValue r.maxValue
    blind := x.blind || r.blindEdge }

/-- R63: the survivor takes another spot of the group in. Both have taken the run; `otherPixels` is what the other held before,
so that the run's pixels count once (log 15). -/
def Spot.absorb (x other : Spot) (otherPixels : Nat) : Spot :=
  { x with
    columnMin := min x.columnMin other.columnMin
    columnMax := max x.columnMax other.columnMax
    joined := max x.joined other.joined
    pixels := bump24 x.pixels otherPixels
    classBits := x.classBits ||| other.classBits
    lights := x.lights.union other.lights
    minValue := minByte x.minValue other.minValue
    maxValue := maxByte x.maxValue other.maxValue
    blind := x.blind || other.blind
    refused := x.refused || other.refused }

/-- R64: the spot a run opens. -/
def openSpot (desc : LineDesc) (r : Run) : Spot :=
  { lane := r.lane, columnMin := r.first, columnMax := r.last, firstLine := desc.number, firstStamp := desc.stamp,
    lastLine := desc.number, lastStamp := desc.stamp, joined := 1, quiet := 0, pixels := r.pixels,
    classBits := r.classBits, lights := ({ r := false, t := false } : Lights).add desc.lighting,
    minValue := r.minValue, maxValue := r.maxValue, blind := r.blindEdge, cut := false, patchIndex := desc.patchIndex,
    offset := desc.offset, sect := desc.sect, refused := false }

/-- R63: the older of two spots comes first: earlier first line, then lower column min. -/
def olderSpot (a b : Fin 64 × Spot) : Bool :=
  decide (b.2.firstLine < a.2.firstLine) ||
    (decide (b.2.firstLine = a.2.firstLine) && decide (b.2.columnMin < a.2.columnMin))

/-- R61 to R64: one unclaimed run is offered to the spot table of a face. -/
def offerRun (part : FacePart) (desc : LineDesc) (m : SmFace) (r : Run) : SmFace :=
  match sortBy olderSpot ((taken m.spots).filter fun x => joins part r x.2) with
  | [] =>
    match lowestFree m.spots with
    | none => { m with full := m.full.add desc.stamp }
    | some i => { m with spots := m.spots.set i.val (some (openSpot desc r)) }
  | oldest :: others =>
    let survivor := others.foldl (fun x o => x.absorb (o.2.takeRun desc r) o.2.pixels) (oldest.2.takeRun desc r)
    let freed := others.foldl (fun spots o => spots.set o.1.val none) m.spots
    { m with spots := freed.set oldest.1.val (some survivor) }

/-! ## Closure (R65 to R72) -/

/-- R70, R71: the pinhole closure of a spot. -/
def pinholeClosure (f : Face) (x : Spot) : Closure :=
  { face := f, first := x.firstStamp, last := x.lastStamp, cdMin := x.columnMin, cdMax := x.columnMax,
    patchIndex := x.patchIndex, offset := x.offset, pixels := x.pixels, classBits := x.classBits, lights := x.lights,
    minValue := x.minValue, maxValue := x.maxValue, cut := x.cut, blind := x.blind }

/-- R72: the fields of a SPOT or LARGE record. -/
def spotFields (f : Face) (x : Spot) : SpotFields :=
  { face := f, lane := x.lane, first := x.firstStamp, last := x.lastStamp, patchIndex := x.patchIndex,
    offset := x.offset, cdMin := x.columnMin, cdMax := x.columnMax, pixels := x.pixels, classBits := x.classBits,
    lights := x.lights, cut := x.cut, blind := x.blind, failed := false }

/-- The classes of R70. -/
inductive SpotClass where
  | noise
  | pinhole
  | spot
  | large
deriving DecidableEq, Repr

/-- R70: the first test a closing spot meets. -/
def classify (part : FacePart) (x : Spot) : SpotClass :=
  if x.pixels < part.minPixels then .noise
  else if x.lights.t ∧ x.cdExtent ≤ part.pinholeCd ∧ x.mdExtent ≤ part.pinholeMd then .pinhole
  else if x.cdExtent ≤ part.spotCd ∧ x.mdExtent ≤ part.spotMd then .spot
  else .large

/-- The state and the pinhole closures made so far, oldest first. -/
structure Closing where
  state    : State
  closures : List Closure
deriving DecidableEq, Repr

/-- R66, R70 to R73: one spot is classified, reported and freed. -/
def closeSpot (part : FacePart) (f : Face) (c : Closing) (x : Fin 64 × Spot) : Closing :=
  let freed : State → State := fun s => s.setSpot f x.1 none
  match classify part x.2 with
  | .noise => { c with state := freed (c.state.onSmFace f fun m => { m with noise := bump16 m.noise }) }
  | .pinhole =>
    { state := freed (c.state.onSmFace f fun m => { m with pinholes := bump16 m.pinholes })
      closures := c.closures ++ [pinholeClosure f x.2] }
  | .spot =>
    let s1 := (issueMarked c.state (.spot (spotFields f x.2)) .spot x.2.firstStamp).1
    { c with state := freed (s1.onSmFace f fun m => { m with spotted := bump16 m.spotted }) }
  | .large =>
    let s1 := (issueMarked c.state (.large (spotFields f x.2)) .large x.2.firstStamp).1
    { c with state := freed (s1.onSmFace f fun m => { m with larges := bump16 m.larges }) }

/-- R66: the order of closures at one point: first stamp, then column min. -/
def closesLater (a b : Fin 64 × Spot) : Bool :=
  decide (b.2.firstStamp < a.2.firstStamp) ||
    (decide (b.2.firstStamp = a.2.firstStamp) && decide (b.2.columnMin < a.2.columnMin))

/-- R66: spots close at one point of the stream. -/
def closeSpots (s : State) (f : Face) (part : FacePart) (spots : List (Fin 64 × Spot)) : Closing :=
  (sortBy closesLater spots).foldl (closeSpot part f) { state := s, closures := [] }

/-- R59, R67 to R69: a cut sets the CUT flag of every open spot of a face. -/
def markCut (s : State) (f : Face) : State :=
  s.onSmFace f fun m => { m with spots := m.spots.map fun x => x.map fun y => { y with cut := true } }

/-- R67 to R69: every open spot of a face closes with CUT. -/
def cutSpots (s : State) (f : Face) (part : FacePart) : Closing :=
  let s1 := markCut s f
  closeSpots s1 f part (taken (s1.smFace f).spots)

/-- R65: a spot that no run of the line joined, on an observed line. -/
def quietSpot (part : FacePart) (item : LineItem) (x : Spot) : Spot :=
  if x.lastLine = item.desc.number then x
  else
    { x with
      quiet := x.quiet + 1
      blind := x.blind || item.blind.any fun r => x.near part.link r.lo r.hi }

/-- R65: the second step for a line. -/
def quietStep (s : State) (f : Face) (part : FacePart) (item : LineItem) : Closing :=
  if item.desc.skipped then { state := s, closures := [] }
  else
    let s1 := s.onSmFace f fun m => { m with spots := m.spots.map fun x => x.map (quietSpot part item) }
    let ended := (taken (s1.smFace f).spots).filter fun x =>
      x.2.lastLine != item.desc.number && decide (part.reach ≤ x.2.quiet)
    closeSpots s1 f part ended

/-! ## Handover (R75, R76) -/

/-- R75: a spot qualifies for handover. -/
def qualifies (part : FacePart) (x : Spot) : Bool :=
  (part.lane x.lane).kind == .coated && x.sect == .coated && decide (part.streakStart ≤ x.mdExtent)
    && decide (x.cdExtent ≤ (part.lane x.lane).maxWidth) && !x.refused

/-- R75: the request for a spot. -/
def requestFor (x : Spot) : Request :=
  { lane := x.lane, columnMin := x.columnMin, columnMax := x.columnMax, firstLine := x.firstLine,
    firstStamp := x.firstStamp, lastLine := x.lastLine, lastStamp := x.lastStamp, hits := x.joined,
    classBits := x.classBits, lights := x.lights }

/-- R76: one request and its answer. -/
def offerSpot (part : FacePart) (f : Face) (desc : LineDesc) (s : State) (x : Fin 64 × Spot) : State :=
  match takeHandover s f part desc (requestFor x.2) with
  | (s1, true) => s1.setSpot f x.1 none
  | (s1, false) => s1.setSpot f x.1 (some { x.2 with refused := true })

/-- R75: the third step for a line, in order of increasing column min. -/
def handoverStep (s : State) (f : Face) (part : FacePart) (desc : LineDesc) : State :=
  let spots := (taken (s.smFace f).spots).filter fun x => x.2.lastLine == desc.number && qualifies part x.2
  (sortBy (fun a b => decide (b.2.columnMin < a.2.columnMin)) spots).foldl (offerSpot part f desc) s

/-- R109: the face's open-spot horizon. -/
def horizon (s : State) (f : Face) : Option Int :=
  (taken (s.smFace f).spots).foldl (fun x e => some ((x.map fun y => min y e.2.firstStamp).getD e.2.firstStamp)) none

/-! ## Items (R60, R79, R103) -/

/-- The closures of a point reach the Pairing Unit in the order they were made. -/
def deliver (c : Closing) : State := c.closures.foldl takeClosure c.state

/-- R60, R79, R103: a line item from the Track Engine to the Pairing Unit. -/
def processLine (s : State) (f : Face) (part : FacePart) (item : LineItem) : State :=
  let (s1, unclaimed) := trackLine s f part item
  let s2 := s1.onTeFace f fun e => { e with lastPart := some part }
  let s3 := s2.onSmFace f fun m => unclaimed.foldl (offerRun part item.desc) m
  let c := quietStep s3 f part item
  let s4 := handoverStep c.state f part item.desc
  let open1 := horizon s4 f
  lineProgress (deliver { c with state := s4 }) f item open1

/-- The face part of the last line item the Track Engine took for a face (R67, R95). -/
def lastPart (s : State) (f : Face) : FacePart := (s.teFace f).lastPart.getD FacePart.empty

/-- R67, R68: the cut of a face's spots at an event item, and their closures' arrival at the Pairing Unit, after every record of the cut
(log 35). -/
def cutAndDeliver (s : State) (f : Face) : State := deliver (cutSpots s f (lastPart s f))

/-- R68, R96: a splice closure item. -/
def processSplice (s : State) (f : Face) : State :=
  eventProgress (cutAndDeliver (cutTracks s f .splice) f) f

/-- R67, R94, R126: a patch-start item. The Mark Unit's auto-resume follows the upper face. -/
def processPatchStart (s : State) (f : Face) (item : PatchStart) : State :=
  let s1 := eventProgress (cutAndDeliver (trackPatchStart s f item) f) f
  match f with
  | .upper => autoResume s1
  | .lower => s1

/-- R18: the PATCH record of a patch end, with the counts the Track Engine and the Spot Merger hand on. The sum of the two large counts
saturates (log 34). -/
def patchBody (s : State) (f : Face) (item : PatchEnd) : RecordBody :=
  let m := s.smFace f
  let e := s.teFace f
  .patch f item.index item.first item.last item.flags (s.muFace f).edgeExtra m.pinholes m.spotted
    (satAdd max16 m.larges e.larges) e.confirmations m.noise

/-- R73, R101: the per-patch counts of a face go to 0. -/
def clearPatchCounts (s : State) (f : Face) : State :=
  (s.onSmFace f fun m => { m with pinholes := 0, spotted := 0, larges := 0, noise := 0 }).onTeFace f fun e =>
    { e with confirmations := 0, larges := 0 }

/-- R5: the jump tally, which belongs to the upper face, is reported and cleared. -/
def reportJumps (s : State) : State :=
  issueTally (s.onMu fun m => { m with jumps := Tally.empty }) .encoderJump .upper s.mu.jumps

/-- R10, R56, R74, R100: a face's other tallies are reported in their order and cleared. -/
def reportOverflow (s : State) (f : Face) : State :=
  issueTally (s.onMuFace f fun m => { m with overflow := Tally.empty }) .markOverflow f (s.muFace f).overflow

def reportSpotFull (s : State) (f : Face) : State :=
  issueTally (s.onSmFace f fun m => { m with full := Tally.empty }) .spotFull f (s.smFace f).full

def reportTrackFull (s : State) (f : Face) : State :=
  issueTally (s.onTeFace f fun e => { e with full := Tally.empty }) .trackFull f (s.teFace f).full

/-- R5, R10: the Motion Unit's reports at a patch end, ENCODER_JUMP for the upper face before MARK_OVERFLOW. What joined the tallies after
the tracker made the patch end is reported here too (log 33). -/
def reportMotion (s : State) (f : Face) : State :=
  reportOverflow
    (match f with
    | .upper => reportJumps s
    | .lower => s)
    f

/-- R18: the PATCH record and the reports that follow it. -/
def reportPatch (s : State) (f : Face) (item : PatchEnd) (runFull : Tally) : State :=
  let s1 := clearPatchCounts (issue s (patchBody s f item)) f
  let s2 := s1.onMuFace f fun m => { m with edgeExtra := false }
  let s3 := issueTally (reportMotion s2 f) .runFull f runFull
  reportTrackFull (reportSpotFull s3 f) f

/-- R17, R67, R93: a patch-end item from the Track Engine through the Exchange Unit. The sample follows
the reports (log 44). What the Control Unit does with a finishing one follows in `Control.lean`. -/
def processPatchEnd (s : State) (f : Face) (item : PatchEnd) (runFull : Tally) (part : FacePart) : State :=
  let s1 := eventProgress (cutAndDeliver (trackPatchEnd s f part) f) f
  let s2 := reportPatch s1 f item runFull
  if s2.inspecting then startSample s2 else s2

/-- Section 4.8: the Spot Merger at `start`. -/
def startSpots (s : State) : State := s.onSm fun _ => PerFace.both SmFace.powerOn

end Sys2Proof.Machine
end

