-- ==== Sys2Proof/Machine/Recipes.lean ====
section
/-! DEFINITION. The Recipe Store's operations (chapter 9): the checks of R150 on a recipe slot, and what becomes of a valid
recipe. -/

namespace Sys2Proof.Machine

/-- One test of a check: the byte offset of the field it reports, and whether it fails. -/
structure FieldTest where
  offset : Nat
  fails  : Bool
deriving DecidableEq, Repr

/-- The test that a value lies in a range. -/
def within (offset value lo hi : Nat) : FieldTest :=
  { offset := offset, fails := decide (value < lo) || decide (hi < value) }

def withinInt (offset : Nat) (value lo hi : Int) : FieldTest :=
  { offset := offset, fails := decide (value < lo) || decide (hi < value) }

/-- The largest 24-bit count, the bound of most counts of a recipe. -/
def maxCount : Nat := 16777215

/-! ## RANGE (R151) -/

/-- R151: the fields of the shared part before the markers. -/
def rangeTiming (slot : List Byte) : List FieldTest :=
  [within 0x040 (u8 slot 0x040) 1 64, within 0x041 (u8 slot 0x041) 0 2, within 0x042 (u8 slot 0x042) 0 15,
    within 0x043 (u8 slot 0x043) 0 255, within 0x044 (u16 slot 0x044) 20 1000, within 0x046 (u16 slot 0x046) 50 5000,
    within 0x048 (u32 slot 0x048) 0 maxCount, withinInt 0x04C (s32 slot 0x04C) (-maxCount) maxCount,
    withinInt 0x050 (s32 slot 0x050) (-maxCount) maxCount, withinInt 0x054 (s32 slot 0x054) (-maxCount) maxCount,
    within 0x058 (u32 slot 0x058) 0 1048575, within 0x05C (u32 slot 0x05C) 0 1048575]

def rangePairing (slot : List Byte) : List FieldTest :=
  [within 0x060 (u8 slot 0x060) 0 1, within 0x061 (u8 slot 0x061) 0 1, within 0x062 (u8 slot 0x062) 0 31,
    withinInt 0x064 (s32 slot 0x064) (-16383) 32766, within 0x068 (u16 slot 0x068) 0 1023,
    within 0x06A (u8 slot 0x06A) 0 1, within 0x06C (u16 slot 0x06C) 1 10000, within 0x06E (u16 slot 0x06E) 10 10000,
    within 0x070 (u32 slot 0x070) 0 maxCount, within 0x074 (u8 slot 0x074) 0 2, within 0x075 (u8 slot 0x075) 0 2,
    within 0x076 (u8 slot 0x076) 0 2, within 0x077 (u8 slot 0x077) 0 2, within 0x078 (u8 slot 0x078) 0 2]

def rangeMarker (slot : List Byte) (offset : Nat) : List FieldTest :=
  [within offset (u32 slot offset) 0 maxCount, within (offset + 4) (u16 slot (offset + 4)) 1 65535,
    within (offset + 6) (u8 slot (offset + 6)) 0 1]

/-- R151: a head entry; with the present mark off only the mark is judged. -/
def rangeHead (slot : List Byte) (p : Nat) : List FieldTest :=
  let o := headOffset p
  let width := u16 slot (o + 4)
  let mark := within o (u8 slot o) 0 1
  if u8 slot o = 1 then
    [mark, within (o + 1) (u8 slot (o + 1)) 0 1, within (o + 2) (u16 slot (o + 2)) 0 16383,
      { offset := o + 4, fails := decide (width < 256) || decide (4096 < width) || decide (width % 64 ≠ 0) },
      within (o + 6) (u8 slot (o + 6)) 1 255]
  else [mark]

/-- R151: one lane, its bytes standing at `o` in the slot. -/
def rangeLane (slot : List Byte) (o : Nat) : List FieldTest :=
  [within o (u16 slot o) 0 16383, within (o + 2) (u16 slot (o + 2)) 0 16383, within (o + 4) (u8 slot (o + 4)) 0 1,
    within (o + 5) (u8 slot (o + 5)) 1 255, within (o + 6) (u8 slot (o + 6)) 0 7, within (o + 7) (u8 slot (o + 7)) 0 2,
    within (o + 12) (u8 slot (o + 12)) 1 63, within (o + 13) (u8 slot (o + 13)) 1 255,
    within (o + 14) (u8 slot (o + 14)) 1 255, within (o + 16) (u16 slot (o + 16)) 4 1023,
    within (o + 18) (u16 slot (o + 18)) 1 1023, within (o + 20) (u16 slot (o + 20)) 1 4095]

/-- R150, R151: the lanes in use of a face part. -/
def laneCount (slot : List Byte) (f : Face) : Nat := min 12 (u8 slot (facePartOffset f + 2))

/-- R151: a face part. -/
def rangeFace (slot : List Byte) (f : Face) : List FieldTest :=
  let b := facePartOffset f
  [within b (u8 slot b) 0 1, within (b + 0x001) (u8 slot (b + 0x001)) 0 1,
    within (b + 0x002) (u8 slot (b + 0x002)) 0 12, within (b + 0x004) (u32 slot (b + 0x004)) 1 maxCount,
    within (b + 0x008) (u32 slot (b + 0x008)) 0 maxCount, within (b + 0x00C) (u32 slot (b + 0x00C)) 1 maxCount,
    within (b + 0x010) (u32 slot (b + 0x010)) 0 maxCount, within (b + 0x014) (u8 slot (b + 0x014)) 1 4,
    within (b + 0x015) (u8 slot (b + 0x015)) 0 3, within (b + 0x016) (u8 slot (b + 0x016)) 1 63,
    within (b + 0x017) (u8 slot (b + 0x017)) 1 63, within (b + 0x018) (u8 slot (b + 0x018)) 1 255,
    within (b + 0x019) (u8 slot (b + 0x019)) 1 255, within (b + 0x01A) (u8 slot (b + 0x01A)) 8 255,
    within (b + 0x01C) (u16 slot (b + 0x01C)) 1 4095]
    ++ ((List.range (laneCount slot f)).map fun i => rangeLane slot (b + laneOffset i)).flatten

/-- R150, R151: RANGE, the fields in increasing offset. -/
def rangeTests (slot : List Byte) : List FieldTest :=
  rangeTiming slot ++ rangePairing slot ++ rangeMarker slot 0x080 ++ rangeMarker slot 0x088
    ++ ((List.range 8).map (rangeHead slot)).flatten ++ rangeFace slot .upper ++ rangeFace slot .lower

/-! ## Heads (R150, R152) -/

def HeadEntry.last (e : HeadEntry) : Nat := e.origin + e.width - 1

/-- HEAD_PORT. -/
def headPortTests (straps : Straps) (heads : Vector HeadEntry 8) : List FieldTest :=
  allPorts.map fun p => { offset := headOffset p.val, fails := heads[p].present && !straps.fitted p }

/-- HEAD_EXTENT. -/
def headExtentTests (heads : Vector HeadEntry 8) : List FieldTest :=
  allPorts.map fun p => { offset := headOffset p.val + 4, fails := heads[p].present && decide (16383 < heads[p].last) }

/-- The present heads of a face numbered below a port. -/
def headsBelow (heads : Vector HeadEntry 8) (p : Port) : List Port :=
  allPorts.filter fun q => decide (q.val < p.val) && heads[q].present && heads[q].face == heads[p].face

/-- HEAD_COUNT: the fifth present head of a face. -/
def headCountTests (heads : Vector HeadEntry 8) : List FieldTest :=
  allPorts.map fun p =>
    { offset := headOffset p.val + 1, fails := heads[p].present && decide ((headsBelow heads p).length = 4) }

/-- Two ranges share their origin, or one lies within the other. -/
def rangesClash (a b : HeadEntry) : Bool :=
  decide (a.origin = b.origin) || (decide (b.origin ≤ a.origin) && decide (a.last ≤ b.last))
    || (decide (a.origin ≤ b.origin) && decide (b.last ≤ a.last))

/-- HEAD_ORDER. -/
def headOrderTests (heads : Vector HeadEntry 8) : List FieldTest :=
  allPorts.map fun p =>
    { offset := headOffset p.val + 2,
      fails := heads[p].present && (headsBelow heads p).any fun q => rangesClash heads[q] heads[p] }

/-! ## Stations, pairing, lanes (R150, R152) -/

/-- STATION. -/
def stationTests (sp : SharedPart) : List FieldTest :=
  [{ offset := 0x04C, fails := decide (0 < sp.qU) }, { offset := 0x050, fails := decide ((sp.d : Int) < sp.qL) },
    { offset := 0x054, fails := decide (-(sp.eb : Int) < sp.qS) }]

/-- PAIR_MAP. -/
def pairMapTests (sp : SharedPart) : List FieldTest :=
  [if sp.mirror then withinInt 0x064 sp.columnOffset 0 32766 else withinInt 0x064 sp.columnOffset (-16383) 16383]

/-- Offset of a lane of a face in the slot. -/
def laneAt (f : Face) (i : Nat) : Nat := facePartOffset f + laneOffset i

/-- LANE_ORDER: start and end of one lane. -/
def laneOrderTests (f : Face) (part : FacePart) (i : Nat) : List FieldTest :=
  [{ offset := laneAt f i, fails := decide (0 < i) && decide ((part.lane i).first ≤ (part.lane (i - 1)).last) },
    { offset := laneAt f i + 2, fails := decide ((part.lane i).last < (part.lane i).first) }]

/-- The columns from `c` to `hi` are each covered by a present head of the face. Every step passes the end of one head. -/
def covered (heads : Vector HeadEntry 8) (f : Face) (hi : Nat) : Nat → Nat → Bool
  | 0, c => decide (hi < c)
  | n + 1, c =>
    if hi < c then true
    else
      match allPorts.find? fun p =>
        heads[p].present && heads[p].face == f && decide (heads[p].origin ≤ c) && decide (c ≤ heads[p].last) with
      | none => false
      | some p => covered heads f hi n (heads[p].last + 1)

/-- LANE_COVER. -/
def laneCoverTest (heads : Vector HeadEntry 8) (f : Face) (part : FacePart) (i : Nat) : FieldTest :=
  { offset := laneAt f i, fails := !covered heads f (part.lane i).last 8 (part.lane i).first }

/-- STREAK_START. -/
def streakStartTest (f : Face) (part : FacePart) : FieldTest :=
  { offset := facePartOffset f + 0x01A, fails := decide (part.streakStart ≤ part.pinholeMd) }

/-- END_MISSES. -/
def endMissesTest (f : Face) (part : FacePart) (i : Nat) : FieldTest :=
  { offset := laneAt f i + 20, fails := decide ((part.lane i).endMisses ≤ (part.lane i).fadeMisses) }

/-- SEGMENT. -/
def segmentTest (f : Face) (part : FacePart) : FieldTest :=
  { offset := facePartOffset f + 0x010, fails := part.mode == .continuous && part.segment == 0 }

/-! ## The checks in order (R150) -/

/-- A failed check: its code and the offset it reports. -/
structure CheckFailure where
  code   : Nat
  offset : Nat
deriving DecidableEq, Repr

/-- For both faces, upper first. -/
def eachFace (g : Face → List FieldTest) : List FieldTest := g .upper ++ g .lower

/-- R150: the tests of each check, by its code. -/
def checkTests (straps : Straps) (slot : List Byte) : List (Nat × List FieldTest) :=
  let sp := readShared slot
  let part : Face → FacePart := slotFacePart slot
  let lanes : Face → List Nat := fun f => List.range (part f).lanes.length
  [(1, [{ offset := 0x004, fails := decide (u32 slot 0x004 ≠ 1) }]), (2, rangeTests slot),
    (3, headPortTests straps sp.heads), (4, headExtentTests sp.heads), (5, headCountTests sp.heads),
    (6, headOrderTests sp.heads), (7, stationTests sp), (8, pairMapTests sp),
    (9, eachFace fun f => ((lanes f).map (laneOrderTests f (part f))).flatten),
    (10, eachFace fun f => (lanes f).map (laneCoverTest sp.heads f (part f))),
    (11, eachFace fun f => [streakStartTest f (part f)]), (12, eachFace fun f => (lanes f).map (endMissesTest f (part f))),
    (13, eachFace fun f => [segmentTest f (part f)])]

/-- The first test of one check that fails. -/
def firstFailing (code : Nat) (tests : List FieldTest) : Option CheckFailure :=
  (tests.find? FieldTest.fails).map fun t => { code := code, offset := t.offset }

/-- R150: the first check that fails, with the first field it fails on; none when the recipe is valid. -/
def validate (straps : Straps) (slot : List Byte) : Option CheckFailure :=
  (checkTests straps slot).findSome? fun c => firstFailing c.1 c.2

/-! ## A valid recipe (R153 to R155) -/

/-- R154: a recipe becomes active whole. -/
def activateRecipe (s : State) (slot : BitVec 2) (bytes : List Byte) : State :=
  let id := slotRecipeId bytes
  let upper := slotFacePart bytes .upper
  let lower := slotFacePart bytes .lower
  let s1 := s.onRs fun r =>
    { r with
      shared := some { part := readShared bytes, slot := slot, id := id }
      faces :=
        { upper := { active := some { part := upper, slot := slot, id := id }, pending := none }
          lower := { active := some { part := lower, slot := slot, id := id }, pending := none } } }
  let s2 := activateParts (activateHeads s1) upper lower
  cutPulses (s2.onMu fun m => { m with stallCount := 0 })

/-- R155: the face parts of an accepted recipe become pending. -/
def pendRecipe (s : State) (slot : BitVec 2) (bytes : List Byte) : State :=
  let id := slotRecipeId bytes
  (s.onRsFace .upper fun r =>
    { r with pending := some { part := slotFacePart bytes .upper, slot := slot, id := id } }).onRsFace .lower fun r =>
      { r with pending := some { part := slotFacePart bytes .lower, slot := slot, id := id } }

/-- R196: a result other than REFUSED_RECIPE, with check code and field offset 0 (log 48). -/
def plainResult (code : ResultCode) : OrderResult := { code := code, check := 0, offset := 0 }

/-- R153: the outcome of a valid recipe, by the inspection state at that moment. -/
def settleRecipe (s : State) (slot : BitVec 2) (bytes : List Byte) : State × OrderResult :=
  match s.cu.state with
  | .idle => (activateRecipe s slot bytes, plainResult .done)
  | .running | .stopping =>
    if s.shared = some (readShared bytes) then (pendRecipe s slot bytes, plainResult .accepted)
    else (s, plainResult .refusedShared)
  | .closing | .off => (s, plainResult .refusedState)

/-- R147, R148: the bytes read fill the load's copy. -/
def fillLoad (s : State) (bytes : List Byte) : State :=
  s.onRs fun r => { r with load := r.load.map fun l => { l with copy := bytes } }

/-- R150, R153: validation and outcome of a load's copy. -/
def judgeRecipe (s : State) (slot : BitVec 2) (bytes : List Byte) : State × OrderResult :=
  match validate s.straps bytes with
  | some x => (s, { code := .refusedRecipe, check := x.code, offset := x.offset })
  | none => settleRecipe s slot bytes

/-- R158: the pending parts of both faces are discarded. -/
def discardPending (s : State) : State :=
  s.onRs fun r =>
    { r with
      faces :=
        { upper := { r.faces.upper with pending := none }
          lower := { r.faces.lower with pending := none } } }

end Sys2Proof.Machine
end

