-- ==== Sys2Proof/Machine/Control.lean ====
section
/-! DEFINITION. The Control Unit's operations (chapter 10): entry to CLOSING, close-out, orders of a batch, the start of a roll,
and what every step ends with. -/

namespace Sys2Proof.Machine

/-! ## Entry to CLOSING (R163) -/

/-- R9: edges begun and not accepted are discarded. -/
def discardBegun (s : State) : State :=
  ((s.onMuFace .upper fun m => { m with begun := none }).onMuFace .lower fun m => { m with begun := none }).onMu fun m =>
    { m with spliceBegun := none }

/-- R163: the roll enters CLOSING; once it is closing, further causes are ignored. The upper face goes before the lower (log 39), and the
status block is written after both (log 9). -/
def enterClosing (s : State) (reason : EndReason) : State :=
  if s.inspecting then
    let s1 := s.onCu fun c => { c with state := .closing, endReason := some reason, phase := .waiting }
    let s2 := discardBegun (closeSkip (closeSkip s1 .upper) .lower)
    wantStatus (discardPending (assembleAll (assembleAll s2 .upper) .lower)) Owed.none
  else s

/-- R162: the Control Unit has been told that both faces are finished. -/
def bothFinished (s : State) : Bool := s.pu.faces.upper.finished && s.pu.faces.lower.finished

/-- R162: in STOPPING, the second finish notice ends the roll. -/
def stopIfFinished (s : State) : State :=
  if s.cu.state = .stopping ∧ bothFinished s then enterClosing s .stop else s

/-- R113, R162: a face is finished for the Pairing Unit, and the Control Unit is told. -/
def finishNotice (s : State) (f : Face) : State := stopIfFinished (finishPairing s f)

/-! ## The end of close-out (R165, R170) -/

/-- R161, R165: close-out has ended. -/
def endCloseout (s : State) : State :=
  let s1 := s.onCu fun c => { c with state := if s.xu.enable then .idle else .off, phase := .notClosing }
  let s2 := if s.xu.enable then s1 else s1.onXu fun x => { x with pollCount := 0, pollDue := false }
  wantStatus s2 Owed.none

/-- R165: the conditions of step 7 hold. -/
def drained (s : State) : Bool := s.ru.abandoned || (s.ru.queue.isEmpty && !s.ru.tallyOpen)

/-- R165, R170: the reason of the final post. -/
def finalReason (s : State) : PostReason :=
  if s.ru.abandoned ∨ s.cu.endReason = some .halt then .halt else .rollEnd

/-- R165: in step 7, once its conditions hold and no post is in progress (log 13), the final page is posted or close-out ends. -/
def closeoutCheck (s : State) : State :=
  if s.cu.state = .closing ∧ s.cu.phase = .drain ∧ s.xu.posting.isNone ∧ drained s then
    if (s.xu.filling.any fun page => !page.records.isEmpty) then
      (beginPost s (finalReason s)).onCu fun c => { c with phase := .final }
    else endCloseout s
  else s

/-- R145, R170: the abandon mark acts. -/
def actAbandon (s : State) : State :=
  let s1 := loseRecords (s.onRu fun r => { r with queue := [], abandoned := true }) s.ru.queue
  closeoutCheck s1

/-! ## Close-out steps 1 to 6 (R164) -/

/-- The closure reason of step 2 (R97). -/
def closeReason (s : State) : CloseReason :=
  match s.cu.endReason with
  | some .stop => .stop
  | some .limit => .limit
  | some .halt | none => .halt

/-- R164: every item placed before entry to CLOSING has passed the Pairing Unit. -/
def streamsPassed (s : State) : Bool :=
  s.lu.faces.upper.stream.isEmpty && s.lu.faces.lower.stream.isEmpty && s.rx.upper.handed.isEmpty
    && s.rx.lower.handed.isEmpty

/-- Step 1 (R69). The closures of the upper face act at the Pairing Unit before the spots of the lower face close (log 46). -/
def closeAllSpots (s : State) : State := cutAndDeliver (cutAndDeliver s .upper) .lower

/-- Step 2 (R97), and the per-patch counts that steps 1 and 2 discard (R69, R97). -/
def closeAllTracks (s : State) : State :=
  let reason := closeReason s
  clearPatchCounts (clearPatchCounts (cutTracks (cutTracks s .upper reason) .lower reason) .upper) .lower

/-- Step 4 (R127). -/
def missAllMarks (s : State) : State :=
  s.ku.queue.foldl (fun t e => issueMissed t e .rollEnd) (s.onKu fun k => { k with queue := [] })

/-- Step 5 for one face, after ENCODER_JUMP. -/
def reportRunFull (s : State) (f : Face) : State :=
  issueTally (s.onRxFace f fun r => { r with runFull := Tally.empty }) .runFull f (s.rxFace f).runFull

def reportTallies (s : State) (f : Face) : State :=
  reportTrackFull (reportSpotFull (reportRunFull (reportOverflow s f) f) f) f

/-- Step 5. -/
def reportAllTallies (s : State) : State := reportTallies (reportTallies (reportJumps s) .upper) .lower

/-- Step 6: ROLL_END with the totals of R134. -/
def issueRollEnd (s : State) : State :=
  let reason := s.cu.endReason.getD .halt
  (issue s
    (.rollEnd s.mu.h reason s.pu.pinholes s.pu.throughs s.ru.spots s.ru.larges (s.te.nextStreak - 1))).onRu fun r =>
      { r with rollEndTaken := true }

/-- R164: steps 1 to 6. -/
def closeoutSteps (s : State) : State :=
  issueRollEnd (reportAllTallies (missAllMarks (unresolvedPairing (closeAllTracks (closeAllSpots s)))))

/-- R164, R165, R170: close-out begins, runs its steps and reaches step 7. -/
def beginCloseout (s : State) : State :=
  if s.cu.state = .closing ∧ s.cu.phase = .waiting ∧ streamsPassed s then
    let s1 := (closeoutSteps s).onCu fun c => { c with phase := .drain }
    if s1.cu.abandon then actAbandon s1 else closeoutCheck s1
  else s

/-! ## Batches (R167) -/

/-- R167, R182: a batch has ended; its results and generation go to the Exchange Unit. -/
def finishBatch (s : State) (generation : Word) (results : Vector OrderResult 16) : State :=
  wantStatus
    ((s.onCu fun c => { c with batch := none }).onXu fun x => { x with taken := generation, results := results })
    { posted := false, orders := true }

/-- R167: the count of a batch is from 1 to 16. -/
def countValid (count : Word) : Bool := decide (1 ≤ count.toNat) && decide (count.toNat ≤ Config.listEntries)

/-- R167: the results of a batch whose count is refused. -/
def badCountResults : Vector OrderResult 16 :=
  (Vector.replicate 16 OrderResult.notRun).set 0 (plainResult .badCount)

/-- R167: the copy of a batch is handed to the Control Unit. -/
def handBatch (s : State) (generation count : Word) (entries : OrderListBytes) : State :=
  if countValid count then
    s.onCu fun c =>
      { c with
        batch :=
          some
            { generation := generation, count := count.toNat, entries := entries, next := 0,
              results := Vector.replicate 16 OrderResult.notRun } }
  else finishBatch s generation badCountResults

/-- R167: the order at the front of the batch being executed; none while a load is in progress. -/
def orderDue (s : State) : Option Instr :=
  match s.cu.batch, s.rs.load with
  | some b, none => if b.next < b.count then some (orderOf (orderEntry b.entries b.next)) else none
  | some _, some _ | none, some _ | none, none => none

/-- R167: the result of the order at the front is noted; after the last order the batch ends. -/
def endOrder (s : State) (result : OrderResult) : State :=
  match s.cu.batch with
  | none => s
  | some b =>
    let results := b.results.setIfInBounds b.next result
    if b.next + 1 < b.count then
      s.onCu fun c => { c with batch := some { b with next := b.next + 1, results := results } }
    else finishBatch s b.generation results

/-- R167: an order is executed when it is the next entry of the batch (log 23). -/
def executeOrder (s : State) (order : Instr) (effect : State → State × OrderResult) : State :=
  if orderDue s = some order then
    let r := effect s
    endOrder r.1 r.2
  else s

/-! ## Orders (R168 to R177) -/

/-- Section 8.7: the Record Unit at `start`. -/
def startRecords (s : State) : State := s.onRu fun _ => RecordUnit.powerOn

/-- R133, R168: ROLL_START, with the source of the active shared part. -/
def issueRollStart (s : State) (rollId : Word) (s0 : Int) : State :=
  match s.rs.shared with
  | none => s
  | some part => issue s (.rollStart rollId s0 part.slot part.id)

/-- R168: every block's share of `start`. -/
def startBlocks (s : State) (s0 : Int) : State :=
  startRecords (startMarks (startPairing (startTracks (startSpots (startExtract (startLinks (startMotion s s0)))) s0) s0))

/-- R168: the roll is opened. Section 11.8 gives no filling page and no post at `start`. The status block is written after ROLL_START
(log 9). -/
def startRoll (s : State) (rollId : Word) (s0 : Int) : State :=
  let s1 := (startBlocks s s0).onCu fun c =>
    { c with state := .running, rollId := rollId, endReason := none, abandon := false, phase := .notClosing }
  let s2 := s1.onXu fun x => { x with filling := none, posting := none }
  wantStatus (issueRollStart s2 rollId s0) Owed.none

/-- R168: `start`. -/
def orderStart (s : State) (rollId : Word) (s0 : Int) : State × OrderResult :=
  if s.cu.state ≠ .idle then (s, plainResult .refusedState)
  else if s.rs.shared.isNone then (s, plainResult .noRecipe)
  else if s0 < -Config.startLimit ∨ Config.startLimit < s0 then (s, plainResult .badOperand)
  else (startRoll s rollId s0, plainResult .done)

/-- R19, R162: `stop` asks a face to finish; a face in WAIT is finished at once, its OVERSPEED record before what R113 issues
(log 39). -/
def requestFinish (s : State) (f : Face) : State :=
  let s1 := s.onMuFace f fun m => { m with finishRequest := true }
  if (s.muFace f).sect = .wait then finishPairing (finishFace s1 f) f else s1

/-- R162, R169: `stop`. The status block is written first (log 9), and the upper face goes before the lower (log 39). -/
def orderStop (s : State) : State × OrderResult :=
  match s.cu.state with
  | .running =>
    let s1 := wantStatus (s.onCu fun c => { c with state := .stopping }) Owed.none
    (stopIfFinished (requestFinish (requestFinish s1 .upper) .lower), plainResult .accepted)
  | .stopping | .closing => (s, plainResult .already)
  | .idle | .off => (s, plainResult .refusedState)

/-- R170: `halt` in CLOSING sets the abandon mark, which acts once step 7 has been reached. -/
def haltClosing (s : State) : State :=
  if s.cu.abandon then s
  else
    let s1 := s.onCu fun c => { c with abandon := true }
    match s.cu.phase with
    | .drain | .final => actAbandon s1
    | .waiting | .notClosing => s1

/-- R170: `halt`. -/
def orderHalt (s : State) : State × OrderResult :=
  match s.cu.state with
  | .running | .stopping => (enterClosing s .halt, plainResult .done)
  | .closing => (haltClosing s, plainResult .done)
  | .idle | .off => (s, plainResult .refusedState)

/-- R148: host address of a recipe slot, relative to XBASE, and the bytes a load reads. -/
def slotOffset (slot : Nat) : Nat := 0x2000 * (slot + 1)
def slotLength : Nat := 2496

/-- R148: the load begins. -/
def beginLoad (s : State) (slot : BitVec 2) : State :=
  (s.onRs fun r => { r with load := some { slot := slot, copy := [], waited := 0 } }).emit
    (.busRead (exchangeAt s (slotOffset slot.toNat)) slotLength)

/-- R148: `recipe` is refused without a load. BAD_OPERAND comes before REFUSED_STATE (log 43). -/
def recipeRefused (s : State) (slot : Word) : Option ResultCode :=
  if 3 < slot.toNat then some .badOperand
  else if s.cu.state = .off then some .refusedState
  else none

/-- R172: `flush`. -/
def orderFlush (s : State) : State × OrderResult :=
  if (s.xu.filling.any fun page => !page.records.isEmpty) then (beginPost s .flush, plainResult .done)
  else if s.ru.queue.isEmpty then (s, plainResult .empty)
  else (s, plainResult .noStock)

/-- R173: `note`. -/
def orderNote (s : State) (value : BitVec 64) : State × OrderResult :=
  if s.inspecting then (issue s (.note value s.mu.h), plainResult .done) else (s, plainResult .refusedState)

/-- R126, R174: `markon`. -/
def orderMarkon (s : State) : State × OrderResult :=
  if s.pins.breakInput then (s, plainResult .breakActive)
  else if s.ku.breakFlag then (clearBreak s, plainResult .done)
  else (s, plainResult .already)

/-- R175: `clear`. -/
def orderClear (s : State) : State × OrderResult :=
  ((s.onCu fun c => { c with capture := none }).onLu fun l =>
    { l with heads := l.heads.map fun h => { h with counters := HeadCounters.zero } }, plainResult .done)

/-- R176: every level of the operand is from 0 to 3. -/
def levelsValid (levels : Vector Byte 8) : Bool := allPorts.all fun i => decide (levels[i].toNat ≤ 3)

/-- R176: `levels`. -/
def orderLevels (s : State) (levels : Vector Byte 8) : State × OrderResult :=
  if levelsValid levels then
    (s.onXu fun x => { x with levels := levels.map fun l => l.setWidth 2 }, plainResult .done)
  else (s, plainResult .badOperand)

/-- R177: `headreset`. -/
def orderHeadreset (s : State) (head : Word) : State × OrderResult :=
  if h : head.toNat < 8 then
    if s.straps.fitted ⟨head.toNat, h⟩ then (resetHead s ⟨head.toNat, h⟩, plainResult .done)
    else (s, plainResult .badOperand)
  else (s, plainResult .badOperand)

/-! ## The end of every step -/

/-- R163: a limit event sent in this step is taken at its end (log 9). Close-out's own records may send one more, which finds the
state CLOSING and is ignored. -/
def takeLimit (s : State) : State :=
  if s.cu.limitEvent then (enterClosing s .limit).onCu fun c => { c with limitEvent := false } else s

/-- R189: what the changed mark is judged against at the end of a step: the contents the write in progress has captured, or with
no write in progress the fields as the step found them. -/
def statusBasis (before after : State) : StatusFields :=
  match after.xu.statusWrite with
  | some w => w.contents
  | none => statusFields before

/-- R189: a change of a field of the status block's contents sets the changed mark. -/
def markChanged (before after : State) : State :=
  if statusBasis before after = statusFields after then after else after.onXu fun x => { x with changed := true }

/-- What every step ends with: a limit event is taken and the changed mark is set (log 9). -/
def settle (before after : State) : State := markChanged before (takeLimit after)

/-- R31, R166: RETRAIN goes to every fitted port. -/
def retrainAll (s : State) : State :=
  allPorts.foldl (fun t p => if t.straps.fitted p then sendRetrain t p else t) s

/-- R31, R124, R160, R166: the part right after power-on or part reset, all blocks standing at their power-on values in `fresh`. RETRAIN
goes out before the break input acts (log 52). -/
def comeUp (fresh : State) : State :=
  let s := retrainAll fresh
  markChanged fresh (if s.pins.breakInput then breakActivated s else s)

end Sys2Proof.Machine
end

