-- ==== Sys2Proof/Machine/Bus.lean ====
section
/-! DEFINITION. What the bus and the ms ticks bring to the Exchange Unit (chapter 11): drains, page takes, posts, samples, copies,
re-reads and failed reads. -/

namespace Sys2Proof.Machine

/-! ## Drain and page take (R139, R184, R185) -/

/-- R185: the head record of the holding queue goes into the filling page, or a page with one free slot is posted for a record
of two. After the write the loss test comes before the post of a full page (log 47). -/
def drainInto (s : State) (page : Page) (rec : Record) (rest : List Record) : State :=
  if page.used + rec.body.slots ≤ Config.pageSlots then postWhenFull (testLoss (writeRecord s page rec rest))
  else beginPost s .full

/-- R139: one drain, and what step 7 makes of it (R165). -/
def drainQueue (s : State) : State :=
  match s.xu.filling, s.ru.queue with
  | some page, rec :: rest => closeoutCheck (drainInto s page rec rest)
  | some _, [] | none, _ => s

/-- R184: a page may be taken. -/
def pageWanted (s : State) : Bool := !s.ru.queue.isEmpty && s.xu.filling.isNone && s.xu.posting.isNone

/-- R184: invalid descriptors are skipped, then a page is taken or the stock found empty. -/
def takeFromStock (s : State) : State :=
  let s1 := skipInvalid (Config.listEntries + 1) s
  if usableCount s1.xu = 0 then stockEmpty s1 else takePage s1

/-! ## The end of a post (R187, R188) -/

/-- R187: the post has succeeded. -/
def postDone (s : State) (p : Posting) : State :=
  wantStatus
    (s.onXu fun x => { x with posting := none, lastPosted := p.page.address, nextPage := x.nextPage + 1 })
    { posted := true, orders := false }

/-- R165, R170: what the end of a post means to close-out. The final post ends it when it was written, or when the records have
been given up; a final post that failed sends step 7 back to its drain. -/
def afterPost (s : State) (written : Bool) : State :=
  if s.cu.phase = .final then
    if written || s.ru.abandoned then endCloseout s
    else closeoutCheck (s.onCu fun c => { c with phase := .drain })
  else closeoutCheck s

def completePost (s : State) : State :=
  match s.xu.posting with
  | none => s
  | some p => afterPost (postDone s p) true

/-- R188: the page being posted fails; a status block write follows a failed post too (R189). -/
def failPost (s : State) (p : Posting) : State :=
  let s1 := abandonPage (s.onXu fun x => { x with posting := none }) p.page.records
  afterPost (wantStatus s1 Owed.none) false

/-- R188: the filling page fails. -/
def failFilling (s : State) (page : Page) : State :=
  closeoutCheck (abandonPage (s.onXu fun x => { x with filling := none }) page.records)

/-- R188: a write to the page in hand is undeliverable. A page to which nothing has been written yet cannot fail. -/
def failPage (s : State) : State :=
  match s.xu.posting, s.xu.filling with
  | some p, _ => failPost s p
  | none, some page => if page.records.isEmpty then s else failFilling s page
  | none, none => s

/-! ## Samples, copies, re-reads (R181 to R183) -/

/-- R182: the batch copy is started for the generation and count a sample read. -/
def startCopy (s : State) (generation count : Word) : State :=
  (s.onXu fun x => { x with copy := some { generation := generation, count := count, waited := 0 } }).emit
    (.busRead (exchangeAt s 0x040) 512)

/-- R167, R181, R182: a new generation is to be copied. -/
def copyWanted (s : State) (generation : Word) : Bool :=
  s.cu.state != .off && generation != s.xu.taken && s.cu.batch.isNone && s.xu.copy.isNone && !resultsUnwritten s.xu

/-- R183: the stock list is re-read for the written count a sample read. -/
def startReread (s : State) (written : Word) : State :=
  (s.onXu fun x => { x with reread := some { written := written, waited := 0 } }).emit (.busRead (exchangeAt s 0x410) 256)

/-- R181, R183: a changed written count is to be followed up. -/
def rereadWanted (s : State) (written : Word) : Bool :=
  s.cu.state != .off && written != s.xu.seenWritten && s.xu.reread.isNone

/-- R181: the reads of a sample have completed. The batch copy is read before the stock, and a repeat sample is read after both (log 44). -/
def completeSample (s : State) (generation count written : Word) : State :=
  if s.xu.sample.isSome then
    let s1 := if copyWanted s generation then startCopy s generation count else s
    endSample (if rereadWanted s written then startReread s1 written else s1)
  else s

/-- R167, R182: the batch copy has completed. The part takes no new batch in OFF (log 11). -/
def completeCopy (s : State) (entries : OrderListBytes) : State :=
  match s.xu.copy with
  | none => s
  | some c =>
    let s1 := s.onXu fun x => { x with copy := none }
    if s.cu.state = .off then s1 else handBatch s1 c.generation c.count entries

/-- R183: the copies of the 16 descriptors. -/
def allDescriptors (bytes : StockBytes) : Vector Descriptor 16 := Vector.ofFn fun i => descriptorAt bytes i.val

/-- R183: the copies after a re-read; the current descriptor stays while pages of it are being taken. -/
def newDescriptors (x : ExchangeUnit) (bytes : StockBytes) : Vector Descriptor 16 :=
  if x.pagesTaken = 0 then allDescriptors bytes
  else (allDescriptors bytes).set (cursorIndex x).val (cursorDescriptor x)

/-- R183: the re-read has completed; an invalid available count is reported once. -/
def completeReread (s : State) (bytes : StockBytes) : State :=
  match s.xu.reread with
  | none => s
  | some r =>
    let s1 := s.onXu fun x =>
      { x with reread := none, seenWritten := r.written, descriptors := newDescriptors x bytes }
    if availableCount s1.xu ≤ Config.listEntries then s1.onXu fun x => { x with invalidLatch := false }
    else if s1.xu.invalidLatch then s1
    else captureFault (s1.onXu fun x => { x with invalidLatch := true }) .stockInvalid

/-! ## Failed reads (R149, R180, R181, R188, R190) -/

/-- R180: the ms ticks a read has been in flight, or none when it is not. -/
def readWaited (s : State) : ReadKind → Option Nat
  | .sample => s.xu.sample
  | .batchCopy => s.xu.copy.map BatchCopy.waited
  | .stockReread => s.xu.reread.map Reread.waited
  | .recipeLoad => s.rs.load.map Load.waited
  | .postCompletion => s.xu.posting.map Posting.waited
  | .statusCompletion => s.xu.statusWrite.map StatusWrite.waited

/-- R149: a load has failed. MEMORY_READ is reported before its order ends, and so before the status block write of a batch it was the
last order of (log 54). -/
def failLoad (s : State) : State :=
  endOrder (captureFault (s.onRs fun r => { r with load := none }) .memoryRead) (plainResult .memoryError)

/-- R180: what the failure of a read does. A failed sample is reported before its repeat goes out (log 44). -/
def failRead (s : State) : ReadKind → State
  | .sample => endSample (captureFault s .memoryRead)
  | .batchCopy => captureFault (s.onXu fun x => { x with copy := none }) .memoryRead
  | .stockReread => captureFault (s.onXu fun x => { x with reread := none }) .memoryRead
  | .recipeLoad => failLoad s
  | .postCompletion =>
    match s.xu.posting with
    | none => s
    | some p => failPost s p
  | .statusCompletion => failStatus s

/-! ## Ticks (R22, R181, R186) -/

/-- R181, R189: the poll-tick sample, and the status block write of a poll tick after it (log 44). -/
def pollTick (s : State) : State :=
  if s.cu.state ≠ .off ∧ s.xu.pollDue then
    let s1 := startSample (s.onXu fun x => { x with pollCount := 0, pollDue := false })
    if s.xu.changed then wantStatus s1 Owed.none else s1
  else s

/-- R186: the age count of the filling page has reached the post age. -/
def ageReached (s : State) : Bool :=
  match s.shared, s.xu.filling with
  | some sp, some page => !page.records.isEmpty && decide (sp.postAge ≤ page.age)
  | some _, none | none, some _ | none, none => false

def agePost (s : State) : State := if ageReached s then beginPost s .age else s

/-- R22: the stall count has reached the stall time. -/
def stallReached (s : State) : Bool :=
  match s.shared with
  | none => false
  | some sp => s.cu.state != .off && !s.mu.stallRaised && decide (sp.stallTime ≤ s.mu.stallCount)

/-- R22, R186: the stall event. -/
def stallEvent (s : State) : State :=
  if stallReached s then beginPost (s.onMu fun m => { m with stallRaised := true }) .stall else s

end Sys2Proof.Machine
end

