-- ==== Sys2Proof/Machine/Clock.lean ====
section
/-! DEFINITION. One cycle of the 25 MHz reference clock (R1): the µs counter, the ms tick, and every count that runs on them.
`step` takes one when no command waits (log 4). What a count makes due is done by its own command. -/

namespace Sys2Proof.Machine

/-- R2: a running hold is one cycle older. -/
def Phase.age (p : Phase) : Phase := { p with hold := p.hold.map (· + 1) }

/-- R181: the poll count at a ms tick; the tick that finds it at or beyond the interval is a poll tick. -/
def countPoll (s : State) : State :=
  if s.cu.state = .off then s
  else
    s.onXu fun x =>
      { x with
        pollCount := x.pollCount + 1
        pollDue := x.pollDue || decide (x.pollInterval.toNat ≤ x.pollCount + 1) }

/-- R22: the stall count at a ms tick. -/
def countStall (s : State) : State :=
  if s.cu.state = .off ∨ s.rs.shared.isNone ∨ s.mu.stallRaised then s
  else s.onMu fun m => { m with stallCount := m.stallCount + 1 }

/-- R185: the age of a page that holds a record. -/
def Page.older (p : Page) : Page := if p.records.isEmpty then p else { p with age := p.age + 1 }

/-- R180: the ms ticks every read in flight has waited. -/
def countReads (s : State) : State :=
  (s.onXu fun x =>
    { x with
      filling := x.filling.map Page.older
      sample := x.sample.map (· + 1)
      copy := x.copy.map fun c => { c with waited := c.waited + 1 }
      reread := x.reread.map fun r => { r with waited := r.waited + 1 }
      posting := x.posting.map fun p => { p with waited := p.waited + 1 }
      statusWrite := x.statusWrite.map fun w => { w with waited := w.waited + 1 } }).onRs fun r =>
    { r with load := r.load.map fun l => { l with waited := l.waited + 1 } }

/-- R1: a ms tick. -/
def msTick (s : State) : State := countReads (countStall (countPoll s))

/-- R1: the µs counter advances, and every 1,000 of its steps bring a ms tick. -/
def countMicrosecond (s : State) : State :=
  let s1 := s.onMu fun m => { m with us := m.us + 1 }
  if s.mu.msPhase + 1 < Config.microsecondsPerTick then s1.onMu fun m => { m with msPhase := m.msPhase + 1 }
  else msTick (s1.onMu fun m => { m with msPhase := 0 })

/-- R1: one reference cycle. -/
def tick (s : State) : State :=
  let s1 := s.onMu fun m => { m with phaseA := m.phaseA.age, phaseB := m.phaseB.age }
  if s.mu.refPhase + 1 < Config.cyclesPerMicrosecond then s1.onMu fun m => { m with refPhase := m.refPhase + 1 }
  else countMicrosecond (s1.onMu fun m => { m with refPhase := 0 })

end Sys2Proof.Machine
end

