-- ==== Sys2Proof/Machine/Items.lean ====
section
/-! DEFINITION. The commands by which items of the face streams are taken (R57, R79, R93, R94, R96) and by which close-out begins
(R164). -/

namespace Sys2Proof.Machine

/-- The item at the head of those handed on leaves them. -/
def popHanded (s : State) (f : Face) : State := s.onRxFace f fun r => { r with handed := r.handed.tail }

/-- The face part an item was processed under (R44). -/
def Handed.facePart (h : Handed) : FacePart := h.part.getD FacePart.empty

/-- R57: the Run Extractor takes the next item of a face's stream. -/
def execRxTakeItem (face : Face) (s : State) : Host.Outcome State Fault Refusal := .next (settle s (takeItem s face))

/-- R79, R60, R109: a line item, from the Track Engine through the Pairing Unit. -/
def takeLineItem (s : State) (f : Face) : State :=
  match (s.rxFace f).handed with
  | [] => s
  | h :: _ =>
    match h.kind with
    | .line item => processLine (popHanded s f) f h.facePart item
    | .patchEnd _ _ | .patchStart _ | .spliceClosure => s

def execTeLineItem (face : Face) (s : State) : Host.Outcome State Fault Refusal := .next (settle s (takeLineItem s face))

/-- R17, R93, R113, R162: a patch-end item; one that finishes the face brings the finish notice. -/
def takePatchEndItem (s : State) (f : Face) : State :=
  match (s.rxFace f).handed with
  | [] => s
  | h :: _ =>
    match h.kind with
    | .patchEnd item runFull =>
      let s1 := processPatchEnd (popHanded s f) f item runFull h.facePart
      if item.finishing then finishNotice s1 f else s1
    | .line _ | .patchStart _ | .spliceClosure => s

def execTePatchEndItem (face : Face) (s : State) : Host.Outcome State Fault Refusal :=
  .next (settle s (takePatchEndItem s face))

/-- R17, R94, R126: a patch-start item. -/
def takePatchStartItem (s : State) (f : Face) : State :=
  match (s.rxFace f).handed with
  | [] => s
  | h :: _ =>
    match h.kind with
    | .patchStart item => processPatchStart (popHanded s f) f item
    | .line _ | .patchEnd _ _ | .spliceClosure => s

def execTePatchStartItem (face : Face) (s : State) : Host.Outcome State Fault Refusal :=
  .next (settle s (takePatchStartItem s face))

/-- R68, R96: a splice closure item. -/
def takeSpliceItem (s : State) (f : Face) : State :=
  match (s.rxFace f).handed with
  | [] => s
  | h :: _ =>
    match h.kind with
    | .spliceClosure => processSplice (popHanded s f) f
    | .line _ | .patchEnd _ _ | .patchStart _ => s

def execTeSpliceClosureItem (face : Face) (s : State) : Host.Outcome State Fault Refusal :=
  .next (settle s (takeSpliceItem s face))

/-- R164: close-out steps 1 to 6 begin. -/
def execCloseoutBegin (s : State) : Host.Outcome State Fault Refusal := .next (settle s (beginCloseout s))

end Sys2Proof.Machine
end

