-- ==== Sys2Proof/Machine/Links.lean ====
section
/-! DEFINITION. The commands of the scan links (R29, R32, R36). -/

namespace Sys2Proof.Machine

/-- R29: a HELLO arrives on a port. -/
def execHelloReceived (port : Port) (packet : Packet) (s : State) : Host.Outcome State Fault Refusal :=
  .next (settle s (receiveHello s port packet))

/-- R32: a packet other than a HELLO arrives on a port. -/
def execLinePacketReceived (port : Port) (packet : Packet) (s : State) : Host.Outcome State Fault Refusal :=
  .next (settle s (receiveLine s port packet))

/-- R36: the line deadline of the oldest unassembled line of a face has passed. -/
def execLineDeadlineExpiry (face : Face) (s : State) : Host.Outcome State Fault Refusal :=
  .next (settle s (assembleOverdue (openLines (s.luFace face).stream).length s face))

end Sys2Proof.Machine
end

