-- ==== Sys2Proof/Machine/Orders.lean ====
section
/-! DEFINITION. The orders of a batch (R148, R168 to R177) and the end of a recipe load (R150, R153). -/

namespace Sys2Proof.Machine

/-- R168. -/
def execStart (rollId s0 : Word) (s : State) : Host.Outcome State Fault Refusal :=
  .next (settle s (executeOrder s (.start rollId s0) fun t => orderStart t rollId s0.toInt))

/-- R169. -/
def execStop (s : State) : Host.Outcome State Fault Refusal := .next (settle s (executeOrder s .stop orderStop))

/-- R170. -/
def execHalt (s : State) : Host.Outcome State Fault Refusal := .next (settle s (executeOrder s .halt orderHalt))

/-- R148, R171: the order ends at once when it is refused; otherwise its load begins and the batch waits. -/
def execRecipe (slot : Word) (s : State) : Host.Outcome State Fault Refusal :=
  .next
    (settle s
      (if orderDue s = some (.recipe slot) then
        match recipeRefused s slot with
        | some code => endOrder s (plainResult code)
        | none => beginLoad s (slot.setWidth 2)
      else s))

/-- R148, R150, R153: the read of a load completes: the copy is filled, judged and discarded. -/
def execRecipeLoadComplete (slot : SlotBytes) (s : State) : Host.Outcome State Fault Refusal :=
  .next
    (settle s
      (match (fillLoad s slot.toList).rs.load with
      | none => s
      | some load =>
        let r := judgeRecipe (s.onRs fun r => { r with load := none }) load.slot load.copy
        endOrder r.1 r.2))

/-- R172. -/
def execFlush (s : State) : Host.Outcome State Fault Refusal := .next (settle s (executeOrder s .flush orderFlush))

/-- R173. -/
def execNote (value : BitVec 64) (s : State) : Host.Outcome State Fault Refusal :=
  .next (settle s (executeOrder s (.note value) fun t => orderNote t value))

/-- R174. -/
def execMarkon (s : State) : Host.Outcome State Fault Refusal := .next (settle s (executeOrder s .markon orderMarkon))

/-- R175. -/
def execClear (s : State) : Host.Outcome State Fault Refusal := .next (settle s (executeOrder s .clear orderClear))

/-- R176. -/
def execLevels (levels : Vector Byte 8) (s : State) : Host.Outcome State Fault Refusal :=
  .next (settle s (executeOrder s (.levels levels) fun t => orderLevels t levels))

/-- R177. -/
def execHeadreset (head : Word) (s : State) : Host.Outcome State Fault Refusal :=
  .next (settle s (executeOrder s (.headreset head) fun t => orderHeadreset t head))

/-- R167: an entry whose code names no order. -/
def execUnknownOrder (code : Byte) (s : State) : Host.Outcome State Fault Refusal :=
  .next (settle s (executeOrder s (.unknownOrder code) fun t => (t, plainResult .unknownOrder)))

end Sys2Proof.Machine
end

