-- ==== Sys2Proof/Machine/Pages.lean ====
section
/-! DEFINITION. The commands of the holding queue, of pages and of the status block (R139, R184, R187 to R190). -/

namespace Sys2Proof.Machine

/-- R139, R185: the head record drains into the filling page. -/
def execHoldingQueueDrain (s : State) : Host.Outcome State Fault Refusal := .next (settle s (drainQueue s))

/-- R184: a page is taken from stock. -/
def execPageTake (s : State) : Host.Outcome State Fault Refusal :=
  .next (settle s (if pageWanted s then takeFromStock s else s))

/-- R187: the completion read of a post succeeds. -/
def execPostComplete (s : State) : Host.Outcome State Fault Refusal := .next (settle s (completePost s))

/-- R188: a page fails. -/
def execPageWriteFailure (s : State) : Host.Outcome State Fault Refusal := .next (settle s (failPage s))

/-- R189: the completion read of a status block write succeeds. -/
def execStatusWriteComplete (s : State) : Host.Outcome State Fault Refusal := .next (settle s (endStatus s))

/-- R190: a status block write fails. -/
def execStatusWriteFailure (s : State) : Host.Outcome State Fault Refusal := .next (settle s (failStatus s))

end Sys2Proof.Machine
end

