-- ==== Sys2Proof/Machine/Registers.lean ====
section
/-! DEFINITION. The commands of power-on, part reset and the register window (R166, R178, R179, R192, R194). -/

namespace Sys2Proof.Machine

/-- R160 to R192, the tables of every chapter: power-on. The straps are latched and the inputs and the host's message
configuration stand as they are; commands still wait and what was sent stays sent. -/
def execPowerOn (straps : Straps) (s : State) : Host.Outcome State Fault Refusal :=
  .next
    (comeUp
      { State.powerOn straps s.pins s.xu.message with pending := s.pending, out := s.out, free := s.free })

/-- R166: part reset. XBASE is kept and the straps are not latched again. -/
def execPartReset (s : State) : Host.Outcome State Fault Refusal :=
  let fresh := State.powerOn s.straps s.pins s.xu.message
  .next
    (comeUp
      { fresh with
        pending := s.pending
        out := s.out
        free := s.free
        xu := { fresh.xu with xbase := s.xu.xbase } })

/-- R161, R181: OFF is left for IDLE when ENABLE is 1 and XBASE is not 0, with a first sample at once. The sample's reads go out before the
status block write (log 44). -/
def enterIdle (s : State) : State :=
  if s.cu.state = .off ∧ s.xu.enable ∧ s.xu.xbase ≠ 0 then
    wantStatus (startSample (s.onCu fun c => { c with state := .idle })) Owed.none
  else s

/-- R178: XBASE with one half replaced. The low 12 bits stay 0. -/
def replaceXbase (xbase : BitVec 64) (half : XbaseHalf) (value : Word) : BitVec 64 :=
  match half with
  | .lo => (xbase &&& 0xFFFFFFFF00000000#64) ||| (value &&& 0xFFFFF000#32).setWidth 64
  | .hi => (xbase &&& 0x00000000FFFFFFFF#64) ||| (value.setWidth 64 <<< 32)

/-- R178: a write to XBASE_LO or XBASE_HI, taken in OFF alone. -/
def execXbaseWrite (half : XbaseHalf) (value : Word) (s : State) : Host.Outcome State Fault Refusal :=
  .next
    (settle s
      (if s.cu.state = .off then enterIdle (s.onXu fun x => { x with xbase := replaceXbase x.xbase half value })
      else s))

/-- R161, R179: PCTL.ENABLE written as 1. -/
def execEnableSet (s : State) : Host.Outcome State Fault Refusal :=
  .next (settle s (enterIdle (s.onXu fun x => { x with enable := true })))

/-- R161: the move to OFF; the poll count stands at 0 there (R181). -/
def goOff (s : State) : State :=
  wantStatus
    ((s.onCu fun c => { c with state := .off }).onXu fun x => { x with pollCount := 0, pollDue := false }) Owed.none

/-- R161, R163: PCTL.ENABLE written as 0. -/
def execEnableClear (s : State) : Host.Outcome State Fault Refusal :=
  let s1 := s.onXu fun x => { x with enable := false }
  .next
    (settle s
      (match s.cu.state with
      | .idle => goOff s1
      | .running | .stopping => enterClosing s1 .halt
      | .closing | .off => s1))

/-- R179: the poll interval; 0 leaves it unchanged. -/
def execPollIntervalWrite (value : Byte) (s : State) : Host.Outcome State Fault Refusal :=
  .next (settle s (if value = 0 then s else s.onXu fun x => { x with pollInterval := value }))

/-- R192: a write to ATTN. -/
def execAttnWrite (value : Word) (s : State) : Host.Outcome State Fault Refusal :=
  .next (settle s (clearFlags s (value.setWidth 8)))

/-- R194: a write to IDENT or to an offset where no register lies. -/
def execRegisterWriteIgnored (_offset : BitVec 5) (_value : Word) (s : State) : Host.Outcome State Fault Refusal :=
  .next (settle s s)

/-- R179, R194: the commands a write to PCTL is. One that sets RESET is a reset alone; any other gives the poll interval and ENABLE
(log 24). -/
def pctlCommands (value : Word) : List Instr :=
  if value.getLsbD 1 then [.partReset]
  else [.pollIntervalWrite (value.extractLsb' 8 8), if value.getLsbD 0 then .enableSet else .enableClear]

/-- R194: the commands a host write of a word at an offset of the window is. At an offset that is not a multiple of 4 it is a write of the
whole word to the register the offset falls in (log 55). -/
def writeCommands (offset : BitVec 5) (value : Word) : List Instr :=
  match offset.toNat / 4 with
  | 0 => [.xbaseWrite .lo value]
  | 1 => [.xbaseWrite .hi value]
  | 2 => pctlCommands value
  | 3 => [.attnWrite value]
  | _ => [.registerWriteIgnored offset value]

/-- The host writes a word at an offset of the window: its commands join the queue. -/
def State.hostWrite (s : State) (offset : BitVec 5) (value : Word) : State :=
  { s with pending := s.pending ++ writeCommands offset value }

end Sys2Proof.Machine
end

