-- ==== Sys2Proof/Machine/Sampling.lean ====
section
/-! DEFINITION. The commands of ms ticks that have come due, and of bus reads (R22, R180 to R183, R186). -/

namespace Sys2Proof.Machine

/-- R181: a poll tick. -/
def execPollTick (s : State) : Host.Outcome State Fault Refusal := .next (settle s (pollTick s))

/-- R186: the post age has been reached. -/
def execPageAgeExpiry (s : State) : Host.Outcome State Fault Refusal := .next (settle s (agePost s))

/-- R22: the stall time has been reached. -/
def execStallExpiry (s : State) : Host.Outcome State Fault Refusal := .next (settle s (stallEvent s))

/-- R180: a read has had no completion by the second ms tick after it was issued. -/
def execReadTimeout (read : ReadKind) (s : State) : Host.Outcome State Fault Refusal :=
  .next
    (settle s
      (match readWaited s read with
      | none => s
      | some waited => if Config.readTimeoutTicks ≤ waited then failRead s read else s))

/-- R180: a read's completion reports an error. -/
def execReadErrorCompletion (read : ReadKind) (s : State) : Host.Outcome State Fault Refusal :=
  .next (settle s (if (readWaited s read).isSome then failRead s read else s))

/-- R181: the reads of a sample complete with the bytes found. -/
def execSampleReadComplete (generation count written : FieldBytes) (s : State) : Host.Outcome State Fault Refusal :=
  let orders := sampleOrders generation count
  .next (settle s (completeSample s (sampleGeneration orders) (sampleCount orders) (sampleWritten written.toList)))

/-- R182: the batch copy completes. -/
def execBatchCopyComplete (entries : OrderListBytes) (s : State) : Host.Outcome State Fault Refusal :=
  .next (settle s (completeCopy s entries))

/-- R183: the stock re-read completes. -/
def execStockRereadComplete (descriptors : StockBytes) (s : State) : Host.Outcome State Fault Refusal :=
  .next (settle s (completeReread s descriptors))

end Sys2Proof.Machine
end

