-- ==== Sys2Proof/Machine/Web.lean ====
section
/-! DEFINITION. The commands of the encoder and of the break input (R2 to R5, R124). -/

namespace Sys2Proof.Machine

/-- R2, R3: a raw change of the encoder inputs, with the sensor levels that stand at it. -/
def execEncoderRawChange (a b : Bool) (sensors : Sensors) (s : State) : Host.Outcome State Fault Refusal :=
  .next (settle s (rawChange s a b sensors))

/-- R2, R3: held raw levels become accepted levels. -/
def execEncoderHoldExpiry (phases : Phases) (sensors : Sensors) (s : State) : Host.Outcome State Fault Refusal :=
  .next (settle s (holdExpiry s phases sensors))

/-- R124: the break input goes active. With the input already active there is no change. -/
def execBreakInputActive (s : State) : Host.Outcome State Fault Refusal :=
  .next
    (settle s
      (if s.pins.breakInput then s else breakActivated (s.onPins fun p => { p with breakInput := true })))

/-- R124: the break input goes inactive; the flag and the outputs stay. -/
def execBreakInputInactive (s : State) : Host.Outcome State Fault Refusal :=
  .next (settle s (s.onPins fun p => { p with breakInput := false }))

end Sys2Proof.Machine
end

