-- ==== Sys2Proof/Machine/Dispatch.lean ====
section
/-! DEFINITION. One arm per command of the table: the meaning it calls. -/

namespace Sys2Proof.Machine

/-- The effect of a command on everything but the queue. -/
def exec (i : Instr) (s : State) : Host.Outcome State Fault Refusal :=
  match i with
  | .powerOn straps => Sys2Proof.Machine.execPowerOn straps s
  | .partReset => Sys2Proof.Machine.execPartReset s
  | .xbaseWrite half value => Sys2Proof.Machine.execXbaseWrite half value s
  | .enableSet => Sys2Proof.Machine.execEnableSet s
  | .enableClear => Sys2Proof.Machine.execEnableClear s
  | .pollIntervalWrite value => Sys2Proof.Machine.execPollIntervalWrite value s
  | .attnWrite value => Sys2Proof.Machine.execAttnWrite value s
  | .registerWriteIgnored offset value => Sys2Proof.Machine.execRegisterWriteIgnored offset value s
  | .encoderRawChange a b sensors => Sys2Proof.Machine.execEncoderRawChange a b sensors s
  | .encoderHoldExpiry phases sensors => Sys2Proof.Machine.execEncoderHoldExpiry phases sensors s
  | .breakInputActive => Sys2Proof.Machine.execBreakInputActive s
  | .breakInputInactive => Sys2Proof.Machine.execBreakInputInactive s
  | .helloReceived port packet => Sys2Proof.Machine.execHelloReceived port packet s
  | .linePacketReceived port packet => Sys2Proof.Machine.execLinePacketReceived port packet s
  | .lineDeadlineExpiry face => Sys2Proof.Machine.execLineDeadlineExpiry face s
  | .rxTakeItem face => Sys2Proof.Machine.execRxTakeItem face s
  | .teLineItem face => Sys2Proof.Machine.execTeLineItem face s
  | .tePatchEndItem face => Sys2Proof.Machine.execTePatchEndItem face s
  | .tePatchStartItem face => Sys2Proof.Machine.execTePatchStartItem face s
  | .teSpliceClosureItem face => Sys2Proof.Machine.execTeSpliceClosureItem face s
  | .holdingQueueDrain => Sys2Proof.Machine.execHoldingQueueDrain s
  | .pageTake => Sys2Proof.Machine.execPageTake s
  | .postComplete => Sys2Proof.Machine.execPostComplete s
  | .pageWriteFailure => Sys2Proof.Machine.execPageWriteFailure s
  | .statusWriteComplete => Sys2Proof.Machine.execStatusWriteComplete s
  | .statusWriteFailure => Sys2Proof.Machine.execStatusWriteFailure s
  | .pollTick => Sys2Proof.Machine.execPollTick s
  | .pageAgeExpiry => Sys2Proof.Machine.execPageAgeExpiry s
  | .stallExpiry => Sys2Proof.Machine.execStallExpiry s
  | .readTimeout read => Sys2Proof.Machine.execReadTimeout read s
  | .readErrorCompletion read => Sys2Proof.Machine.execReadErrorCompletion read s
  | .sampleReadComplete generation count written => Sys2Proof.Machine.execSampleReadComplete generation count written s
  | .batchCopyComplete entries => Sys2Proof.Machine.execBatchCopyComplete entries s
  | .stockRereadComplete descriptors => Sys2Proof.Machine.execStockRereadComplete descriptors s
  | .start rollId s0 => Sys2Proof.Machine.execStart rollId s0 s
  | .stop => Sys2Proof.Machine.execStop s
  | .halt => Sys2Proof.Machine.execHalt s
  | .recipe slot => Sys2Proof.Machine.execRecipe slot s
  | .recipeLoadComplete slot => Sys2Proof.Machine.execRecipeLoadComplete slot s
  | .flush => Sys2Proof.Machine.execFlush s
  | .note value => Sys2Proof.Machine.execNote value s
  | .markon => Sys2Proof.Machine.execMarkon s
  | .clear => Sys2Proof.Machine.execClear s
  | .levels levels => Sys2Proof.Machine.execLevels levels s
  | .headreset head => Sys2Proof.Machine.execHeadreset head s
  | .unknownOrder code => Sys2Proof.Machine.execUnknownOrder code s
  | .closeoutBegin => Sys2Proof.Machine.execCloseoutBegin s

end Sys2Proof.Machine
end

