-- ==== Sys2Proof/Machine/Step.lean ====
section
/-! DEFINITION. One step of the part: the command at the front of the queue, or one reference cycle when none waits. -/

namespace Sys2Proof.Machine

/-- The command at the front of the queue is taken and its effect answered. With an empty queue the clock runs on by one
reference cycle (log 4). -/
def step (s : State) : Host.Outcome State Fault Refusal :=
  match s.pending with
  | [] => .next (tick s)
  | c :: rest => exec c { s with pending := rest }

/-- The state with the command a table word spells put at the front of its queue. The table gives its rows no bits, so no word
spells a command and the state is unchanged. -/
def State.withFetchWord (s : State) (nbits w : Nat) : State :=
  match decodeTableWord nbits w with
  | none => s
  | some c => { s with pending := c :: s.pending }

end Sys2Proof.Machine
end

