-- ==== Sys2Proof/Safety.lean ====
section
/-! DEFINITION. What counts as a safe run, the limits the manual sets to what each block holds, and the frame relations claims
are stated in. -/

namespace Sys2Proof.Machine

/-! ## Runs -/

/-- A step that stops: it answers no next state. -/
def Stops (s : State) : Prop := ∀ t, step s ≠ .next t

/-- A run is safe for `k` steps when none of them stops. -/
def Safe : Nat → State → Prop
  | 0, _ => True
  | k + 1, s => ∃ t, step s = .next t ∧ Safe k t

/-! ## Limits (R3, R4, R10, R20, R32, R102, R107, R110, R120, R138, R185, R187) -/

/-- R3, R4, R10, R20: P within its bounds and never above H, and the queues of edges and of splices within theirs. -/
def MotionOk (m : MotionUnit) : Prop :=
  -Config.positionLimit ≤ m.p ∧ m.p ≤ m.h ∧ m.h ≤ Config.positionLimit ∧
    (∀ f, (m.faces.get f).edges.length ≤ Config.edgeQueueSize) ∧ m.splices.length ≤ Config.spliceQueueSize

/-- R32: no head holds packets in more than two line buffers. -/
def LinksOk (l : LinkUnit) : Prop := ∀ p : Port, l.heads[p].buffers.length ≤ Config.lineBuffers

/-- R27, R28: every head an unassembled line of a face waits for is entered for that face, and stands in its expected set once. -/
def HeadsEntered (s : State) : Prop :=
  ∀ f, ∀ line ∈ openLines (s.luFace f).stream,
    line.expected.Nodup ∧ ∀ p ∈ line.expected, ∃ e, s.entry p = some e ∧ e.face = f

/-- R27, R42, R163: the heads waited for are entered for their faces, lines stand unassembled in RUNNING and STOPPING alone, and close-out
has no phase there. -/
def LinesOk (s : State) : Prop :=
  HeadsEntered s ∧ (s.inspecting = false → ∀ f, openLines (s.luFace f).stream = []) ∧
    (s.inspecting = true → s.cu.phase = .notClosing)

/-- R107, R110: the pairing list within its size and ordered by due stamp, the doubt logs within theirs. -/
def PairingOk (p : PairingUnit) : Prop :=
  p.list.length ≤ Config.pairingListSize ∧ p.list.Pairwise (fun a b => a.due ≤ b.due) ∧
    ∀ f, (p.faces.get f).log.length ≤ Config.doubtLogSize

/-- R120: the mark queue within its size and in non-decreasing fire position. -/
def MarksOk (k : MarkUnit) : Prop :=
  k.queue.length ≤ Config.markQueueSize ∧ k.queue.Pairwise fun a b => a.fire ≤ b.fire

/-- R141, R142: the runs of the loss tally within their list, in sequence order, each with its own place in the order of entry. -/
def RunsOk (runs : List LossRun) : Prop :=
  runs.length ≤ Config.lossRuns ∧ runs.Pairwise (fun a b => a.first ≤ b.first) ∧ (runs.map LossRun.entered).Nodup

/-- R130, R138, R141: the holding queue within its slots, its records in increasing sequence, all of them given already; the loss tally's
runs as `RunsOk` says. -/
def HoldingOk (r : RecordUnit) : Prop :=
  slotsOf r.queue ≤ Config.holdingSlots ∧ (r.queue.map Record.seq).Pairwise (· < ·) ∧
    (∀ x ∈ r.queue, x.seq < r.nextSeq) ∧ RunsOk r.runs

/-- R185: a page's slots are those of its records and no more than it has. -/
def Page.ok (p : Page) : Prop := p.used = slotsOf p.records ∧ p.used ≤ Config.pageSlots

/-- R185, R187: the page in hand is sound, and no page is filling while a post is in progress. -/
def PagesOk (x : ExchangeUnit) : Prop :=
  (∀ p, x.filling = some p → p.ok) ∧ (∀ p, x.posting = some p → p.page.ok ∧ x.filling = none)

/-- Whether a table entry holds a track that has a streak number, CONFIRMED or FADING. -/
def numbered (t : Option Track) : Bool :=
  match t with
  | none => false
  | some x => x.state != .tentative

/-- R102: the open streak count of a face is the number of its tracks in CONFIRMED or FADING. -/
def StreaksOk (e : TeFace) : Prop := e.openStreaks = e.tracks.toList.countP numbered

/-- Between two steps no limit event waits, and a further status block write is wanted only while one is in progress (R163, R189). -/
def Quiescent (s : State) : Prop :=
  s.cu.limitEvent = false ∧ (s.xu.statusWanted = none ∨ s.xu.statusWrite.isSome)

/-! ## Frames -/

/-- The Motion Unit, the Link Unit and the Run Extractor are unchanged. -/
def SameWeb (s t : State) : Prop := t.mu = s.mu ∧ t.lu = s.lu ∧ t.rx = s.rx

/-- The Track Engine, the Spot Merger and the Pairing Unit are unchanged. -/
def SameDefects (s t : State) : Prop := t.te = s.te ∧ t.sm = s.sm ∧ t.pu = s.pu

/-- What taking a record, asking for a mark or raising a cause leaves alone: all but the Mark Unit, the Record Unit, the Control
Unit, the Exchange Unit, what was sent and the counter of used free values. -/
def OnlyReporting (s t : State) : Prop :=
  t.pending = s.pending ∧ t.straps = s.straps ∧ t.pins = s.pins ∧ SameWeb s t ∧ SameDefects s t ∧ t.rs = s.rs

/-- `t` is `u`, but that the changed mark of the status block may have been set, as every step may end (R189). -/
def OnlyStatus (u t : State) : Prop := t = u ∨ t = { u with xu := { u.xu with changed := true } }

/-- R35: `v` is `u` once the complete lines of a face have been assembled: none, as long as its oldest unassembled line is not complete,
else that line and then, in the same way, those after it. -/
inductive ReadyAssembled (f : Face) : State → State → Prop where
  | waits (u : State) (h : ∀ x ∈ (openLines (u.luFace f).stream).head?, lineComplete u x = false) : ReadyAssembled f u u
  | assembles (u v : State) (line : OpenLine) (later : List OpenLine) (h : openLines (u.luFace f).stream = line :: later)
      (complete : lineComplete u line = true) (rest : ReadyAssembled f (assembleLine u f line) v) : ReadyAssembled f u v

/-- R30, R34: the lines of a face with these numbers carry the mark that head `p` is given up in them. -/
def givenUpIn (s : State) (f : Face) (p : Port) (numbers : List Nat) : State :=
  { s with
    lu :=
      { s.lu with
        faces :=
          s.lu.faces.set f
            { s.luFace f with
              stream :=
                (s.luFace f).stream.map fun item =>
                  match item with
                  | .opened line =>
                    .opened (if line.desc.number ∈ numbers then { line with givenUp := line.givenUp ++ [p] } else line)
                  | .patchEnd _ | .patchStart _ | .spliceClosure | .skipped _ | .line _ => item } } }

/-- R182: the status block write after a batch owes ORDERS; R187: the one after a post owes POSTED. -/
def owesOrders : Owed := { posted := false, orders := true }
def owesPosted : Owed := { posted := true, orders := false }

/-- R167: an order has left the part at `u`, and `t` is `u` with its result noted: the batch goes on with its next entry, or it has
ended, its generation and results stand for the status block, and the write that owes ORDERS has been asked for. -/
def OrderEnded (u : State) (result : OrderResult) (t : State) : Prop :=
  match u.cu.batch with
  | none => False
  | some b =>
    if b.next + 1 < b.count then
      OnlyStatus
        { u with
          cu :=
            { u.cu with
              batch := some { b with next := b.next + 1, results := b.results.setIfInBounds b.next result } } } t
    else
      let ended : State :=
        { u with
          cu := { u.cu with batch := none }
          xu := { u.xu with taken := b.generation, results := b.results.setIfInBounds b.next result } }
      OnlyStatus (wantStatus ended owesOrders) t

/-- R167: the result of the order `b` stood at is noted in `t`, in the batch that goes on or among the results of the ended one. -/
def ResultNoted (b : Batch) (result : OrderResult) (t : State) : Prop :=
  if b.next + 1 < b.count then
    t.cu.batch = some { b with next := b.next + 1, results := b.results.setIfInBounds b.next result }
  else
    t.cu.batch = none ∧ t.xu.taken = b.generation ∧ t.xu.results = b.results.setIfInBounds b.next result

/-! ## Shapes of next states -/

/-- R123, R124: an output once its pulse has been cut, and how many cuts that counts. -/
def cutPulse : OutState → OutState
  | .active _ => .idle
  | .idle => .idle
  | .forced => .forced

def cutsOf (a b : OutState) : Nat := (if a = cutPulse a then 0 else 1) + if b = cutPulse b then 0 else 1

/-- R128: the cut counter after so many cuts. -/
def MarkCounters.withCuts (c : MarkCounters) (cuts : Nat) : MarkCounters :=
  if cuts = 0 then c else { c with cut := satAdd max32 c.cut cuts }

/-- R121: an output once pulses that have come to their end at `h` are ended. -/
def endedAt (h : Int) : OutState → OutState
  | .active stop => if stop ≤ h then .idle else .active stop
  | .idle => .idle
  | .forced => .forced

/-- R31, R124, R160, R166: every block of `t` stands at its power-on values with these straps and this XBASE, RETRAIN has gone to
every fitted port, and the break flag follows the break input. Pins, message configuration and waiting commands are those of `s`. -/
def ComesUp (straps : Straps) (xbase : BitVec 64) (s t : State) : Prop :=
  let output := if s.pins.breakInput ∧ straps.twoMarkers then OutState.forced else OutState.idle
  t.pending = s.pending ∧ t.straps = straps ∧ t.pins = s.pins ∧ t.free = s.free ∧ t.mu = MotionUnit.powerOn s.pins ∧
    t.lu = LinkUnit.powerOn straps ∧ t.rx = { upper := RxFace.powerOn, lower := RxFace.powerOn } ∧
    t.te = TrackEngine.powerOn ∧ t.sm = { upper := SmFace.powerOn, lower := SmFace.powerOn } ∧
    t.pu = PairingUnit.powerOn ∧
    t.ku = { MarkUnit.powerOn with a := output, b := output, breakFlag := s.pins.breakInput } ∧
    t.ru = RecordUnit.powerOn ∧ t.rs = RecipeStore.powerOn ∧ t.cu = ControlUnit.powerOn ∧
    t.xu =
      { ExchangeUnit.powerOn xbase s.xu.message with
        flags := if s.pins.breakInput then 0x80#8 else 0
        changed := s.pins.breakInput } ∧
    t.out = s.out ++ (allPorts.filter straps.fitted).map fun p => .link p retrainPacket

/-- R161, R181: the part enters IDLE and its first sample is started, or repeated after the one in progress. -/
def inIdle (s : State) : State :=
  if s.xu.sample.isSome then { s with cu := { s.cu with state := .idle }, xu := { s.xu with resample := true } }
  else
    { s with
      cu := { s.cu with state := .idle }
      xu := { s.xu with sample := some 0 }
      out := s.out ++ [.busRead s.xu.xbase 8, .busRead (s.xu.xbase + 0x400#64) 4] }

/-- R187: the post of a page has begun: its header and then its completion read have gone out. -/
def postBegun (s : State) (page : Page) (reason : PostReason) : State :=
  { s with
    xu := { s.xu with filling := none, posting := some { page := page, reason := reason, waited := 0 } }
    out :=
      s.out ++
        [.busWrite page.address (pageHeader s.xu.nextPage s.cu.rollId page reason s.xu.lastPosted s.mu.h),
          .busRead (page.address + 60#64) 4] }

/-- R161, R165, R189: close-out has ended at `u`: the state is IDLE or OFF as ENABLE stands, with the poll count at 0 in OFF, and a status
block write has been asked for. -/
def closeoutEnded (u : State) : State :=
  wantStatus
    { u with
      cu := { u.cu with state := if u.xu.enable then .idle else .off, phase := .notClosing }
      xu := if u.xu.enable then u.xu else { u.xu with pollCount := 0, pollDue := false } }
    Owed.none

/-- R165, R170: the abandon mark has acted in step 7, from `s` with no post in progress: a page that holds records is being posted as
HALT, and with none close-out has ended. -/
def AbandonEnds (s t : State) : Prop :=
  ((∀ page ∈ s.xu.filling, page.records = []) →
    t.cu.state = (if s.xu.enable then .idle else .off) ∧ t.cu.phase = .notClosing) ∧
    ∀ page, s.xu.filling = some page → page.records ≠ [] →
      t.cu.state = .closing ∧ t.cu.phase = .final ∧ t.xu.filling = none ∧
        t.xu.posting = some { page := page, reason := .halt, waited := 0 }

/-- R2: the encoder filter is 0, and both phases stand accepted at the levels on the inputs, so that a raw change is decoded at once. -/
def EncoderSettled (s : State) : Prop :=
  encoderFilter s = 0 ∧ s.mu.phaseA = { accepted := s.pins.encA, hold := none } ∧
    s.mu.phaseB = { accepted := s.pins.encB, hold := none }

/-- R3, R4, R22: a forward step has taken P and H onto fresh web, with these levels on the inputs; nothing has acted on it yet. -/
def ontoFreshWeb (a b : Bool) (sensors : Sensors) (s : State) : State :=
  { s with
    pins := { s.pins with encA := a, encB := b, sensors := sensors }
    mu :=
      { s.mu with
        phaseA := { accepted := a, hold := none }
        phaseB := { accepted := b, hold := none }
        direction := .forward
        p := s.mu.h + 1
        h := s.mu.h + 1
        stallCount := 0
        stallRaised := false } }

/-- R121: both outputs once pulses that have come to their end at `h` are ended. -/
def MarkUnit.ended (k : MarkUnit) (h : Int) : MarkUnit := { k with a := endedAt h k.a, b := endedAt h k.b }

/-- R163: the roll has entered CLOSING with this reason: no line is unassembled, no edge begun, no skip stretch open and no face
part pending. Tracks, spots, pairing and the mark queue are left to close-out. -/
def EntersClosing (reason : EndReason) (s t : State) : Prop :=
  t.cu.state = .closing ∧ t.cu.endReason = some reason ∧ t.cu.phase = .waiting ∧ t.mu.spliceBegun = none ∧
    (∀ f, openLines (t.luFace f).stream = [] ∧ (t.muFace f).begun = none ∧ (t.muFace f).skip = Tally.empty ∧
      (t.rsFace f).pending = none) ∧
    t.rx = s.rx ∧ SameDefects s t ∧ t.ku = s.ku

/-- No track is active and no spot is open on a face. -/
def TablesFree (s : State) (f : Face) : Prop :=
  (∀ i : Fin 24, (s.teFace f).tracks[i] = none) ∧ ∀ i : Fin 64, (s.smFace f).spots[i] = none

/-- R109: no entry of the pairing list waits for face `f` with a due stamp at or below `through`, so progress of `f` to that stamp
resolves none. -/
def NoneDue (s : State) (f : Face) (through : Int) : Prop :=
  ∀ e ∈ s.pu.list, e.closure.face = otherFace f → through < e.due

end Sys2Proof.Machine
end

