-- ==== Sys2Proof/Certificates/Slice0/Obligations.lean ====
section
/-! DEFINITION. The statements for the provers. A statement of a command's effect has the form: from a state that is between two
steps, `exec` answers a next state `t`, and `t` is the state written out, but that the changed mark of the status block may have been
set (`OnlyStatus`). What the written-out state does not change is the command's frame, and what has been sent out is part of it.
A command that asks for a status block write says so by `wantStatus`, which `StatusBlockWritten` states; that the write begins at its
trigger, within the step, rests on log 9, and what happens with XBASE at 0 on log 12. The end of a batch (`OrderEnded`) asks for one
in the same way.

An order's result other than REFUSED_RECIPE carries check code and field offset 0 (log 48), and the causes STREAK and THROUGH come after
their record's mark request (log 52).

`Quiescent` is what holds between two steps (log 9, `StepStaysQuiescent`). That a command whose event cannot occur in a state
leaves that state as it is rests on log 5 throughout. -/

open Sys2Proof Sys2Proof.Machine

/-! ## Steps and the queue of commands -/

/-- A step takes the command at the front of the queue; with an empty queue one reference cycle passes (log 4). R1: 25 cycles are one
step of the µs counter, 1,000 steps one ms tick. R2: each cycle ages the holds that run. At a ms tick R181 counts towards the poll
tick, but not in OFF, and R22 towards the stall time, but not in OFF, with no active recipe or after a stall event; R185 ages a page
that holds records, and R180 every read in flight. -/
def Obligations.StepTakesFrontCommand : Prop :=
  (∀ (c : Instr) (rest : List Instr) (s : State), s.pending = c :: rest → step s = exec c { s with pending := rest }) ∧
    ∀ s : State, s.pending = [] →
      let aged : Phase → Phase := fun p => { p with hold := p.hold.map (· + 1) }
      let m := { s.mu with phaseA := aged s.mu.phaseA, phaseB := aged s.mu.phaseB }
      (s.mu.refPhase + 1 < 25 → step s = .next { s with mu := { m with refPhase := s.mu.refPhase + 1 } }) ∧
        (25 ≤ s.mu.refPhase + 1 → s.mu.msPhase + 1 < 1000 →
          step s =
            .next { s with mu := { m with refPhase := 0, us := s.mu.us + 1, msPhase := s.mu.msPhase + 1 } }) ∧
        (25 ≤ s.mu.refPhase + 1 → 1000 ≤ s.mu.msPhase + 1 →
          step s =
            .next
              { s with
                mu :=
                  { m with
                    refPhase := 0
                    us := s.mu.us + 1
                    msPhase := 0
                    stallCount :=
                      if s.cu.state = .off ∨ s.shared = none ∨ s.mu.stallRaised = true then s.mu.stallCount
                      else s.mu.stallCount + 1 }
                xu :=
                  { s.xu with
                    pollCount := if s.cu.state = .off then s.xu.pollCount else s.xu.pollCount + 1
                    pollDue :=
                      if s.cu.state = .off then s.xu.pollDue
                      else s.xu.pollDue || decide (s.xu.pollInterval.toNat ≤ s.xu.pollCount + 1)
                    filling :=
                      s.xu.filling.map fun page => if page.records = [] then page else { page with age := page.age + 1 }
                    sample := s.xu.sample.map (· + 1)
                    copy := s.xu.copy.map fun c => { c with waited := c.waited + 1 }
                    reread := s.xu.reread.map fun x => { x with waited := x.waited + 1 }
                    posting := s.xu.posting.map fun p => { p with waited := p.waited + 1 }
                    statusWrite := s.xu.statusWrite.map fun w => { w with waited := w.waited + 1 } }
                rs := { s.rs with load := s.rs.load.map fun l => { l with waited := l.waited + 1 } } })

/-- Every command answers a next state in every state, and leaves the commands that wait as they are. -/
def Obligations.EveryCommandAnswers : Prop :=
  ∀ (c : Instr) (s : State), ∃ t, exec c s = .next t ∧ t.pending = s.pending

/-- The values after power-on that the tables of the chapters give; and the limits of Safety.lean, which the statements below say every
step keeps, hold there. -/
def Obligations.ResetValuesAndLimits : Prop :=
  let s := State.reset
  s.pending = [] ∧ s.mu.us = 0 ∧ s.mu.p = 0 ∧ s.mu.h = 0 ∧ s.mu.direction = .forward ∧ s.mu.limitSent = false ∧
    s.mu.jumps = Tally.empty ∧ s.mu.splices = [] ∧ s.mu.stallCount = 0 ∧ (∀ f, (s.muFace f).edges = []) ∧
    (∀ p : Port, (s.head p).link = .waiting ∧ (s.head p).hello = none ∧ (s.head p).outstanding = [] ∧
      (s.head p).buffers = [] ∧ (s.head p).misses = 0 ∧ (s.head p).counters = HeadCounters.zero) ∧
    (∀ f, (s.rxFace f).runFull = Tally.empty) ∧ (∀ f, TablesFree s f) ∧ s.te.nextStreak = 1 ∧
    (∀ f, (s.teFace f).openStreaks = 0) ∧ s.pu.list = [] ∧ (∀ f, (s.puFace f).log = [] ∧ (s.puFace f).floor = 0) ∧
    s.ku.queue = [] ∧ s.ku.breakFlag = false ∧ s.ku.a = .idle ∧ s.ku.b = .idle ∧ s.ku.counters = MarkCounters.zero ∧
    s.ru.nextSeq = 1 ∧ s.ru.queue = [] ∧ s.ru.tallyOpen = false ∧ s.ru.lostTotal = 0 ∧ s.rs.shared = none ∧
    (∀ f, (s.rsFace f).active = none ∧ (s.rsFace f).pending = none) ∧ s.rs.load = none ∧ s.cu.state = .off ∧
    s.cu.rollId = 0 ∧ s.cu.endReason = none ∧ s.cu.abandon = false ∧ s.cu.capture = none ∧ s.cu.batch = none ∧
    s.xu.xbase = 0 ∧ s.xu.enable = false ∧ s.xu.pollInterval = 10 ∧ s.xu.flags = 0 ∧ s.xu.outstanding = 0 ∧
    (∀ c : Fin 8, s.xu.levels[c] = 0) ∧ s.xu.pollCount = 0 ∧ s.xu.resample = false ∧ s.xu.taken = 0 ∧
    s.xu.seenWritten = 0 ∧ s.xu.consumed = 0 ∧ s.xu.pagesTaken = 0 ∧ s.xu.invalidLatch = false ∧
    s.xu.emptySpell = false ∧ s.xu.filling = none ∧ s.xu.posting = none ∧ s.xu.nextPage = 1 ∧ s.xu.lastPosted = 0 ∧
    s.xu.statusStamp = 0 ∧ s.xu.changed = false ∧ s.xu.statusWrite = none ∧ s.xu.statusWanted = none ∧
    MotionOk s.mu ∧ LinksOk s.lu ∧ LinesOk s ∧ PairingOk s.pu ∧ MarksOk s.ku ∧
    HoldingOk s.ru ∧ PagesOk s.xu ∧ (∀ f, StreaksOk (s.teFace f)) ∧ Quiescent s

/-! ## Limits that every step keeps -/

def Obligations.StepKeepsMotion : Prop :=
  ∀ s t : State, MotionOk s.mu → step s = .next t → MotionOk t.mu

/-- R27, R32: no head holds more than two line buffers; and the heads an unassembled line waits for are entered for its face, each
once, with no line unassembled outside RUNNING and STOPPING and no close-out phase within. -/
def Obligations.StepKeepsLineBuffers : Prop :=
  (∀ s t : State, LinksOk s.lu → step s = .next t → LinksOk t.lu) ∧
    ∀ s t : State, LinesOk s → step s = .next t → LinesOk t

def Obligations.StepKeepsPairingList : Prop :=
  ∀ s t : State, PairingOk s.pu → step s = .next t → PairingOk t.pu

def Obligations.StepKeepsMarkQueue : Prop :=
  ∀ s t : State, MarksOk s.ku → step s = .next t → MarksOk t.ku

def Obligations.StepKeepsHoldingQueue : Prop :=
  ∀ s t : State, HoldingOk s.ru → step s = .next t → HoldingOk t.ru

def Obligations.StepKeepsPages : Prop :=
  ∀ s t : State, PagesOk s.xu → step s = .next t → PagesOk t.xu

/-- R102: the open streak count of each face always equals the number of its tracks in CONFIRMED or FADING. -/
def Obligations.StepKeepsStreakCounts : Prop :=
  ∀ s t : State, (∀ f, StreaksOk (s.teFace f)) → step s = .next t → ∀ f, StreaksOk (t.teFace f)

/-- No limit event is left waiting by a step, and a wanted status block write waits only for one in progress (log 9). -/
def Obligations.StepStaysQuiescent : Prop :=
  ∀ s t : State, Quiescent s → step s = .next t → Quiescent t

/-! ## Power-on, part reset, registers -/

/-- R31, R124, R160, R166: power-on latches the straps and clears XBASE; part reset keeps both. RETRAIN goes out before the break input
acts (log 52). -/
def Obligations.PowerOnAndPartReset : Prop :=
  (∀ (straps : Straps) (s : State), ∃ t, exec (.powerOn straps) s = .next t ∧ ComesUp straps 0 s t) ∧
    ∀ s : State, ∃ t, exec .partReset s = .next t ∧ ComesUp s.straps s.xu.xbase s t

/-- R178, R161: a write to a half of XBASE is taken in OFF alone, with its low 12 bits at 0, and takes the part to IDLE when it
completes the condition, which is a change of inspection state (R189; the write begins within the step, log 9, after the sample's
reads, log 44). `x` is the new value, given by its halves. -/
def Obligations.XbaseWritten : Prop :=
  ∀ (half : XbaseHalf) (value : Word) (s : State) (x : BitVec 64), Quiescent s →
    x.extractLsb' 0 32 = (if half = .lo then value &&& 0xFFFFF000#32 else s.xu.xbase.extractLsb' 0 32) →
    x.extractLsb' 32 32 = (if half = .hi then value else s.xu.xbase.extractLsb' 32 32) →
    let written : State := { s with xu := { s.xu with xbase := x } }
    (s.cu.state ≠ .off → ∃ t, exec (.xbaseWrite half value) s = .next t ∧ OnlyStatus s t) ∧
      (s.cu.state = .off → (s.xu.enable = false ∨ x = 0) →
        ∃ t, exec (.xbaseWrite half value) s = .next t ∧ OnlyStatus written t) ∧
      (s.cu.state = .off → s.xu.enable = true → x ≠ 0 →
        ∃ t, exec (.xbaseWrite half value) s = .next t ∧ OnlyStatus (wantStatus (inIdle written) Owed.none) t)

/-- R161, R163, R179, R181, R189: PCTL.ENABLE. Setting it takes the part from OFF to IDLE when XBASE is not 0, and else sets the bit
alone. Clearing it moves IDLE to OFF, ends a roll with reason HALT, and else clears the bit alone. The status block write of a change
of state begins within the step (log 9), on entry to IDLE after the sample's reads (log 44). -/
def Obligations.EnableWritten : Prop :=
  ∀ s : State, Quiescent s →
    let enabled : State := { s with xu := { s.xu with enable := true } }
    (s.cu.state = .off → s.xu.xbase ≠ 0 →
      ∃ t, exec .enableSet s = .next t ∧ OnlyStatus (wantStatus (inIdle enabled) Owed.none) t) ∧
      ((s.cu.state ≠ .off ∨ s.xu.xbase = 0) → ∃ t, exec .enableSet s = .next t ∧ OnlyStatus enabled t) ∧
      (s.cu.state = .idle →
        ∃ t, exec .enableClear s = .next t ∧
          OnlyStatus
            (wantStatus
              { s with
                cu := { s.cu with state := .off }
                xu := { s.xu with enable := false, pollCount := 0, pollDue := false } } Owed.none) t) ∧
      ((s.cu.state = .running ∨ s.cu.state = .stopping) →
        ∃ t, exec .enableClear s = .next t ∧ t.xu.enable = false ∧ EntersClosing .halt s t) ∧
      ((s.cu.state = .closing ∨ s.cu.state = .off) →
        ∃ t, exec .enableClear s = .next t ∧ OnlyStatus { s with xu := { s.xu with enable := false } } t)

/-- R178, R179, R191, R194: the register window. The poll interval: 0 changes nothing, any other value is taken. A write that names no
register changes nothing. What each offset reads. The commands a host write of a word at an offset is, which join the queue: a write
to PCTL that sets RESET is a reset alone, any other gives the interval and ENABLE in that order (log 24). At an offset that is not a
multiple of 4 a write goes to the register the offset falls in and a read gives 0: the model's choice (log 55). -/
def Obligations.RegisterWindow : Prop :=
  (∀ (value : Byte) (offset : BitVec 5) (word : Word) (s : State), Quiescent s →
    (value ≠ 0 →
      ∃ t, exec (.pollIntervalWrite value) s = .next t ∧
        OnlyStatus { s with xu := { s.xu with pollInterval := value } } t) ∧
      (∃ t, exec (.pollIntervalWrite 0) s = .next t ∧ OnlyStatus s t) ∧
      ∃ t, exec (.registerWriteIgnored offset word) s = .next t ∧ OnlyStatus s t) ∧
    (∀ s : State,
      readRegister s 0x00 = s.xu.xbase.extractLsb' 0 32 ∧ readRegister s 0x04 = s.xu.xbase.extractLsb' 32 32 ∧
        readRegister s 0x08 =
          (if s.xu.enable then 1#32 else 0) ||| (s.xu.pollInterval.setWidth 32 <<< 8)
            ||| (if s.cu.state = .off then 0 else 0x80000000#32) ∧
        readRegister s 0x0C = s.xu.flags.setWidth 32 ||| (s.xu.outstanding.setWidth 32 <<< 8) ∧
        readRegister s 0x10 =
          0x00017420#32 ||| (if s.straps.eightPorts then 0x01000000#32 else 0)
            ||| (if s.straps.twoMarkers then 0x02000000#32 else 0) ∧
        readRegister s 0x14 = 0 ∧ readRegister s 0x18 = 0 ∧ readRegister s 0x1C = 0) ∧
    ∀ (value : Word) (offset : BitVec 5) (s : State),
      writeCommands 0x00#5 value = [.xbaseWrite .lo value] ∧ writeCommands 0x04#5 value = [.xbaseWrite .hi value] ∧
        (value.getLsbD 1 = true → writeCommands 0x08#5 value = [.partReset]) ∧
        (value.getLsbD 1 = false →
          writeCommands 0x08#5 value =
            [.pollIntervalWrite (value.extractLsb' 8 8), if value.getLsbD 0 then .enableSet else .enableClear]) ∧
        writeCommands 0x0C#5 value = [.attnWrite value] ∧
        (16 ≤ offset.toNat → writeCommands offset value = [.registerWriteIgnored offset value]) ∧
        (offset.toNat < 16 → writeCommands offset value = writeCommands (offset &&& 0x1C#5) value) ∧
        (∀ n, n % 4 ≠ 0 → readRegister s n = 0) ∧
        (s.hostWrite offset value).pending = s.pending ++ writeCommands offset value ∧
        ∀ c ∈ writeCommands offset value, c.wellFormed = true

/-- R192: a write to ATTN. The new outstanding level is the highest among the flags still set, and is signalled when above 0. A
cause that follows acts on the flags as the write left them; one that came before is among the flags of `s`. -/
def Obligations.AttentionCleared : Prop :=
  ∀ (value : Word) (s : State), Quiescent s →
    let flags := s.xu.flags &&& ~~~(value.setWidth 8)
    ∃ level : BitVec 2,
      (∀ i : Fin 8, flags.getLsbD i.val = true → s.xu.levels[i] ≤ level) ∧
        (level = 0 ∨ ∃ i : Fin 8, flags.getLsbD i.val = true ∧ s.xu.levels[i] = level) ∧
        ∃ t, exec (.attnWrite value) s = .next t ∧
          OnlyStatus
            { s with
              xu := { s.xu with flags := flags, outstanding := level }
              out :=
                if 0 < level ∧ s.xu.message.enabled = true then
                  s.out ++ [.message s.xu.message.address (messageData s.xu.message.data level)]
                else s.out } t ∧
          ∀ c, (raise t c).xu.flags = flags ||| (1#8 <<< (causeIndex c).val)

/-! ## The encoder and the break input -/

/-- R2 to R5, R22, R123: with the encoder filter at 0 a raw change is decoded at once. A forward step below H, one at the upper bound
of P, a reverse step, which cuts the marker pulses when it is the first one in FORWARD, and a jump. -/
def Obligations.EncoderStepped : Prop :=
  ∀ (a b : Bool) (sensors : Sensors) (s : State), Quiescent s → encoderFilter s = 0 →
    s.mu.phaseA = { accepted := s.pins.encA, hold := none } → s.mu.phaseB = { accepted := s.pins.encB, hold := none } →
    let before := cyclePlace s.pins.encA s.pins.encB
    let pins : Pins := { s.pins with encA := a, encB := b, sensors := sensors }
    let m : MotionUnit :=
      { s.mu with phaseA := { accepted := a, hold := none }, phaseB := { accepted := b, hold := none } }
    (cyclePlace a b = before + 1 → s.mu.p < s.mu.h → s.mu.p < Config.positionLimit →
      ∃ t, exec (.encoderRawChange a b sensors) s = .next t ∧
        OnlyStatus
          { s with
            pins := pins
            mu := { m with direction := .forward, p := s.mu.p + 1, stallCount := 0, stallRaised := false } } t) ∧
      (cyclePlace a b = before + 1 → s.mu.p = Config.positionLimit →
        ∃ t, exec (.encoderRawChange a b sensors) s = .next t ∧
          OnlyStatus { s with pins := pins, mu := { m with direction := .forward } } t) ∧
      (cyclePlace a b + 1 = before → -Config.positionLimit < s.mu.p →
        ∃ t, exec (.encoderRawChange a b sensors) s = .next t ∧
          OnlyStatus
            { s with
              pins := pins
              mu := { m with direction := .reverse, p := s.mu.p - 1, stallCount := 0, stallRaised := false }
              ku :=
                if s.mu.direction = .forward then
                  { s.ku with
                    a := cutPulse s.ku.a
                    b := cutPulse s.ku.b
                    counters := s.ku.counters.withCuts (cutsOf s.ku.a s.ku.b) }
                else s.ku } t) ∧
      (a ≠ s.pins.encA → b ≠ s.pins.encB →
        ∃ t, exec (.encoderRawChange a b sensors) s = .next t ∧
          OnlyStatus
            { s with
              pins := pins
              mu := if s.inspecting then { m with jumps := m.jumps.add m.p } else m } t)

/-- R4, R121, R125: outside a roll too, H follows P upward. With no mark due an advance only ends pulses; one mark that has come due
starts a pulse on its output or is merged into the one in progress; several that have come due at once are taken in their order; while
the break flag stands each is missed with a MARK_MISSED record instead (here none of the numbers given sends the sequence-limit event).
-/
def Obligations.AdvanceFiresMarks : Prop :=
  ∀ (a b : Bool) (sensors : Sensors) (s : State), Quiescent s → EncoderSettled s →
    cyclePlace a b = cyclePlace s.pins.encA s.pins.encB + 1 → s.mu.p = s.mu.h →
    s.mu.h < Config.positionLimit → s.inspecting = false →
    let h := s.mu.h + 1
    let moved := ontoFreshWeb a b sensors s
    ((∀ e ∈ s.ku.queue, h < e.fire) →
      ∃ t, exec (.encoderRawChange a b sensors) s = .next t ∧ OnlyStatus { moved with ku := s.ku.ended h } t) ∧
      (∀ (e : MarkEntry) (rest : List MarkEntry), s.ku.queue = e :: rest → s.ku.breakFlag = false → e.fire ≤ h →
        h < e.fire + e.length → (∀ x ∈ rest, h < x.fire) →
        let k := ({ s.ku with queue := rest } : MarkUnit).ended h
        (s.ku.output e.out = .idle →
          ∃ t, exec (.encoderRawChange a b sensors) s = .next t ∧
            OnlyStatus
              { moved with
                ku :=
                  { k.setOutput e.out (.active (e.fire + e.length)) with
                    counters := { s.ku.counters with fired := bump32 s.ku.counters.fired } } } t) ∧
          ∀ stop : Int, s.ku.output e.out = .active stop →
            ∃ t, exec (.encoderRawChange a b sensors) s = .next t ∧
              OnlyStatus
                { moved with
                  ku :=
                    { k.setOutput e.out (.active (max stop (e.fire + e.length))) with
                      counters := { s.ku.counters with merged := bump32 s.ku.counters.merged } } } t) ∧
      ∀ due rest : List MarkEntry, s.ku.queue = due ++ rest → (∀ e ∈ due, e.fire ≤ h) → (∀ e ∈ rest, h < e.fire) →
        let left : State := { moved with ku := { s.ku with queue := rest } }
        let laid := due.foldl (fun u e => layMark u e.out (e.fire + e.length)) left
        let missed := due.foldl (fun u e => issueMissed u e .brk) left
        (s.ku.breakFlag = false →
          ∃ t, exec (.encoderRawChange a b sensors) s = .next t ∧ OnlyStatus { laid with ku := laid.ku.ended h } t) ∧
          (s.ku.breakFlag = true → s.ru.nextSeq + due.length ≤ Config.sequenceLimit →
            ∃ t, exec (.encoderRawChange a b sensors) s = .next t ∧
              OnlyStatus { missed with ku := missed.ku.ended h } t)

/-- R4, R6, R9, R121: an advance of H in RUNNING or STOPPING. The mark inputs and the splice input are sampled, each face's next line
is prepared if it is due, and marks and pulses follow, in that order (log 8); here the advance sends no limit event. With the inputs at
their accepted levels, no line due and no mark due, only pulses end. The advance onto the position limit ends the roll with reason
LIMIT. What a due line does is stated by `LineScheduled`, `BoundariesMade` and `EdgesAndSplicesAccepted`. -/
def Obligations.InspectingAdvance : Prop :=
  ∀ (a b : Bool) (sensors : Sensors) (sp : SharedPart) (s : State), Quiescent s → EncoderSettled s →
    cyclePlace a b = cyclePlace s.pins.encA s.pins.encB + 1 → s.mu.p = s.mu.h →
    s.inspecting = true → s.shared = some sp →
    let h := s.mu.h + 1
    let moved := ontoFreshWeb a b sensors s
    let sampled := sampleSplice (sampleMark (sampleMark moved sp .upper) sp .lower) sp
    let prepared := prepareIfDue (prepareIfDue sampled sp .upper) sp .lower
    (h < Config.positionLimit → (advanceMarks prepared).cu.limitEvent = false →
      ∃ t, exec (.encoderRawChange a b sensors) s = .next t ∧ OnlyStatus (advanceMarks prepared) t) ∧
      (h < Config.positionLimit →
        (∀ f, (s.muFace f).begun = none ∧ (s.muFace f).acceptedLevel = markLevel moved f) → s.mu.spliceBegun = none →
        s.mu.spliceAccepted = sensors.splice → (∀ f, lineDue moved sp f = false) → (∀ e ∈ s.ku.queue, h < e.fire) →
        ∃ t, exec (.encoderRawChange a b sensors) s = .next t ∧ OnlyStatus { moved with ku := s.ku.ended h } t) ∧
      (h = Config.positionLimit → s.mu.limitSent = false →
        ∃ t, exec (.encoderRawChange a b sensors) s = .next t ∧ t.mu.p = Config.positionLimit ∧
          t.mu.h = Config.positionLimit ∧ t.mu.limitSent = true ∧ t.cu.state = .closing ∧ t.cu.endReason = some .limit)

/-- R6, R7, R8, R27, R36: the next line of a face as H stands. It is due once H has reached its trigger point. With no boundary at or
below its stamp and no splice queued, it is skipped while the minimum line period has not passed since the face's last trigger, and
joins the skip stretch; otherwise it is triggered: an open skip stretch is closed first (its record comes before what the Link Unit
reports at the trigger, log 8), TRIGGERs go to the READY and LIVE heads in increasing port number (log 8), which become LIVE, and the
line joins the stream unassembled. That is written out where the trigger finds at most one unassembled line, none that is complete, and
no recovering head. Then any trigger: of two unassembled lines the older is first assembled, and what is then complete after it (R35,
R36); each head gets its TRIGGER, a recovering one with the report of its recovery after it (R40; the order is the model's, log 52);
and the new line, complete when it waits for no head, is assembled as soon as it is the oldest. -/
def Obligations.LineScheduled : Prop :=
  (∀ (sp : SharedPart) (f : Face) (s : State),
    let m := s.muFace f
    let n := m.nextLine
    let stamp : Int := s.mu.s0 + n * sp.pitch
    let point : Int := if f = .upper then stamp else stamp + sp.d
    let desc : LineDesc :=
      { number := n
        stamp := stamp
        lighting :=
          match sp.lighting with
          | .rt => if n % 2 = 0 then .r else .t
          | .rOnly => .r
          | .tOnly => .t
        sect := m.sect
        patchIndex := if m.sect = .wait then 0 else m.patchIndex
        offset := if m.sect = .wait then stamp - s.mu.s0 else stamp - m.startStamp
        excluded := false
        skipped := false }
    let late := ∀ t0, m.prevTrigger = some t0 → sp.minPeriod ≤ (s.mu.us - t0).toNat
    let stream := (s.luFace f).stream
    let t := prepareIfDue s sp f
    ((m.finished = true ∨ s.mu.h < point) → t = s) ∧
      (m.skip.count ≠ 0 →
        closeSkip s f =
          issueFault
            { s with mu := { s.mu with faces := s.mu.faces.set f { m with skip := Tally.empty } } } .overspeed (.face f)
            m.skip.first m.skip.last m.skip.count) ∧
      (∀ p, p ∈ triggerSet s f ↔
        ∃ e, s.entry p = some e ∧ e.face = f ∧ ((s.head p).link = .ready ∨ (s.head p).link = .live)) ∧
      (m.finished = false → point ≤ s.mu.h → s.mu.splices = [] →
        (∀ b, nextBoundary s f = some b → stamp < b.stamp) →
        (¬late →
          t =
            { s with
              mu := { s.mu with faces := s.mu.faces.set f { m with skip := m.skip.add stamp, nextLine := n + 1 } }
              lu :=
                { s.lu with
                  faces :=
                    s.lu.faces.set f { s.luFace f with stream := stream ++ [.skipped { desc with skipped := true }] } } }) ∧
          (late → t = prepareIfDue (closeSkip s f) sp f) ∧
          (late → m.skip = Tally.empty → (openLines stream).length < 2 →
            (∀ p ∈ triggerSet s f, (s.head p).recovering = false) →
            let line : OpenLine :=
              { desc := desc, expected := triggerSet s f, givenUp := [], triggerTime := s.mu.us }
            (∀ x ∈ (openLines stream ++ [line]).head?, lineComplete s x = false) →
            t.mu =
                { s.mu with
                  faces := s.mu.faces.set f { m with prevTrigger := some s.mu.us, nextLine := n + 1 } } ∧
              t.lu.faces =
                s.lu.faces.set f
                  { s.luFace f with
                    stream := stream ++ [.opened line], lastTriggered := some { number := n, stamp := stamp } } ∧
              (∀ p, t.head p =
                if p ∈ triggerSet s f then
                  { s.head p with link := .live, outstanding := (s.head p).outstanding ++ [n] }
                else s.head p) ∧
              t.out = s.out ++ (triggerSet s f).map (fun p => .link p (triggerPacket n desc.lighting)) ∧
              { t with mu := s.mu, lu := s.lu, out := s.out } = s) ∧
          (late → m.skip = Tally.empty →
            let sent :=
              triggerLine
                { s with mu := { s.mu with faces := s.mu.faces.set f { m with prevTrigger := some s.mu.us } } } f desc
            t =
              { sent with
                mu := { sent.mu with faces := sent.mu.faces.set f { sent.muFace f with nextLine := n + 1 } } }))) ∧
    (∀ (f : Face) (desc : LineDesc) (s r v : State),
      ((openLines (s.luFace f).stream).length < 2 ∧ r = s ∨
        ∃ line next more, openLines (s.luFace f).stream = line :: next :: more ∧
          ReadyAssembled f (assembleLine s f line) r) →
      let sent := (triggerSet r f).foldl (sendTrigger desc) r
      let line : OpenLine := { desc := desc, expected := triggerSet r f, givenUp := [], triggerTime := s.mu.us }
      ReadyAssembled f
        { sent with
          lu :=
            { sent.lu with
              faces :=
                sent.lu.faces.set f
                  { sent.luFace f with
                    stream := (sent.luFace f).stream ++ [.opened line]
                    lastTriggered := some { number := desc.number, stamp := desc.stamp } } } } v →
      triggerLine s f desc = v) ∧
    ∀ (p : Port) (desc : LineDesc) (s : State),
      let live : Head := { s.head p with link := .live, outstanding := (s.head p).outstanding ++ [desc.number] }
      let sent : Head → State := fun h =>
        { s with
          lu := { s.lu with heads := s.lu.heads.set p.val h }
          out := s.out ++ [.link p (triggerPacket desc.number desc.lighting)] }
      (((s.head p).link ≠ .ready ∨ (s.head p).recovering = false) → sendTrigger desc s p = sent live) ∧
        ((s.head p).link = .ready → (s.head p).recovering = true →
          let u := sent { live with recovering := false }
          (s.inspecting = false → sendTrigger desc s p = u) ∧
            (s.inspecting = true → (s.head p).failedLine = none →
              sendTrigger desc s p = issueFault u .headRecovered (.head p) s.mu.s0 desc.stamp (desc.number - 1)) ∧
            ∀ line, s.inspecting = true → (s.head p).failedLine = some line →
              sendTrigger desc s p =
                issueFault u .headRecovered (.head p) line.stamp desc.stamp (desc.number - line.number - 1))

/-- R11 to R14, R18, R19, R156: the section tracker. Which boundary is next in each mode and section, an edge going before a synthetic
boundary of the same stamp; that boundaries at or below a line's stamp are applied one after another, earliest first, the next one
looked for anew each time (so a redundant edge at the synthetic boundary's stamp leaves that boundary to be made, log 32); and what
each does: patch starts and ends with their flags and stream items, redundant edges, the end that finishes a face, with the report of a
skip stretch left open, the pending face part applied with its RECIPE record. That a patch keeps its start flags when its face changes
mode (SYNTH_START at a segment end, SEGMENT at a FALL or a synthetic end) is the model's choice (log 20). -/
def Obligations.BoundariesMade : Prop :=
  ∀ (f : Face) (part : FacePart) (s : State), s.activePart f = some part →
    let m := s.muFace f
    let withFace : MuFace → List StreamItem → State := fun m1 items =>
      { s with
        mu := { s.mu with faces := s.mu.faces.set f m1 }
        lu := { s.lu with faces := s.lu.faces.set f { s.luFace f with stream := (s.luFace f).stream ++ items } } }
    let ends : Int → PatchFlags → StreamItem := fun stamp flags =>
      .patchEnd { index := m.patchIndex, first := m.startStamp, last := stamp, flags := flags, finishing := false }
    let starts : Int → StreamItem := fun stamp => .patchStart { index := m.patchIndex + 1, stamp := stamp, part := none }
    let started : Int → StartFlags → MuFace := fun stamp flags =>
      { m with sect := .coated, patchIndex := m.patchIndex + 1, startStamp := stamp, startFlags := flags }
    let finishes : Boundary → Int → List Edge → PatchFlags → Prop := fun b stamp edges flags =>
      let t := applyBoundary s f b
      (t.muFace f).finished = true ∧ (t.muFace f).sect = .gap ∧ (t.muFace f).lastEnd = stamp ∧
        (t.muFace f).edges = edges ∧ (t.muFace f).skip = Tally.empty ∧
        (t.luFace f).stream =
          (s.luFace f).stream ++
            [.patchEnd { index := m.patchIndex, first := m.startStamp, last := stamp, flags := flags, finishing := true }] ∧
        t.rs = s.rs ∧
        t.ru =
          (if m.skip.count = 0 then s else issueFault s .overspeed (.face f) m.skip.first m.skip.last m.skip.count).ru
    let applies : Sourced FacePart → Boundary → Int → List Edge → StartFlags → List StreamItem → Prop :=
      fun source b stamp edges flags before =>
        let t := applyBoundary s f b
        (t.rsFace f).active = some source ∧ (t.rsFace f).pending = none ∧ (t.muFace f).sect = .coated ∧
          (t.muFace f).patchIndex = m.patchIndex + 1 ∧ (t.muFace f).startStamp = stamp ∧ (t.muFace f).startFlags = flags ∧
          (t.muFace f).edges = (if source.part.mode = .continuous then [] else edges) ∧
          (t.luFace f).stream =
            (s.luFace f).stream ++ before ++
              [.patchStart { index := m.patchIndex + 1, stamp := stamp, part := some source.part }] ∧
          t.ru = (issue s (.recipe f source.slot source.id stamp)).ru
    let synthetic : Int :=
      if m.sect = .coated then m.startStamp + part.nominal + part.tolerance else m.lastEnd + part.maxGap
    (part.mode = .intermittent →
      (m.sect = .wait → nextBoundary s f = m.edges.head?.map .edge) ∧
        (m.sect ≠ .wait → m.edges = [] → nextBoundary s f = some (.synthetic synthetic)) ∧
        ∀ e rest, m.sect ≠ .wait → m.edges = e :: rest →
          nextBoundary s f = some (if e.stamp ≤ synthetic then .edge e else .synthetic synthetic)) ∧
      (part.mode = .continuous → part.segment ≠ 0 → s.mu.s0 ≤ m.startStamp →
        ∃ n : Int, 1 ≤ n ∧ nextBoundary s f = some (.segment (s.mu.s0 + n * part.segment)) ∧
          m.startStamp < s.mu.s0 + n * part.segment ∧ s.mu.s0 + (n - 1) * part.segment ≤ m.startStamp) ∧
      (∀ (n : Nat) (stamp : Int),
        (∀ b, m.finished = false → nextBoundary s f = some b → b.stamp ≤ stamp →
          applyBoundaries (n + 1) s f stamp = applyBoundaries n (applyBoundary s f b) f stamp) ∧
          ((m.finished = true ∨ ∀ b, nextBoundary s f = some b → stamp < b.stamp) → applyBoundaries n s f stamp = s)) ∧
      (∀ (e : Edge) (rest : List Edge), m.edges = e :: rest →
        ((e.rise = true ↔ m.sect = .coated) →
          applyBoundary s f (.edge e) = withFace { m with edges := rest, edgeExtra := true } []) ∧
          (e.rise = true → m.sect ≠ .coated → (s.rsFace f).pending = none →
            applyBoundary s f (.edge e) =
              withFace { started e.stamp { synthStart := false, segment := false } with edges := rest }
                [starts e.stamp]) ∧
          (e.rise = false → m.sect = .coated → m.finishRequest = false →
            applyBoundary s f (.edge e) =
              withFace { m with edges := rest, sect := .gap, lastEnd := e.stamp }
                [ends e.stamp
                  { synthStart := m.startFlags.synthStart
                    synthEnd := false
                    short := decide (e.stamp - m.startStamp < (part.nominal : Int) - part.tolerance)
                    long := false
                    segment := m.startFlags.segment }]) ∧
          (e.rise = false → m.sect = .coated → m.finishRequest = true →
            finishes (.edge e) e.stamp rest
              { synthStart := m.startFlags.synthStart
                synthEnd := false
                short := decide (e.stamp - m.startStamp < (part.nominal : Int) - part.tolerance)
                long := false
                segment := m.startFlags.segment })) ∧
      (∀ stamp : Int,
        (m.sect = .coated → m.finishRequest = false →
          applyBoundary s f (.synthetic stamp) =
            withFace { m with sect := .gap, lastEnd := stamp }
              [ends stamp
                { synthStart := m.startFlags.synthStart
                  synthEnd := true
                  short := false
                  long := true
                  segment := m.startFlags.segment }]) ∧
          (m.sect = .gap → (s.rsFace f).pending = none →
            applyBoundary s f (.synthetic stamp) =
              withFace (started stamp { synthStart := true, segment := false }) [starts stamp]) ∧
          (m.finishRequest = false → m.finished = false → (s.rsFace f).pending = none →
            applyBoundary s f (.segment stamp) =
              withFace { started stamp { synthStart := false, segment := true } with lastEnd := stamp }
                [ends stamp
                    { synthStart := m.startFlags.synthStart
                      synthEnd := false
                      short := false
                      long := false
                      segment := true }, starts stamp]) ∧
          (m.sect = .coated → m.finishRequest = true →
            finishes (.synthetic stamp) stamp m.edges
              { synthStart := m.startFlags.synthStart
                synthEnd := true
                short := false
                long := true
                segment := m.startFlags.segment }) ∧
          (m.finishRequest = true →
            finishes (.segment stamp) stamp m.edges
              { synthStart := m.startFlags.synthStart
                synthEnd := false
                short := false
                long := false
                segment := true })) ∧
      ∀ source : Sourced FacePart, (s.rsFace f).pending = some source →
        (∀ stamp : Int, m.sect = .gap →
          applies source (.synthetic stamp) stamp m.edges { synthStart := true, segment := false } []) ∧
          (∀ (e : Edge) (rest : List Edge), m.edges = e :: rest → e.rise = true → m.sect ≠ .coated →
            applies source (.edge e) e.stamp rest { synthStart := false, segment := false } []) ∧
          ∀ stamp : Int, m.finishRequest = false → m.finished = false →
            applies source (.segment stamp) stamp m.edges { synthStart := false, segment := true }
              [ends stamp
                  { synthStart := m.startFlags.synthStart
                    synthEnd := false
                    short := false
                    long := false
                    segment := true }]

/-- R9, R10, R20, R21: the mark and splice inputs. An edge begins at the first sample that differs from the accepted level, with that
sample's stamp, is accepted when the next F samples show the new level too, and is discarded when one shows the old level. An
accepted mark edge joins its face's queue, or the overflow tally when the queue is full, and in CONTINUOUS mode only updates the
level. A splice edge opens an exclusion zone, or is reported when the queue is full; a face's first line in a zone cuts it there, with
a SPLICE record for the upper face, and its first line beyond a zone makes it done with the entry, with no entry into the zone
where none fell within (log 40). A line that is the upper face's entry into two zones gives their SPLICE records in queue order
(log 53). -/
def Obligations.EdgesAndSplicesAccepted : Prop :=
  (∀ (begun : Option BegunEdge) (b : BegunEdge) (level : Bool) (stamp : Int) (filter : Nat),
    sampleInput begun level level stamp filter = { begun := none, accepted := none } ∧
      sampleInput none (!level) level stamp 0 = { begun := none, accepted := some stamp } ∧
      (filter ≠ 0 →
        sampleInput none (!level) level stamp filter =
          { begun := some { stamp := stamp, left := filter }, accepted := none }) ∧
      (1 < b.left →
        sampleInput (some b) (!level) level stamp filter =
          { begun := some { b with left := b.left - 1 }, accepted := none }) ∧
      (b.left ≤ 1 → sampleInput (some b) (!level) level stamp filter = { begun := none, accepted := some b.stamp })) ∧
    (∀ (f : Face) (sp : SharedPart) (part : FacePart) (s : State), s.activePart f = some part →
      let m := s.muFace f
      let level := if f = .upper then s.pins.sensors.markUpper else s.pins.sensors.markLower
      let x := sampleInput m.begun m.acceptedLevel level (s.mu.h - if f = .upper then sp.qU else sp.qL) sp.markFilter
      let withFace : MuFace → State := fun m1 => { s with mu := { s.mu with faces := s.mu.faces.set f m1 } }
      (m.finished = true → sampleMark s sp f = s) ∧
        (m.finished = false → x.accepted = none → sampleMark s sp f = withFace { m with begun := x.begun }) ∧
        ∀ stamp, m.finished = false → x.accepted = some stamp →
          let m1 := { m with begun := x.begun, acceptedLevel := level }
          (part.mode = .continuous → sampleMark s sp f = withFace m1) ∧
            (part.mode = .intermittent → m.edges.length < 8 →
              sampleMark s sp f = withFace { m1 with edges := m.edges ++ [{ stamp := stamp, rise := level }] }) ∧
            (part.mode = .intermittent → 8 ≤ m.edges.length →
              sampleMark s sp f = withFace { m1 with overflow := m.overflow.add stamp })) ∧
    ∀ (sp : SharedPart) (z : Int) (s : State),
      let x := sampleInput s.mu.spliceBegun s.mu.spliceAccepted s.pins.sensors.splice (s.mu.h - sp.qS) sp.markFilter
      let sampled : State := { s with mu := { s.mu with spliceBegun := x.begun } }
      let changed : State :=
        { s with mu := { s.mu with spliceBegun := x.begun, spliceAccepted := s.pins.sensors.splice } }
      let entry : SpliceEntry :=
        { stamp := z, first := z - sp.eb, last := z + sp.ea, entered := PerFace.both false, done := PerFace.both false }
      ((s.muFace .upper).finished = true → (s.muFace .lower).finished = true → sampleSplice s sp = s) ∧
        (((s.muFace .upper).finished = false ∨ (s.muFace .lower).finished = false) →
          (x.accepted = none → sampleSplice s sp = sampled) ∧
            ∀ stamp, x.accepted = some stamp →
              sampleSplice s sp = if s.pins.sensors.splice then acceptSplice changed sp stamp else changed) ∧
        (2 ≤ s.mu.splices.length → acceptSplice s sp z = issueFault s .spliceOverflow .none z z 1) ∧
        (s.mu.splices.length < 2 → (∀ e ∈ s.mu.splices, e.done.upper = false ∨ e.done.lower = false) →
          (∀ f, (s.muFace f).finished = false ∧
            ((s.muFace f).nextLine ≤ 1 ∨ s.mu.s0 + ((s.muFace f).nextLine - 1 : Nat) * sp.pitch ≤ z + sp.ea)) →
          acceptSplice s sp z = { s with mu := { s.mu with splices := s.mu.splices ++ [entry] } }) ∧
        (∀ (f : Face) (d e : SpliceEntry) (stamp : Int), s.mu.splices = [d, e] →
          (∀ x ∈ [d, e],
            (x.done.upper && x.done.lower) = false ∧ x.first ≤ stamp ∧ stamp ≤ x.last ∧ x.entered.get f = false) →
          let t := meetSplices s f stamp
          t.mu.splices = [{ d with entered := d.entered.set f true }, { e with entered := e.entered.set f true }] ∧
            (t.luFace f).stream = (s.luFace f).stream ++ [.spliceClosure, .spliceClosure] ∧
            (f = .lower → t.ru = s.ru) ∧
            (f = .upper → t.ru = (issue (issue s (.splice d.stamp d.first d.last)) (.splice e.stamp e.first e.last)).ru)) ∧
        ∀ (f : Face) (e : SpliceEntry) (stamp : Int), s.mu.splices = [e] → (e.done.upper && e.done.lower) = false →
          let cut : State :=
            { s with
              lu := { s.lu with faces := s.lu.faces.set f { s.luFace f with stream := (s.luFace f).stream ++ [.spliceClosure] } } }
          (e.first ≤ stamp → stamp ≤ e.last → e.entered.get f = false →
            meetSplices s f stamp =
              (let t := if f = .upper then issue cut (.splice e.stamp e.first e.last) else cut
               { t with mu := { t.mu with splices := [{ e with entered := e.entered.set f true }] } })) ∧
            ((stamp < e.first ∨ (stamp ≤ e.last ∧ e.entered.get f = true)) → stamp ≤ e.last →
              meetSplices s f stamp = s) ∧
            (e.last < stamp →
              (e.done.get (otherFace f) = true → (meetSplices s f stamp).mu.splices = []) ∧
                (e.done.get (otherFace f) = false →
                  (meetSplices s f stamp).mu.splices = [{ e with done := e.done.set f true }]))

/-- R2, R3: a held level is accepted once it has been held long enough, and is then decoded; before that nothing is accepted. One phase
runs out, A or B, whether or not the other is held too, as a forward step below H or as a reverse step, which cuts the marker
pulses when it is the first one in FORWARD (R123); or both run out together, which is an encoder jump. That a phase runs out only
when the other's hold is not the older one is the model's reading (log 26). -/
def Obligations.EncoderHoldRunsOut : Prop :=
  ∀ (n : Nat) (sensors : Sensors) (s : State), Quiescent s → encoderFilter s = n →
    let pins : Pins := { s.pins with sensors := sensors }
    let a : Phase := { accepted := !s.mu.phaseA.accepted, hold := none }
    let b : Phase := { accepted := !s.mu.phaseB.accepted, hold := none }
    let old := s.mu.place
    let young : Phase → Nat → Prop := fun p elapsed => p.hold = none ∨ ∃ x, p.hold = some x ∧ (x < elapsed ∨ 2 * x < 5 * n)
    let steps : Phases → MotionUnit → Prop := fun phases m =>
      (m.place = old + 1 → s.mu.p < s.mu.h → s.mu.p < Config.positionLimit →
        ∃ t, exec (.encoderHoldExpiry phases sensors) s = .next t ∧
          OnlyStatus
            { s with
              pins := pins
              mu := { m with direction := .forward, p := s.mu.p + 1, stallCount := 0, stallRaised := false } } t) ∧
        (m.place + 1 = old → -Config.positionLimit < s.mu.p →
          ∃ t, exec (.encoderHoldExpiry phases sensors) s = .next t ∧
            OnlyStatus
              { s with
                pins := pins
                mu := { m with direction := .reverse, p := s.mu.p - 1, stallCount := 0, stallRaised := false }
                ku :=
                  if s.mu.direction = .forward then
                    { s.ku with
                      a := cutPulse s.ku.a
                      b := cutPulse s.ku.b
                      counters := s.ku.counters.withCuts (cutsOf s.ku.a s.ku.b) }
                  else s.ku } t)
    (∀ na, s.mu.phaseA.hold = some na → 2 * na < 5 * n →
      ∃ t, exec (.encoderHoldExpiry .a sensors) s = .next t ∧ OnlyStatus { s with pins := pins } t) ∧
      (∀ nb, s.mu.phaseB.hold = some nb → 2 * nb < 5 * n →
        ∃ t, exec (.encoderHoldExpiry .b sensors) s = .next t ∧ OnlyStatus { s with pins := pins } t) ∧
      (∀ na, s.mu.phaseA.hold = some na → 5 * n ≤ 2 * na → young s.mu.phaseB na → steps .a { s.mu with phaseA := a }) ∧
      (∀ nb, s.mu.phaseB.hold = some nb → 5 * n ≤ 2 * nb → young s.mu.phaseA nb → steps .b { s.mu with phaseB := b }) ∧
      (∀ na, s.mu.phaseA.hold = some na → s.mu.phaseB.hold = some na → 5 * n ≤ 2 * na →
        ∃ t, exec (.encoderHoldExpiry .both sensors) s = .next t ∧
          OnlyStatus
            { s with
              pins := pins
              mu :=
                { s.mu with
                  phaseA := a
                  phaseB := b
                  jumps := if s.inspecting then s.mu.jumps.add s.mu.p else s.mu.jumps } } t)

/-- R124: the break input. A change to active cuts the pulses, sets the flag, forces fitted outputs and raises MARK; while the flag
stands it raises MARK alone; a change to inactive leaves flag and outputs. -/
def Obligations.BreakInput : Prop :=
  ∀ s : State, Quiescent s →
    let pins : Pins := { s.pins with breakInput := true }
    (s.pins.breakInput = false → s.ku.breakFlag = false →
      ∃ t, exec .breakInputActive s = .next t ∧
        OnlyStatus
          (raise
            { s with
              pins := pins
              ku :=
                { s.ku with
                  a := if s.straps.twoMarkers then .forced else cutPulse s.ku.a
                  b := if s.straps.twoMarkers then .forced else cutPulse s.ku.b
                  breakFlag := true
                  counters := s.ku.counters.withCuts (cutsOf s.ku.a s.ku.b) } } .mark) t) ∧
      (s.pins.breakInput = false → s.ku.breakFlag = true →
        ∃ t, exec .breakInputActive s = .next t ∧ OnlyStatus (raise { s with pins := pins } .mark) t) ∧
      ∃ t, exec .breakInputInactive s = .next t ∧ OnlyStatus { s with pins := { s.pins with breakInput := false } } t

/-! ## Scan links -/

/-- R23, R29, R30, R33, R40, R41: a HELLO. Nothing comes from a port that is not fitted; a HELLO with broken framing is counted; an
ABSENT head or a part without a recipe remembers it; else it makes the head READY or FAILED, and a LIVE head leaves LIVE, given up in
every line it still owed. First for a face with no unassembled line, then for any: the lines this completes are assembled in the same
step (R35). Here no number given sends the sequence-limit event. -/
def Obligations.HelloReceived : Prop :=
  ∀ (p : Port) (packet : Packet) (s : State), Quiescent s →
    (s.straps.fitted p = false → ∃ t, exec (.helloReceived p packet) s = .next t ∧ OnlyStatus s t) ∧
      (s.straps.fitted p = true → helloFramed packet = false →
        ∃ t, exec (.helloReceived p packet) s = .next t ∧
          OnlyStatus (s.onCounters p fun c => { c with framing := bump16 c.framing }) t) ∧
      (s.straps.fitted p = true → helloFramed packet = true → (s.entry p = none ∨ (s.head p).link = .absent) →
        ∃ t, exec (.helloReceived p packet) s = .next t ∧
          OnlyStatus (s.onHead p fun h => { h with hello := some (helloFields packet) }) t) ∧
      ∀ e : HeadEntry, s.straps.fitted p = true → helloFramed packet = true → s.entry p = some e →
        (s.head p).link ≠ .absent →
        let left : Head → Head := fun h =>
          { h with
            hello := some (helloFields packet)
            misses := if h.link = .live then 0 else h.misses
            outstanding := if h.link = .live then [] else h.outstanding }
        let fits := (helloFields packet).headId.toNat = p.val ∧ (helloFields packet).count.toNat = e.width
        let answers : State → Prop := fun v => ∃ t, exec (.helloReceived p packet) s = .next t ∧ OnlyStatus v t
        let ready := s.onHead p fun h => { left h with link := .ready, recovering := h.recovering || h.link == .failed }
        let last := (s.luFace e.face).lastTriggered
        let stamp := (last.map LineRef.stamp).getD s.mu.s0
        let mismatched := s.onHead p fun h =>
          { left h with
            link := .failed
            recovering := false
            failedLine := if h.link = .failed then h.failedLine else last }
        let reported : State → State := fun u =>
          if s.inspecting then issueFault u .headMismatch (.head p) stamp stamp (helloFields packet).count.toNat else u
        let givenUp : State → State := fun u =>
          if (s.head p).link = .live then givenUpIn u e.face p (s.head p).outstanding else u
        (openLines (s.luFace e.face).stream = [] →
          (fits → answers ready) ∧ (¬fits → s.ru.nextSeq ≠ Config.sequenceLimit → answers (reported mismatched))) ∧
          (∀ v, fits → ReadyAssembled e.face (givenUp ready) v → v.cu.limitEvent = false → answers v) ∧
          ∀ v, ¬fits → ReadyAssembled e.face (reported (givenUp mismatched)) v → v.cu.limitEvent = false → answers v

/-- R23, R32, R33, R34, R35, R41: a packet other than a HELLO. The first check it fails counts it; one that passes all and has the tag
of an outstanding trigger stays in its buffer for that line, and the head is given up in the lines of every earlier trigger, which
leave its list. As long as the oldest unassembled line of the face is not complete, nothing else happens. When the packet or the
give-up completes it, it is assembled, and a complete younger one directly after it, in the same step (`ReadyAssembled`). Then what an
assembly does where every head of the expected set has delivered; `LineDeadline` says what it does to a head that has not. Here no
number given sends the sequence-limit event. -/
def Obligations.LinePacketReceived : Prop :=
  (∀ (p : Port) (packet : Packet) (s : State), Quiescent s →
    let taken := (s.head p).buffers.length < Config.lineBuffers
    let framed := lineFramed packet p ((s.entry p).map HeadEntry.width)
    let counted : (HeadCounters → HeadCounters) → Prop := fun g =>
      ∃ t, exec (.linePacketReceived p packet) s = .next t ∧ OnlyStatus (s.onCounters p g) t
    (s.straps.fitted p = false → ∃ t, exec (.linePacketReceived p packet) s = .next t ∧ OnlyStatus s t) ∧
      (s.straps.fitted p = true → ¬taken → counted fun c => { c with overrun := bump16 c.overrun }) ∧
      (s.straps.fitted p = true → taken → framed = false → counted fun c => { c with framing := bump16 c.framing }) ∧
      (s.straps.fitted p = true → taken → framed = true → lineChecked packet = false →
        counted fun c => { c with check := bump16 c.check }) ∧
      (s.straps.fitted p = true → taken → framed = true → lineChecked packet = true → echoRight s packet = false →
        counted fun c => { c with light := bump16 c.light }) ∧
      (s.straps.fitted p = true → taken → framed = true → lineChecked packet = true → echoRight s packet = true →
        (∀ n ∈ (s.head p).outstanding, n % 256 ≠ lineTag packet) →
        counted fun c => { c with stray := bump16 c.stray }) ∧
      ∀ (earlier : List Nat) (n : Nat) (rest : List Nat), s.straps.fitted p = true → taken → framed = true →
        lineChecked packet = true → echoRight s packet = true → (s.head p).outstanding = earlier ++ n :: rest →
        (∀ m ∈ earlier, m % 256 ≠ lineTag packet) → n % 256 = lineTag packet → n ∉ rest → (∀ m ∈ rest, m ∉ earlier) →
        let f := headFace s p
        let kept :=
          s.onHead p fun h =>
            { h with
              outstanding := rest
              buffers := h.buffers ++ [{ line := n, pixels := linePixels packet }]
              counters := { h.counters with received := bump16 h.counters.received } }
        let u := givenUpIn kept f p earlier
        let answers : State → Prop := fun v => ∃ t, exec (.linePacketReceived p packet) s = .next t ∧ OnlyStatus v t
        ((∀ x ∈ (openLines (u.luFace f).stream).head?, lineComplete u x = false) → answers u) ∧
          ∀ v, ReadyAssembled f u v → v.cu.limitEvent = false → answers v) ∧
    ∀ (f : Face) (line : OpenLine) (s : State),
      let has : Port → Prop := fun q => ∃ b ∈ (s.head q).buffers, b.line = line.desc.number
      (lineComplete s line = true ↔ ∀ q ∈ line.expected, q ∈ line.givenUp ∨ has q) ∧
        ((∀ q ∈ line.expected, has q) → ∀ before after, (s.luFace f).stream = before ++ .opened line :: after →
          openLines before = [] →
          assembleLine s f line =
            { s with
              lu :=
                { heads :=
                    Vector.ofFn fun q =>
                      if q ∈ line.expected then
                        { s.head q with
                          misses := 0
                          buffers := (s.head q).buffers.filter fun b => decide (b.line ≠ line.desc.number) }
                      else s.head q
                  faces :=
                    s.lu.faces.set f
                      { s.luFace f with
                        stream := before ++ .line (buildLine s f line.desc) :: after
                        assembled := (s.luFace f).assembled + 1 } } })

/-- R35 to R41: at its deadline the oldest unassembled line of a face takes its place in the stream as an assembled line. A line whose
deadline has not passed stays. A younger line is assembled after it when it is complete or its own deadline has passed, and else stays.
With no line unassembled nothing happens (log 5). An assembly leaves every other item of the stream in its place and frees the buffers
of the line; a head of the expected set that supplied a packet has its misses cleared; one that did not counts the line as missing, and
when it is LIVE as one more consecutive miss; a LIVE head that so reaches its miss limit is FAILED at this line and given up in the
next one, and the last such head's report in a roll fills the fault capture. What is said of single heads holds where the heads waited
for are entered for their faces, as `StepKeepsLineBuffers` keeps. What a face line holds: each head of the face that owns columns gives
its packet's pixels for them, or, without a good packet, its range to the blind columns; touching blind ranges are joined, in
increasing column order, where no two heads own one column, as R24 has it. -/
def Obligations.LineDeadline : Prop :=
  (∀ (f : Face) (s : State), Quiescent s →
    let answers : State → Prop := fun v => ∃ t, exec (.lineDeadlineExpiry f) s = .next t ∧ OnlyStatus v t
    (openLines (s.luFace f).stream = [] → answers s) ∧
      ∀ (line : OpenLine) (later : List OpenLine), openLines (s.luFace f).stream = line :: later →
        let number := line.desc.number
        let a := assembleLine s f line
        let judged : State → Prop := fun t =>
          StreamItem.line (buildLine s f line.desc) ∈ (t.luFace f).stream ∧
            (t.luFace f).assembled = (s.luFace f).assembled + 1 ∧ t.rx = s.rx ∧ SameDefects s t ∧
            (HeadsEntered s → ∀ p ∈ line.expected,
              ((goodPacket (s.head p) number).isSome = true →
                (t.head p).misses = 0 ∧ (t.head p).counters = (s.head p).counters ∧ (t.head p).link = (s.head p).link) ∧
                ((goodPacket (s.head p) number).isSome = false →
                  (t.head p).counters =
                    { (s.head p).counters with missing := bump16 (s.head p).counters.missing }) ∧
                ((goodPacket (s.head p) number).isSome = false → (s.head p).link ≠ .live →
                  (t.head p).misses = (s.head p).misses ∧ (t.head p).link = (s.head p).link) ∧
                ∀ e : HeadEntry, (goodPacket (s.head p) number).isSome = false → (s.head p).link = .live →
                  s.entry p = some e →
                  ((s.head p).misses + 1 < e.missLimit →
                    (t.head p).misses = (s.head p).misses + 1 ∧ (t.head p).link = .live ∧
                      (t.head p).firstMiss = if (s.head p).misses = 0 then line.desc.stamp else (s.head p).firstMiss) ∧
                    (e.missLimit ≤ (s.head p).misses + 1 →
                      (t.head p).misses = 0 ∧ (t.head p).link = .failed ∧ (t.head p).recovering = false ∧
                        (t.head p).outstanding = [] ∧
                        (t.head p).failedLine = some { number := number, stamp := line.desc.stamp } ∧
                        (line.expected = [p] → s.inspecting = true → s.ru.nextSeq ≠ Config.sequenceLimit →
                          t.ru =
                            (issueFault s .headFailed (.head p)
                              (if (s.head p).misses = 0 then line.desc.stamp else (s.head p).firstMiss) line.desc.stamp
                              e.missLimit).ru ∧
                            t.cu.capture = some { code := .headFailed, stamp := s.mu.h })))
        (deadlinePassed s line = false → answers s) ∧
          (deadlinePassed s line = true →
            (later = [] →
              (∃ t, exec (.lineDeadlineExpiry f) s = .next t ∧ openLines (t.luFace f).stream = [] ∧ judged t) ∧
                (a.cu.limitEvent = false → answers a)) ∧
              ∀ next, later = [next] → a.cu.limitEvent = false →
                ∃ waiting, openLines (a.luFace f).stream = [waiting] ∧ waiting.desc = next.desc ∧
                  waiting.expected = next.expected ∧ waiting.triggerTime = next.triggerTime ∧
                  (HeadsEntered s → next.desc.number ≠ number →
                    ∀ q, q ∈ waiting.givenUp ↔ q ∈ next.givenUp ∨
                      ((s.head q).link = .live ∧ (a.head q).link = .failed ∧ next.desc.number ∈ (s.head q).outstanding)) ∧
                  (lineComplete a waiting = false → deadlinePassed s next = false → answers a) ∧
                  ((lineComplete a waiting = true ∨ deadlinePassed s next = true) →
                    (assembleLine a f waiting).cu.limitEvent = false → answers (assembleLine a f waiting))) ∧
          judged a ∧
          (∀ before after, (s.luFace f).stream = before ++ .opened line :: after → openLines before = [] →
            ∃ rest, (a.luFace f).stream = before ++ .line (buildLine s f line.desc) :: rest ∧ rest.length = after.length ∧
              ∀ (i : Nat) (item : StreamItem), after[i]? = some item → (∀ x, item ≠ .opened x) → rest[i]? = some item) ∧
          (∀ p, p ∈ line.expected →
            (a.head p).buffers = (s.head p).buffers.filter fun b => decide (b.line ≠ number)) ∧
          ∀ p, p ∉ line.expected → a.head p = s.head p) ∧
    (∀ (f : Face) (desc : LineDesc) (s : State),
      let built := buildLine s f desc
      let owns : Port → Range → Prop := fun p r => ∃ e, s.entry p = some e ∧ e.face = f ∧ ownedRange s.headTable p = some r
      let packet : Port → Option LineBuffer := fun p => goodPacket (s.head p) desc.number
      built.desc = desc ∧
        (∀ c, (∃ b ∈ built.blind, b.lo ≤ c ∧ c ≤ b.hi) ↔ ∃ p r, owns p r ∧ packet p = none ∧ r.lo ≤ c ∧ c ≤ r.hi) ∧
        (∀ x, x ∈ built.pixels ↔
          ∃ p r b, owns p r ∧ packet p = some b ∧ x.first = r.lo ∧
            x.values = (b.pixels.drop (r.lo - s.headTable[p].origin)).take (r.hi + 1 - r.lo)) ∧
        (∀ p r b c, owns p r → packet p = some b → r.lo ≤ c → c ≤ r.hi →
          (∀ q x, owns q x → x.lo ≤ c → c ≤ x.hi → q = p) →
          pixelAt built.pixels c = b.pixels[c - s.headTable[p].origin]?) ∧
        ((∀ p q r x, owns p r → owns q x → p ≠ q → r.hi < x.lo ∨ x.hi < r.lo) →
          built.blind.Pairwise fun b d => b.hi + 1 < d.lo)) ∧
    ∀ (h : Head) (number : Nat) (b : LineBuffer), goodPacket h number = some b → b ∈ h.buffers ∧ b.line = number

/-! ## Items of the face streams -/

/-- R43, R45, R47 to R57: the Run Extractor takes the next item of a face and hands it on, by its kind; an unassembled line holds the
stream. A candidate is a column of the lane that is not blind and whose table class shares a bit with the mask of the section and the
lighting. Two neighbouring candidates belong to one run when no more than the bridge lies between them and nothing blind does. The runs
of a lane, from low columns to high, are exactly the whole groups that are as wide as the minimum, each with its candidates' count,
class bits and extreme values, and with BLIND_EDGE when a blind column of the lane lies within bridge + 1 of it. A line item holds the
runs of the lanes in lane order, none when the line is excluded or in WAIT, and at most 512, RUN_FULL marking that there were more. -/
def Obligations.RunExtractorTakesItem : Prop :=
  (∀ (f : Face) (s : State), Quiescent s →
    let r := s.rxFace f
    let takes : StreamItem → RxFace → Prop := fun item after =>
      ∀ rest, (s.luFace f).stream = item :: rest →
        ∃ t, exec (.rxTakeItem f) s = .next t ∧
          OnlyStatus
            { s with
              lu := { s.lu with faces := s.lu.faces.set f { s.luFace f with stream := rest } }
              rx := s.rx.set f after } t
    let handed : HandedKind → List Handed := fun kind => r.handed ++ [{ kind := kind, part := r.inForce }]
    (∀ line : FaceLine,
      takes (.line line)
        { r with
          runFull := if (lineItem (r.inForce.getD FacePart.empty) line).runFull then r.runFull.add line.desc.stamp else r.runFull
          handed := handed (.line (lineItem (r.inForce.getD FacePart.empty) line)) }) ∧
      (∀ desc : LineDesc,
        takes (.skipped desc)
          { r with handed := handed (.line { desc := desc, blind := [], runs := [], runFull := false }) }) ∧
      (∀ item : PatchEnd,
        takes (.patchEnd item) { r with runFull := Tally.empty, handed := handed (.patchEnd item r.runFull) }) ∧
      (∀ item : PatchStart,
        takes (.patchStart item)
          { r with
            inForce := item.part.or r.inForce
            handed := r.handed ++ [{ kind := .patchStart item, part := item.part.or r.inForce }] }) ∧
      takes .spliceClosure { r with handed := handed .spliceClosure } ∧
      (nextItem (s.luFace f).stream = none → ∃ t, exec (.rxTakeItem f) s = .next t ∧ OnlyStatus s t)) ∧
    (∀ (part : FacePart) (line : FaceLine),
      let item := lineItem part line
      let all := ((List.range part.lanes.length).map (laneRuns part line)).flatten
      item.desc = line.desc ∧ item.blind = line.blind ∧
        (line.desc.excluded = true ∨ line.desc.sect = .wait → item.runs = [] ∧ item.runFull = false) ∧
        (line.desc.excluded = false → line.desc.sect ≠ .wait →
          item.runs = all.take 512 ∧ (item.runFull = true ↔ 512 < all.length))) ∧
    (∀ (part : FacePart) (line : FaceLine) (index : Nat),
      let lane := part.lane index
      let mask : Byte :=
        match line.desc.sect, line.desc.lighting with
        | .wait, _ => 0
        | .coated, .r => lane.maskCoatedR
        | .coated, .t => lane.maskCoatedT
        | .gap, .r => lane.maskGapR
        | .gap, .t => lane.maskGapT
      let table := if line.desc.lighting = .r then part.classR else part.classT
      let bits : Byte → Byte := fun v => table.getD v.toNat 0 &&& mask
      let blind : Nat → Prop := fun c => ∃ b ∈ line.blind, b.lo ≤ c ∧ c ≤ b.hi
      let candidate : Nat → Byte → Prop := fun c v =>
        lane.first ≤ c ∧ c ≤ lane.last ∧ ¬blind c ∧ pixelAt line.pixels c = some v ∧ bits v ≠ 0
      let neighbours : Nat → Nat → Prop := fun a b =>
        a < b ∧ (∃ v, candidate a v) ∧ (∃ v, candidate b v) ∧ ∀ c v, a < c → c < b → ¬candidate c v
      let linked : Nat → Nat → Prop := fun a b =>
        neighbours a b ∧ b - a - 1 ≤ lane.bridge ∧ ∀ c, a < c → c < b → ¬blind c
      let within : Run → Nat → Byte → Prop := fun r c v => r.first ≤ c ∧ c ≤ r.last ∧ candidate c v
      let whole : Run → Prop := fun r =>
        r.first ≤ r.last ∧ (∃ v, candidate r.first v) ∧ (∃ v, candidate r.last v) ∧
          (∀ a b, r.first ≤ a → b ≤ r.last → neighbours a b → linked a b) ∧
          (∀ c, ¬linked c r.first) ∧ ∀ c, ¬linked r.last c
      let carries : Run → Prop := fun r =>
        (∃ columns : List Nat, columns.Nodup ∧ (∀ c, c ∈ columns ↔ ∃ v, within r c v) ∧ r.pixels = columns.length) ∧
          (∀ i, r.classBits.getLsbD i = true ↔ ∃ c v, within r c v ∧ (bits v).getLsbD i = true) ∧
          (∀ c v, within r c v → r.minValue ≤ v ∧ v ≤ r.maxValue) ∧
          (∃ c, within r c r.minValue) ∧ (∃ c, within r c r.maxValue) ∧
          (r.blindEdge = true ↔
            ∃ c, blind c ∧
              (lane.first ≤ c ∧ c < r.first ∧ r.first ≤ c + lane.bridge + 1 ∨
                r.last < c ∧ c ≤ r.last + lane.bridge + 1 ∧ c ≤ lane.last))
      (laneRuns part line index).Pairwise (fun a b => a.last < b.first) ∧
        ∀ r, r ∈ laneRuns part line index ↔
          r.lane = index ∧ whole r ∧ carries r ∧ lane.minWidth ≤ r.last - r.first + 1) ∧
    ∀ (before after : List PixelSpan) (x : PixelSpan) (c : Nat),
      let holds : PixelSpan → Prop := fun y => y.first ≤ c ∧ c < y.first + y.values.length
      ((∀ y ∈ before, ¬holds y) → holds x → pixelAt (before ++ x :: after) c = x.values[c - x.first]?) ∧
        ((∀ y ∈ before, ¬holds y) → pixelAt before c = none)

/-- R60, R79, R103, R109: a line item goes through the Track Engine's stages, then its unclaimed runs are offered to the spots, quiet
spots close, grown spots are handed over, and the closures and the line's progress reach the Pairing Unit (that closures act after
every record of the line rests on log 35, the order of tracks and of lanes on logs 16 and 36, and that of the line's doubts on log 42);
here the records it issues send no limit event. Then three lines written out, with no entry of the pairing list waiting for them: one
without runs and with nothing open on the face, which logs its doubts; one whose one run opens the face's first spot, which becomes the
horizon; one on a face with one track and no spot, whose every run that track claims: what the count and the change stage do to the
track is all that happens before the progress. -/
def Obligations.LineItemProcessed : Prop :=
  ∀ (f : Face) (h : Handed) (item : LineItem) (rest : List Handed) (s : State), Quiescent s →
    (s.rxFace f).handed = h :: rest → h.kind = .line item →
    let part := h.part.getD FacePart.empty
    let stamp := item.desc.stamp
    let popped : State := { s with rx := s.rx.set f { s.rxFace f with handed := rest } }
    let remembered : State → State := fun u =>
      { u with te := { u.te with faces := u.te.faces.set f { u.teFace f with lastPart := some part } } }
    let progressed : Int → State → State := fun through u =>
      discardLogs
        { u with
          pu :=
            { u.pu with
              faces :=
                u.pu.faces.set f
                  { (if u.pu.active then lineDoubts u f item else []).foldl (logDoubt stamp) (u.puFace f) with
                    processed := through
                    lastLine := some stamp } } }
    (let tracked := trackLine popped f part item
     let offered := (remembered tracked.1).onSmFace f fun m => tracked.2.foldl (offerRun part item.desc) m
     let quieted := quietStep offered f part item
     let handed := handoverStep quieted.state f part item.desc
     let u := lineProgress (quieted.closures.foldl takeClosure handed) f item (horizon handed f)
     u.cu.limitEvent = false → ∃ t, exec (.teLineItem f) s = .next t ∧ OnlyStatus u t) ∧
      (item.runs = [] → TablesFree s f → NoneDue s f stamp →
        ∃ t, exec (.teLineItem f) s = .next t ∧ OnlyStatus (progressed stamp (remembered popped)) t) ∧
      (∀ r : Run, item.runs = [r] → TablesFree s f → NoneDue s f (stamp - 1) → item.desc.skipped = false →
        1 < part.streakStart →
        ∃ t, exec (.teLineItem f) s = .next t ∧
          OnlyStatus
            (progressed (stamp - 1)
              { remembered popped with
                sm :=
                  s.sm.set f
                    { s.smFace f with spots := (s.smFace f).spots.set 0 (some (openSpot item.desc r)) } }) t) ∧
      ∀ (i : Fin 24) (x : Track), (s.teFace f).tracks[i] = some x →
        (∀ j : Fin 24, j ≠ i → (s.teFace f).tracks[j] = none) → (∀ j : Fin 64, (s.smFace f).spots[j] = none) →
        (∀ r ∈ item.runs, candidateFor part item.desc r x = true) →
        (∀ r ∈ item.runs, (part.lane r.lane).kind = .coated) → (item.runs ≠ [] → item.desc.sect = .coated) →
        let counted := countOne part f item (item.runs.map fun r => { run := r, track := some i }) popped (i, x)
        let changed := changeOne part f item.desc counted i
        NoneDue s f stamp → changed.cu.limitEvent = false →
        ∃ t, exec (.teLineItem f) s = .next t ∧ OnlyStatus (progressed stamp (remembered changed)) t

/-- R17, R18, R73, R101, R109, R113, R181: a patch-end item with nothing open on the face, every tally empty and no entry of the
pairing list waiting for the face: one PATCH record is issued, with the EDGE_EXTRA mark as it then stands, which is cleared (log 30),
the two large counts sum and saturate (log 34), the per-patch counts return to 0, a sample is started in a roll (after the reports, log
44), and a finishing item finishes the face for the Pairing Unit after the record, also in CLOSING (log 14). In STOPPING an item that
finishes the second face ends the roll with reason STOP (R162), whatever else it brings. -/
def Obligations.PatchEndProcessed : Prop :=
  ∀ (f : Face) (h : Handed) (item : PatchEnd) (rest : List Handed) (s : State), Quiescent s →
    (s.rxFace f).handed = h :: rest →
    (h.kind = .patchEnd item Tally.empty → (item.finishing = false ∨ s.cu.state ≠ .stopping) → TablesFree s f →
      NoneDue s f ((s.puFace f).lastLine.getD (s.puFace f).processed) →
      (item.finishing = true → ∀ e ∈ s.pu.list, e.closure.face = f) → s.mu.jumps = Tally.empty →
      (s.muFace f).overflow = Tally.empty → (s.smFace f).full = Tally.empty → (s.teFace f).full = Tally.empty →
      s.xu.sample = none → s.ru.nextSeq ≠ Config.sequenceLimit → s.ru.nextSeq ≤ Config.lastSequence →
      s.ru.tallyOpen = false → slotsOf s.ru.queue < Config.holdingSlots →
      let m := s.smFace f
      let e := s.teFace f
      let body : RecordBody :=
        .patch f item.index item.first item.last item.flags (s.muFace f).edgeExtra m.pinholes m.spotted
          (satAdd max16 m.larges e.larges) e.confirmations m.noise
      let passed :=
        discardLogs
          { s with
            pu :=
              { s.pu with
                faces :=
                  s.pu.faces.set f
                    { s.puFace f with processed := (s.puFace f).lastLine.getD (s.puFace f).processed } } }
      ∃ t, exec (.tePatchEndItem f) s = .next t ∧
        OnlyStatus
          { s with
            mu := { s.mu with faces := s.mu.faces.set f { s.muFace f with edgeExtra := false } }
            rx := s.rx.set f { s.rxFace f with handed := rest }
            te := { s.te with faces := s.te.faces.set f { e with confirmations := 0, larges := 0 } }
            sm := s.sm.set f { m with pinholes := 0, spotted := 0, larges := 0, noise := 0 }
            pu := if item.finishing then (finishPairing passed f).pu else passed.pu
            xu := if s.inspecting then { s.xu with sample := some 0 } else s.xu
            out :=
              if s.inspecting then s.out ++ [.busRead s.xu.xbase 8, .busRead (s.xu.xbase + 0x400#64) 4] else s.out
            ru :=
              { s.ru with
                nextSeq := s.ru.nextSeq + 1
                queue := s.ru.queue ++ [{ seq := s.ru.nextSeq, mark := .none, body := body }] } } t) ∧
      ∀ runFull : Tally, h.kind = .patchEnd item runFull → item.finishing = true → s.cu.state = .stopping →
        (s.puFace (otherFace f)).finished = true →
        ∃ t, exec (.tePatchEndItem f) s = .next t ∧ t.cu.state = .closing ∧ t.cu.endReason = some .stop ∧
          (t.puFace f).finished = true

/-- R17, R94, R95, R109, R126: a patch-start item, with nothing open on the face and no entry of the pairing list waiting for it. On
the upper face it clears the break flag when auto-resume is on and the break input inactive. One that carries a face part leaves no
track of the face active, whatever was open (R95). -/
def Obligations.PatchStartProcessed : Prop :=
  ∀ (f : Face) (h : Handed) (item : PatchStart) (rest : List Handed) (s : State), Quiescent s →
    (s.rxFace f).handed = h :: rest → h.kind = .patchStart item →
    (TablesFree s f → NoneDue s f ((s.puFace f).lastLine.getD (s.puFace f).processed) →
      let resumes := f = .upper ∧ s.ku.breakFlag = true ∧ s.pins.breakInput = false ∧
        ∃ sp, s.shared = some sp ∧ sp.autoResume = true
      let u : State :=
        discardLogs
          { s with
            rx := s.rx.set f { s.rxFace f with handed := rest }
            te := { s.te with faces := s.te.faces.set f { s.teFace f with patchStart := item.stamp } }
            pu :=
              { s.pu with
                faces :=
                  s.pu.faces.set f
                    { s.puFace f with processed := (s.puFace f).lastLine.getD (s.puFace f).processed } } }
      (resumes →
        ∃ t, exec (.tePatchStartItem f) s = .next t ∧
          OnlyStatus { u with ku := { u.ku with a := .idle, b := .idle, breakFlag := false } } t) ∧
        (¬resumes → ∃ t, exec (.tePatchStartItem f) s = .next t ∧ OnlyStatus u t)) ∧
      ∃ t, exec (.tePatchStartItem f) s = .next t ∧ (t.teFace f).patchStart = item.stamp ∧
        (∀ i : Fin 64, (t.smFace f).spots[i] = none) ∧
        (item.part.isSome = true → ∀ i : Fin 24, (t.teFace f).tracks[i] = none)

/-- R68, R96: after a splice closure item no track of the face is active and no spot of it is open, and the item has been taken. -/
def Obligations.SpliceClosureCuts : Prop :=
  ∀ (f : Face) (h : Handed) (rest : List Handed) (s : State), Quiescent s → (s.rxFace f).handed = h :: rest →
    h.kind = .spliceClosure →
    ∃ t, exec (.teSpliceClosureItem f) s = .next t ∧ TablesFree t f ∧ t.rx = s.rx.set f { s.rxFace f with handed := rest } ∧
      t.te.faces.get (otherFace f) = s.te.faces.get (otherFace f) ∧ t.sm.get (otherFace f) = s.sm.get (otherFace f)

/-- R164, R165, R170: close-out steps 1 to 6: no spot, no track, no pairing entry and no queued mark is left, the tallies are clear and
ROLL_END has been taken. With the abandon mark set the waiting records are given up then, and close-out ends at once or with the final
post. -/
def Obligations.CloseoutRuns : Prop :=
  ∀ s : State, Quiescent s → s.cu.state = .closing → s.cu.phase = .waiting → streamsPassed s = true →
    ∃ t, exec .closeoutBegin s = .next t ∧ (∀ f, TablesFree t f) ∧ t.pu.list = [] ∧ t.ku.queue = [] ∧
      t.mu.jumps = Tally.empty ∧ (∀ f, (t.muFace f).overflow = Tally.empty ∧ (t.rxFace f).runFull = Tally.empty ∧
        (t.smFace f).full = Tally.empty ∧ (t.teFace f).full = Tally.empty) ∧
      t.ru.rollEndTaken = true ∧ t.cu.phase ≠ .waiting ∧ t.mu.p = s.mu.p ∧ t.mu.h = s.mu.h ∧
      (s.cu.abandon = true → t.ru.queue = [] ∧ t.ru.abandoned = true ∧ (s.xu.posting = none → AbandonEnds s t))

/-! ## The holding queue, pages and the status block -/

/-- R139, R142, R165, R185: a drain writes the head record into the filling page; the page is posted when its last slot is used or when
the record does not fit. After the drain, and before a full page is posted (log 47), the loss test is made, which `LossTallyCloses`
states; with the tally closed nothing follows, and with it open the drain is all that comes before it. In step 7 of close-out the drain
of the last record, with the page not full and the tally closed, is followed by the final post. With no page filling or no record
waiting nothing drains. -/
def Obligations.HoldingQueueDrains : Prop :=
  ∀ s : State, Quiescent s →
    (∀ (page : Page) (x : Record) (rest : List Record), s.xu.filling = some page → s.ru.queue = x :: rest →
      let page1 := { page with used := page.used + x.body.slots, records := page.records ++ [x] }
      let u : State :=
        { s with
          ru := { s.ru with queue := rest }
          xu := { s.xu with filling := some page1 }
          out := s.out ++ [.busWrite (page.address + BitVec.ofNat 64 (64 + 32 * page.used)) (recordBytes x)] }
      let outside := s.cu.state ≠ .closing ∨ s.cu.phase ≠ .drain
      (outside → s.ru.tallyOpen = false → page.used + x.body.slots < Config.pageSlots →
        ∃ t, exec .holdingQueueDrain s = .next t ∧ OnlyStatus u t) ∧
        (outside → s.ru.tallyOpen = false → page.used + x.body.slots = Config.pageSlots →
          ∃ t, exec .holdingQueueDrain s = .next t ∧ OnlyStatus (postBegun u page1 .full) t) ∧
        (outside → Config.pageSlots < page.used + x.body.slots → page.records ≠ [] →
          ∃ t, exec .holdingQueueDrain s = .next t ∧ OnlyStatus (postBegun s page .full) t) ∧
        (outside → s.ru.tallyOpen = true → page.used + x.body.slots < Config.pageSlots →
          (testLoss u).cu.limitEvent = false → ∃ t, exec .holdingQueueDrain s = .next t ∧ OnlyStatus (testLoss u) t) ∧
        (outside → s.ru.tallyOpen = true → page.used + x.body.slots = Config.pageSlots →
          (testLoss u).cu.limitEvent = false →
          ∃ t, exec .holdingQueueDrain s = .next t ∧ OnlyStatus (postBegun (testLoss u) page1 .full) t) ∧
        (s.cu.state = .closing → s.cu.phase = .drain → s.ru.abandoned = false → s.xu.posting = none → rest = [] →
          s.ru.tallyOpen = false → page.used + x.body.slots < Config.pageSlots →
          let v := postBegun u page1 (if s.cu.endReason = some .halt then .halt else .rollEnd)
          ∃ t, exec .holdingQueueDrain s = .next t ∧ OnlyStatus { v with cu := { v.cu with phase := .final } } t)) ∧
      ((s.xu.filling = none ∨ s.ru.queue = []) → ∃ t, exec .holdingQueueDrain s = .next t ∧ OnlyStatus s t)

/-- R141, R142, R143: the test of the loss tally. It fails while the tally is closed, fewer than eight slots are free, the abandon mark
has acted or the last number has been given, and then nothing happens. When it passes, one LOSS record for each entry takes the next
numbers: the oldest run first, which is the earliest entered whatever its sequence, and the scattered entry last. Up to eight entries
are reported at once and the tally closes; of more runs the eight oldest are reported and the tally stays open when the queue has no
room for eight more. Nothing but the reporting blocks changes, and LOSS is raised. -/
def Obligations.LossTallyCloses : Prop :=
  ∀ (s : State) (aged : List LossRun), aged.Perm s.ru.runs → aged.Pairwise (fun a b => a.entered < b.entered) →
    let r := s.ru
    let scattered := if r.scattered.count = 0 then [] else [r.scattered]
    let entries := aged ++ scattered
    let reported : List LossRun → List Record := fun runs =>
      runs.mapIdx fun i run =>
        { seq := r.nextSeq + i
          mark := .none
          body := .loss run.first run.count run.firstStamp run.lastStamp run.groups.pinhole run.groups.streak }
    let t := testLoss s
    OnlyReporting s t ∧
      ((r.tallyOpen = false ∨ 56 < slotsOf r.queue ∨ r.abandoned = true ∨ 4294967295 < r.nextSeq) → t = s) ∧
      (r.tallyOpen = true → slotsOf r.queue ≤ 56 → r.abandoned = false → r.nextSeq ≤ 4294967295 →
        (entries.length ≤ 8 → r.nextSeq + entries.length ≤ 4294967296 →
          t.ru =
              { r with
                nextSeq := r.nextSeq + entries.length
                queue := r.queue ++ reported entries
                runs := []
                scattered := if r.scattered.count = 0 then r.scattered else LossRun.empty
                tallyOpen := false } ∧
            (entries ≠ [] → t.xu.flags.getLsbD 6 = true)) ∧
          (8 < aged.length → 48 < slotsOf r.queue → r.nextSeq + 8 ≤ 4294967296 →
            t.ru =
                { r with
                  nextSeq := r.nextSeq + 8
                  queue := r.queue ++ reported (aged.take 8)
                  runs := r.runs.filter fun x => decide (x ∉ aged.take 8) } ∧
              t.xu.flags.getLsbD 6 = true))

/-- R183, R184: every invalid descriptor at the cursor is skipped, each counted as consumed and reported as STOCK_INVALID, whether or
not pages of it had been taken. Then a page is taken from the first valid one, or, when none is available, the empty stock is raised
once in a spell. An available count above 16 counts as an empty stock. With no record waiting, a page filling or a post in progress
none is taken. -/
def Obligations.PageTaken : Prop :=
  ∀ s : State, Quiescent s →
    let available := (s.xu.seenWritten - s.xu.consumed).toNat
    let upcoming : Nat → Descriptor := fun j =>
      s.xu.descriptors[(⟨(s.xu.consumed.toNat + j) % 16, Nat.mod_lt _ (by decide)⟩ : Fin 16)]
    let valid : Descriptor → Prop := fun d => d.pages ≠ 0 ∧ d.address &&& 0xFFF#64 = 0
    let skip : State → State := fun u =>
      captureFault { u with xu := { u.xu with consumed := u.xu.consumed + 1, pagesTaken := 0 } } .stockInvalid
    let wanted := s.ru.queue ≠ [] ∧ s.xu.filling = none ∧ s.xu.posting = none
    (∀ n : Nat, wanted → available ≤ 16 → n < available → (∀ j < n, ¬valid (upcoming j)) → valid (upcoming n) →
      let u := skip^[n] s
      let d := upcoming n
      ∃ t, exec .pageTake s = .next t ∧
        OnlyStatus
          { u with
            xu :=
              { u.xu with
                filling :=
                  some
                    { address := d.address + 4096#64 * u.xu.pagesTaken.setWidth 64, used := 0, records := [], age := 0 }
                consumed := if u.xu.pagesTaken + 1 = d.pages then u.xu.consumed + 1 else u.xu.consumed
                pagesTaken := if u.xu.pagesTaken + 1 = d.pages then 0 else u.xu.pagesTaken + 1
                emptySpell := false } } t) ∧
      (∀ n : Nat, wanted → (n = available ∧ n ≤ 16 ∨ n = 0 ∧ 16 < available) → (∀ j < n, ¬valid (upcoming j)) →
        let u := skip^[n] s
        ∃ t, exec .pageTake s = .next t ∧
          OnlyStatus
            (if u.xu.emptySpell then u else raise { u with xu := { u.xu with emptySpell := true } } .stockEmpty) t) ∧
      (¬wanted → ∃ t, exec .pageTake s = .next t ∧ OnlyStatus s t)

/-- R161, R165, R170, R187, R189: a post has succeeded: the page counts as posted, and the status block is written, the write owing
POSTED. It begins at once, or joins POSTED to the one further write that follows the write in progress, and with XBASE at 0 POSTED is
raised at once (logs 9 and 12, as `StatusBlockWritten` states them). Outside step 7 of close-out nothing follows. The final post ends
close-out, and the state becomes IDLE or OFF as ENABLE stands. A post that ends in the drain leaves the part draining while a record
waits or the tally is open; else close-out ends, or its final post begins where a page holds records. With no post in progress nothing
happens (log 5). -/
def Obligations.PostSucceeds : Prop :=
  ∀ s : State, Quiescent s →
    (∀ p : Posting, s.xu.posting = some p →
      let u :=
        wantStatus
          { s with
            xu := { s.xu with posting := none, lastPosted := p.page.address, nextPage := s.xu.nextPage + 1 } }
          owesPosted
      let drained := s.ru.abandoned = true ∨ s.ru.queue = [] ∧ s.ru.tallyOpen = false
      (s.cu.phase ≠ .final → (s.cu.state ≠ .closing ∨ s.cu.phase ≠ .drain ∨ ¬drained) →
        ∃ t, exec .postComplete s = .next t ∧ OnlyStatus u t) ∧
        (s.cu.phase = .final → ∃ t, exec .postComplete s = .next t ∧ OnlyStatus (closeoutEnded u) t) ∧
        (s.cu.state = .closing → s.cu.phase = .drain → drained →
          ((∀ page ∈ s.xu.filling, page.records = []) →
            ∃ t, exec .postComplete s = .next t ∧ OnlyStatus (closeoutEnded u) t) ∧
            ∀ page, s.xu.filling = some page → page.records ≠ [] →
              let v := postBegun u page (if s.ru.abandoned ∨ s.cu.endReason = some .halt then .halt else .rollEnd)
              ∃ t, exec .postComplete s = .next t ∧ OnlyStatus { v with cu := { v.cu with phase := .final } } t)) ∧
      (s.xu.posting = none → ∃ t, exec .postComplete s = .next t ∧ OnlyStatus s t)

/-- R144, R146, R165, R188, R189: a page fails, the one being posted or the filling one. Its records join the loss tally in their order
at the present H and count as lost, the loss test is made, and PAGE_WRITE is issued with their number, or goes to the fault capture
alone once ROLL_END has been taken; a failed post is followed by a status block write and uses up no page sequence. A failed final post
sends close-out back to its drain, or ends it once the records have been given up. That an earlier post still in progress when the
records are given up in the drain holds close-out open, so that its failure, like that of the last page, ends it there, is the model's
choice (log 13). Here no number given sends the sequence-limit event. With no page in hand nothing happens (log 5), and a page that
holds no record has had nothing written to it (log 27). -/
def Obligations.PageWriteFails : Prop :=
  ∀ s : State, Quiescent s →
    let faulted : State → List Record → State := fun u lost =>
      let v := testLoss (lost.foldl loseRecord u)
      if u.ru.rollEndTaken then captureFault v .pageWrite
      else issueFault v .pageWrite .none s.mu.h s.mu.h lost.length
    (∀ p : Posting, s.xu.posting = some p →
      let u := faulted { s with xu := { s.xu with posting := none } } p.page.records
      let v := wantStatus u Owed.none
      let drains := s.cu.state = .closing ∧ s.cu.phase = .drain
      (s.cu.phase ≠ .final → (¬drains ∨ s.ru.abandoned = false ∧ p.page.records ≠ []) → u.cu.limitEvent = false →
        ∃ t, exec .pageWriteFailure s = .next t ∧ OnlyStatus v t) ∧
        (drains → s.ru.abandoned = true → s.xu.filling = none → u.cu.limitEvent = false →
          ∃ t, exec .pageWriteFailure s = .next t ∧ OnlyStatus (closeoutEnded v) t) ∧
        (s.cu.phase = .final → s.ru.abandoned = true → u.cu.limitEvent = false →
          ∃ t, exec .pageWriteFailure s = .next t ∧ OnlyStatus (closeoutEnded v) t) ∧
        (s.cu.phase = .final → s.ru.abandoned = false → p.page.records ≠ [] → u.cu.limitEvent = false →
          ∃ t, exec .pageWriteFailure s = .next t ∧ OnlyStatus { v with cu := { v.cu with phase := .drain } } t) ∧
        (PagesOk s.xu → (∀ f, (s.muFace f).skip = Tally.empty) →
          ∃ t, exec .pageWriteFailure s = .next t ∧ t.xu.posting = none ∧ t.xu.nextPage = s.xu.nextPage ∧
            t.xu.lastPosted = s.xu.lastPosted ∧ t.cu.capture = some { code := .pageWrite, stamp := s.mu.h } ∧
            t.xu.flags.getLsbD 4 = true ∧ t.te = s.te ∧ t.sm = s.sm ∧ t.pu = s.pu ∧ t.ku = s.ku)) ∧
      (∀ page : Page, s.xu.posting = none → s.xu.filling = some page →
        let u := faulted { s with xu := { s.xu with filling := none } } page.records
        let drains := s.cu.state = .closing ∧ s.cu.phase = .drain
        (page.records ≠ [] → (¬drains ∨ s.ru.abandoned = false) → u.cu.limitEvent = false →
          ∃ t, exec .pageWriteFailure s = .next t ∧ OnlyStatus u t) ∧
          (page.records ≠ [] → drains → s.ru.abandoned = true → u.cu.limitEvent = false →
            ∃ t, exec .pageWriteFailure s = .next t ∧ OnlyStatus (closeoutEnded u) t) ∧
          (page.records = [] → ∃ t, exec .pageWriteFailure s = .next t ∧ OnlyStatus s t)) ∧
      (s.xu.posting = none → s.xu.filling = none → ∃ t, exec .pageWriteFailure s = .next t ∧ OnlyStatus s t) ∧
      ∀ (u : State) (x : Record),
        loseRecord u x =
          { u with ru := { joinLoss u.ru x.seq u.mu.h x.body with lostTotal := bump32 u.ru.lostTotal } }

/-- R187, R189, R190: a status block write ends. What it owed is raised, POSTED first (log 45); a failed one is reported first and
leaves the changed mark set. The further write, where a trigger has come meanwhile, then begins at once (logs 9 and 49). With no write
in progress nothing happens (log 5). -/
def Obligations.StatusWriteEnds : Prop :=
  ∀ s : State, Quiescent s →
    (∀ w : StatusWrite, s.xu.statusWrite = some w →
      let paid : State → State := fun u =>
        let v := if w.owed.posted then raise u .posted else u
        if w.owed.orders then raise v .orders else v
      let further : State → State := fun u =>
        match s.xu.statusWanted with
        | none => u
        | some owed => wantStatus u owed
      let ended : State := { s with xu := { s.xu with statusWrite := none, statusWanted := none } }
      (∃ t, exec .statusWriteComplete s = .next t ∧ OnlyStatus (further (paid ended)) t) ∧
        ∃ t, exec .statusWriteFailure s = .next t ∧
          OnlyStatus
            (further (paid (captureFault { ended with xu := { ended.xu with changed := true } } .statusWrite))) t) ∧
      (s.xu.statusWrite = none →
        (∃ t, exec .statusWriteComplete s = .next t ∧ OnlyStatus s t) ∧
          ∃ t, exec .statusWriteFailure s = .next t ∧ OnlyStatus s t)

/-- R182, R187, R189, R196: what asking for a status block write does, and what the block shows. With no write in progress and XBASE
not 0 the write begins: opening stamp, contents as the state stands, closing stamp, completion read; it clears the changed mark. While
a write is in progress one further write is noted, with every cause asked for meanwhile (log 12). With XBASE at 0 no write is made, and
the causes it would owe are raised at once (log 12), POSTED first (log 45). At the end of a step the changed mark is set when the
fields differ from those captured by the write in progress, or with none in progress from those before the step (log 9). Fields with
nothing to show are those of log 50. The fields of the state each stand at their offset in the bytes before the closing stamp. -/
def Obligations.StatusBlockWritten : Prop :=
  (∀ (s : State) (owed : Owed),
    let stamp := s.xu.statusStamp + 1
    let fields := statusFields s
    (s.xu.statusWrite = none → s.xu.xbase ≠ 0 →
      wantStatus s owed =
        { s with
          xu :=
            { s.xu with
              statusStamp := stamp
              changed := false
              statusWrite := some { owed := owed, contents := fields, waited := 0 } }
          out :=
            s.out ++
              [.busWrite (s.xu.xbase + 0x1000#64) (le32 stamp.toNat),
                .busWrite (s.xu.xbase + 0x1004#64) ((statusBytes stamp fields).drop 4),
                .busWrite (s.xu.xbase + 0x1FFC#64) (le32 stamp.toNat), .busRead (s.xu.xbase + 0x1FFC#64) 4] }) ∧
      (s.xu.statusWrite = none → s.xu.xbase = 0 →
        wantStatus s owed =
          (let v := if owed.posted then raise s .posted else s
           if owed.orders then raise v .orders else v)) ∧
      (s.xu.statusWrite.isSome = true →
        wantStatus s owed =
          { s with
            xu :=
              { s.xu with
                statusWanted :=
                  some
                    { posted := (s.xu.statusWanted.any fun o => o.posted) || owed.posted
                      orders := (s.xu.statusWanted.any fun o => o.orders) || owed.orders } } })) ∧
    (∀ before s : State,
      let basis := (s.xu.statusWrite.map StatusWrite.contents).getD (statusFields before)
      (basis = statusFields s → markChanged before s = s) ∧
        (basis ≠ statusFields s → markChanged before s = { s with xu := { s.xu with changed := true } })) ∧
    (∀ (s : State) (f : Face),
      let x := statusFields s
      let y := if f = .upper then x.upper else x.lower
      x.state = s.cu.state ∧ x.rollId = s.cu.rollId ∧ x.p = s.mu.p ∧ x.h = s.mu.h ∧ x.taken = s.xu.taken ∧
        x.results = s.xu.results.toList ∧ x.consumed = s.xu.consumed ∧ x.pagesTaken = s.xu.pagesTaken ∧
        x.postedPage = s.xu.nextPage - 1 ∧ x.postedAt = s.xu.lastPosted ∧ x.issued = s.ru.nextSeq - 1 ∧
        x.lostTotal = s.ru.lostTotal ∧ x.capture = s.cu.capture ∧ x.flags = s.xu.flags ∧
        x.outstanding = s.xu.outstanding ∧ x.breakFlag = s.ku.breakFlag ∧ x.marks = s.ku.counters ∧
        (∀ p : Port, x.heads[p.val]? = some { link := (s.head p).link, counters := (s.head p).counters }) ∧
        y.sect = (s.muFace f).sect ∧ y.patchIndex = (s.muFace f).patchIndex ∧
        y.assembled = (s.luFace f).assembled ∧ y.openStreaks = (s.teFace f).openStreaks ∧
        ((s.rsFace f).active = none → y.activeSlot = 0xFF) ∧
        (∀ part, (s.rsFace f).active = some part → y.activeSlot = part.slot.toNat ∧ y.activeId = part.id) ∧
        ((s.rsFace f).pending = none → y.pendingSlot = 0xFF) ∧
        ∀ part, (s.rsFace f).pending = some part → y.pendingSlot = part.slot.toNat) ∧
    ∀ (stamp : Word) (x : StatusFields), x.results.length = 16 → x.heads.length = 8 →
      let bytes := statusBytes stamp x
      let holds : Nat → List Byte → Prop := fun offset field => (bytes.drop offset).take field.length = field
      let face : FaceStatus → List Byte := fun y =>
        [BitVec.ofNat 8 y.sect.code, BitVec.ofNat 8 y.activeSlot, BitVec.ofNat 8 y.pendingSlot, BitVec.ofNat 8 y.openStreaks]
          ++ le32 y.patchIndex.toNat ++ le32 y.activeId.toNat ++ le32 y.assembled.toNat
      let k := x.marks
      bytes.length = 0xFFC ∧ holds 0x000 (le32 stamp.toNat) ∧ holds 0x004 [BitVec.ofNat 8 x.state.code] ∧
        holds 0x008 (le32 x.rollId.toNat) ∧ holds 0x010 (leInt32 x.p) ∧ holds 0x014 (leInt32 x.h) ∧
        holds 0x020 (face x.upper) ∧ holds 0x040 (face x.lower) ∧ holds 0x060 (le32 x.taken.toNat) ∧
        (∀ (i : Nat) (r : OrderResult), x.results[i]? = some r →
          holds (0x080 + 4 * i) ([BitVec.ofNat 8 r.code.code, BitVec.ofNat 8 r.check] ++ le16 r.offset)) ∧
        holds 0x0C0 (le32 x.consumed.toNat) ∧ holds 0x0C4 (le16 x.pagesTaken.toNat) ∧
        holds 0x0C8 (le32 x.postedPage.toNat) ∧ holds 0x0D0 (le64 x.postedAt.toNat) ∧ holds 0x0D8 (le32 x.issued) ∧
        holds 0x0DC (le32 x.lostTotal) ∧ (x.capture = none → holds 0x0E0 [0#8]) ∧
        (∀ c, x.capture = some c → holds 0x0E0 [BitVec.ofNat 8 c.code.code] ∧ holds 0x0E4 (leInt32 c.stamp)) ∧
        holds 0x0E8 [x.flags, x.outstanding.setWidth 8, if x.breakFlag then 1#8 else 0#8] ∧
        holds 0x100
          (le32 k.fired ++ le32 k.merged ++ le32 k.late ++ le32 k.full ++ le32 k.missed ++ le32 k.cut) ∧
        ∀ (i : Nat) (y : HeadStatus), x.heads[i]? = some y →
          holds (0x200 + 32 * i) [BitVec.ofNat 8 y.link.code] ∧
            holds (0x202 + 32 * i)
              (le16 y.counters.received ++ le16 y.counters.missing ++ le16 y.counters.framing ++ le16 y.counters.check
                ++ le16 y.counters.overrun ++ le16 y.counters.stray ++ le16 y.counters.light)

/-! ## Ticks that have come due, and bus reads -/

/-- R22, R181, R186, R189: the poll tick, which writes the status block when the changed mark is set, after the reads of its sample
(log 44), the post age and the stall time. The poll count restarts at every poll tick (log 10). The stall event is raised whether or
not a page holds records, and posts the one that does. What is not due changes nothing (log 5): a poll tick in OFF or before its
interval, an age below the post age or of a page without records, a stall count below the stall time, in OFF, with no active recipe or
after the event. -/
def Obligations.TicksComeDue : Prop :=
  ∀ s : State, Quiescent s →
    let written : State → State := fun u => if s.xu.changed then wantStatus u Owed.none else u
    (s.cu.state ≠ .off → s.xu.pollDue = true → s.xu.sample = none →
      ∃ t, exec .pollTick s = .next t ∧
        OnlyStatus (written
          { s with
            xu := { s.xu with pollCount := 0, pollDue := false, sample := some 0 }
            out := s.out ++ [.busRead s.xu.xbase 8, .busRead (s.xu.xbase + 0x400#64) 4] }) t) ∧
      (s.cu.state ≠ .off → s.xu.pollDue = true → s.xu.sample.isSome = true →
        ∃ t, exec .pollTick s = .next t ∧
          OnlyStatus (written { s with xu := { s.xu with pollCount := 0, pollDue := false, resample := true } }) t) ∧
      (s.cu.state = .off → ∃ t, exec .pollTick s = .next t ∧ OnlyStatus s t) ∧
      (s.xu.pollDue = false → ∃ t, exec .pollTick s = .next t ∧ OnlyStatus s t) ∧
      (∀ (page : Page) (sp : SharedPart), s.xu.filling = some page → page.records ≠ [] → s.shared = some sp →
        (sp.postAge ≤ page.age → ∃ t, exec .pageAgeExpiry s = .next t ∧ OnlyStatus (postBegun s page .age) t) ∧
          (page.age < sp.postAge → ∃ t, exec .pageAgeExpiry s = .next t ∧ OnlyStatus s t) ∧
          (s.cu.state ≠ .off → s.mu.stallRaised = false → sp.stallTime ≤ s.mu.stallCount →
            ∃ t, exec .stallExpiry s = .next t ∧
              OnlyStatus (postBegun { s with mu := { s.mu with stallRaised := true } } page .stall) t)) ∧
      ((∀ page ∈ s.xu.filling, page.records = []) ∨ s.shared = none →
        ∃ t, exec .pageAgeExpiry s = .next t ∧ OnlyStatus s t) ∧
      (∀ sp : SharedPart, s.shared = some sp → (∀ page ∈ s.xu.filling, page.records = []) → s.cu.state ≠ .off →
        s.mu.stallRaised = false → sp.stallTime ≤ s.mu.stallCount →
        ∃ t, exec .stallExpiry s = .next t ∧ OnlyStatus { s with mu := { s.mu with stallRaised := true } } t) ∧
      (s.mu.stallRaised = true ∨ s.cu.state = .off ∨ (∀ sp ∈ s.shared, s.mu.stallCount < sp.stallTime) →
        ∃ t, exec .stallExpiry s = .next t ∧ OnlyStatus s t)

/-- R149, R180, R181, R188, R190: reads that fail. A time-out acts from the second ms tick on, and as an error completion does. A
failed completion read is the failure of its post (R188) or of its status block write (R190). A read that is not in flight cannot fail
(log 5). That MEMORY_READ goes out before the reads of a repeat sample, and before the write of the batch a failed load was the last
order of, is the model's choice (logs 44 and 54). -/
def Obligations.ReadsFail : Prop :=
  ∀ s : State, Quiescent s →
    (∀ (read : ReadKind) (waited : Nat), readWaited s read = some waited → 2 ≤ waited →
      ∃ t, exec (.readTimeout read) s = .next t ∧ exec (.readErrorCompletion read) s = .next t) ∧
      (∀ (read : ReadKind) (waited : Nat), readWaited s read = some waited → waited < 2 →
        ∃ t, exec (.readTimeout read) s = .next t ∧ OnlyStatus s t) ∧
      (∀ read : ReadKind, readWaited s read = none →
        (∃ t, exec (.readTimeout read) s = .next t ∧ OnlyStatus s t) ∧
          ∃ t, exec (.readErrorCompletion read) s = .next t ∧ OnlyStatus s t) ∧
      (s.xu.posting.isSome = true → exec (.readErrorCompletion .postCompletion) s = exec .pageWriteFailure s) ∧
      (s.xu.statusWrite.isSome = true → exec (.readErrorCompletion .statusCompletion) s = exec .statusWriteFailure s) ∧
      (s.xu.sample.isSome = true → s.xu.resample = false →
        ∃ t, exec (.readErrorCompletion .sample) s = .next t ∧
          OnlyStatus (captureFault { s with xu := { s.xu with sample := none } } .memoryRead) t) ∧
      (s.xu.sample.isSome = true → s.xu.resample = true → s.cu.state ≠ .off →
        let u := captureFault s .memoryRead
        ∃ t, exec (.readErrorCompletion .sample) s = .next t ∧
          OnlyStatus
            { u with
              xu := { u.xu with sample := some 0, resample := false }
              out := u.out ++ [.busRead s.xu.xbase 8, .busRead (s.xu.xbase + 0x400#64) 4] } t) ∧
      (s.xu.sample.isSome = true → s.xu.resample = true → s.cu.state = .off →
        let u := captureFault s .memoryRead
        ∃ t, exec (.readErrorCompletion .sample) s = .next t ∧
          OnlyStatus { u with xu := { u.xu with sample := none, resample := false } } t) ∧
      (s.xu.copy.isSome = true →
        ∃ t, exec (.readErrorCompletion .batchCopy) s = .next t ∧
          OnlyStatus (captureFault { s with xu := { s.xu with copy := none } } .memoryRead) t) ∧
      (s.xu.reread.isSome = true →
        ∃ t, exec (.readErrorCompletion .stockReread) s = .next t ∧
          OnlyStatus (captureFault { s with xu := { s.xu with reread := none } } .memoryRead) t) ∧
      (s.rs.load.isSome = true → s.cu.batch.isSome = true →
        ∃ t, exec (.readErrorCompletion .recipeLoad) s = .next t ∧
          OrderEnded (captureFault { s with rs := { s.rs with load := none } } .memoryRead) (plainResult .memoryError) t)

/-- R181, R182, R183, R195: a sample that ends starts the batch copy for a new generation and the stock re-read for a new written
count, each where it may (logs 11 and 12) and in that order on the bus (log 44); the values are read from the bytes found, low byte
first. With the resample mark set a further sample is then started, its reads last (log 44); in OFF none is. With no sample in flight
nothing happens (log 5). -/
def Obligations.SampleCompletes : Prop :=
  ∀ (g0 g1 g2 g3 c0 c1 c2 c3 w0 w1 w2 w3 : Byte) (s : State), Quiescent s →
    let command : Instr := .sampleReadComplete #v[g0, g1, g2, g3] #v[c0, c1, c2, c3] #v[w0, w1, w2, w3]
    let generation : Word := g3 ++ g2 ++ g1 ++ g0
    let count : Word := c3 ++ c2 ++ c1 ++ c0
    let written : Word := w3 ++ w2 ++ w1 ++ w0
    let copies : Bool :=
      decide (s.cu.state ≠ .off) && decide (generation ≠ s.xu.taken) && s.cu.batch.isNone && s.xu.copy.isNone
        && !resultsUnwritten s.xu
    let rereads : Bool := decide (s.cu.state ≠ .off) && decide (written ≠ s.xu.seenWritten) && s.xu.reread.isNone
    let again : Bool := s.xu.resample && decide (s.cu.state ≠ .off)
    (s.xu.sample.isSome = true →
      ∃ t, exec command s = .next t ∧
        OnlyStatus
          { s with
            xu :=
              { s.xu with
                sample := if again then some 0 else none
                resample := false
                copy := if copies then some { generation := generation, count := count, waited := 0 } else s.xu.copy
                reread := if rereads then some { written := written, waited := 0 } else s.xu.reread }
            out :=
              s.out ++ (if copies then [.busRead (s.xu.xbase + 0x40#64) 512] else [])
                ++ (if rereads then [.busRead (s.xu.xbase + 0x410#64) 256] else [])
                ++ (if again then [.busRead s.xu.xbase 8, .busRead (s.xu.xbase + 0x400#64) 4] else []) } t) ∧
      (s.xu.sample = none → ∃ t, exec command s = .next t ∧ OnlyStatus s t)

/-- R167, R182: the batch copy completes. A count from 1 to 16 makes the batch; any other refuses it whole with BAD_COUNT. In OFF no
batch is taken (log 11), and with XBASE at 0 no write can hold ORDERS back (log 12). With no copy in flight nothing happens (log 5). -/
def Obligations.BatchCopyCompletes : Prop :=
  ∀ (entries : OrderListBytes) (s : State), Quiescent s →
    (∀ c : BatchCopy, s.xu.copy = some c →
      (s.cu.state ≠ .off → 1 ≤ c.count.toNat → c.count.toNat ≤ 16 →
        ∃ t, exec (.batchCopyComplete entries) s = .next t ∧
          OnlyStatus
            { s with
              cu :=
                { s.cu with
                  batch :=
                    some
                      { generation := c.generation, count := c.count.toNat, entries := entries, next := 0,
                        results := Vector.replicate 16 OrderResult.notRun } }
              xu := { s.xu with copy := none } } t) ∧
        (s.cu.state ≠ .off → (c.count.toNat = 0 ∨ 16 < c.count.toNat) →
          let ended : State :=
            { s with
              cu := { s.cu with batch := none }
              xu :=
                { s.xu with
                  copy := none
                  taken := c.generation
                  results := (Vector.replicate 16 OrderResult.notRun).set 0 (plainResult .badCount) } }
          ∃ t, exec (.batchCopyComplete entries) s = .next t ∧
            OnlyStatus (wantStatus ended owesOrders) t) ∧
        (s.cu.state = .off →
          ∃ t, exec (.batchCopyComplete entries) s = .next t ∧ OnlyStatus { s with xu := { s.xu with copy := none } } t)) ∧
      (s.xu.copy = none → ∃ t, exec (.batchCopyComplete entries) s = .next t ∧ OnlyStatus s t)

/-- R183: the stock re-read completes. The current descriptor stays while pages of it are being taken, and an invalid count is reported
once. A re-read that completes in OFF keeps what it read, as in every other state (log 11); with none in flight nothing happens
(log 5). -/
def Obligations.StockRereadCompletes : Prop :=
  ∀ (bytes : StockBytes) (s : State), Quiescent s →
    (∀ r : Reread, s.xu.reread = some r →
      ∀ ds : Vector Descriptor 16,
        (∀ i : Fin 16, ds[i] =
          if s.xu.pagesTaken ≠ 0 ∧ i.val = s.xu.consumed.toNat % 16 then s.xu.descriptors[i]
          else descriptorAt bytes i.val) →
        let valid := (r.written - s.xu.consumed).toNat ≤ 16
        let u : ExchangeUnit → State := fun x =>
          { s with xu := { x with reread := none, seenWritten := r.written, descriptors := ds } }
        ∃ t, exec (.stockRereadComplete bytes) s = .next t ∧
          OnlyStatus
            (if valid then u { s.xu with invalidLatch := false }
            else if s.xu.invalidLatch then u s.xu
            else captureFault (u { s.xu with invalidLatch := true }) .stockInvalid) t) ∧
      (s.xu.reread = none → ∃ t, exec (.stockRereadComplete bytes) s = .next t ∧ OnlyStatus s t)

/-! ## Orders -/

/-- R129, R133, R168: `start`. Refused in its order of tests with nothing changed; else every block stands at its values for `start`
and the roll is open at s0 with ROLL_START as its first record. A face is in WAIT or, in continuous mode, COATED in patch 1 (R14); link
states and counters, the recipe, the fault capture, the levels, the stock cursor and the page sequence are kept. An order that is not
the next of the batch does nothing (log 23). The change to RUNNING is a status block write, and the batch's end a further one (R189):
with no write in progress the first begins in the state RUNNING and the other is noted. -/
def Obligations.StartOpensRoll : Prop :=
  ∀ (rollId s0 : Word) (s : State), Quiescent s →
    (orderDue s ≠ some (.start rollId s0) → ∃ t, exec (.start rollId s0) s = .next t ∧ OnlyStatus s t) ∧
      (orderDue s = some (.start rollId s0) →
        (s.cu.state ≠ .idle →
          ∃ t, exec (.start rollId s0) s = .next t ∧ OrderEnded s (plainResult .refusedState) t) ∧
          (s.cu.state = .idle → s.rs.shared = none →
            ∃ t, exec (.start rollId s0) s = .next t ∧ OrderEnded s (plainResult .noRecipe) t) ∧
          (s.cu.state = .idle → s.rs.shared ≠ none →
            (s0.toInt < -1000000000 ∨ 1000000000 < s0.toInt) →
            ∃ t, exec (.start rollId s0) s = .next t ∧ OrderEnded s (plainResult .badOperand) t) ∧
          ∀ (part : Sourced SharedPart) (b : Batch), s.cu.state = .idle → s.rs.shared = some part →
            -1000000000 ≤ s0.toInt → s0.toInt ≤ 1000000000 → s.cu.batch = some b →
            let face : Face → Bool → MuFace := fun f level =>
              let continuous := (s.activePart f).any fun x => x.mode == .continuous
              { nextLine := 1, prevTrigger := none, skip := Tally.empty, acceptedLevel := level, begun := none, edges := [],
                overflow := Tally.empty, sect := if continuous then .coated else .wait,
                patchIndex := if continuous then 1 else 0, startStamp := s0.toInt, lastEnd := s0.toInt,
                startFlags := { synthStart := false, segment := false }, edgeExtra := false, finishRequest := false,
                finished := false }
            let released : OutState → OutState := fun x => if x = .forced then .forced else .idle
            let moved : Bool := s.mu.p ≠ s0.toInt
            ∃ t, exec (.start rollId s0) s = .next t ∧ ResultNoted b (plainResult .done) t ∧ t.cu.state = .running ∧
              t.cu.rollId = rollId ∧ t.cu.endReason = none ∧ t.cu.abandon = false ∧ t.cu.phase = .notClosing ∧
              t.cu.capture = s.cu.capture ∧ t.pins = s.pins ∧ t.rs = s.rs ∧
              t.mu =
                { s.mu with
                  p := s0.toInt
                  h := s0.toInt
                  direction := .forward
                  s0 := s0.toInt
                  jumps := Tally.empty
                  limitSent := false
                  faces :=
                    { upper := face .upper s.pins.sensors.markUpper, lower := face .lower s.pins.sensors.markLower }
                  spliceAccepted := s.pins.sensors.splice
                  spliceBegun := none
                  splices := []
                  stallCount := if moved then 0 else s.mu.stallCount
                  stallRaised := if moved then false else s.mu.stallRaised } ∧
              (∀ f, t.luFace f = { stream := [], assembled := 0, lastTriggered := none }) ∧
              (∀ p, t.head p =
                { s.head p with failedLine := none, outstanding := [], buffers := [], misses := 0 }) ∧
              (∀ f, t.rxFace f = { s.rxFace f with runFull := Tally.empty, handed := [] }) ∧ (∀ f, TablesFree t f) ∧
              t.te.nextStreak = 1 ∧
              (∀ f, (t.teFace f).patchStart = s0.toInt ∧ (t.teFace f).confirmations = 0 ∧ (t.teFace f).larges = 0 ∧
                (t.teFace f).full = Tally.empty ∧ (t.teFace f).openStreaks = 0) ∧
              (∀ f, (t.smFace f).pinholes = 0 ∧ (t.smFace f).spotted = 0 ∧ (t.smFace f).larges = 0 ∧
                (t.smFace f).noise = 0 ∧ (t.smFace f).full = Tally.empty) ∧
              (t.pu.active = true ↔
                part.part.pairing = true ∧ ∀ f, ∃ p e, s.entry p = some e ∧ e.face = f) ∧
              t.pu.list = [] ∧ t.pu.pinholes = 0 ∧ t.pu.throughs = 0 ∧
              (∀ f, t.puFace f =
                { processed := s0.toInt, log := [], floor := s0.toInt, finished := false, lastLine := none }) ∧
              t.ku =
                { s.ku with
                  a := released s.ku.a
                  b := released s.ku.b
                  queue := []
                  counters := MarkCounters.zero } ∧
              t.ru =
                { nextSeq := 2, tallyOpen := false, runs := [], scattered := LossRun.empty, spots := 0, larges := 0,
                  lostTotal := 0, abandoned := false, rollEndTaken := false
                  queue :=
                    [{ seq := 1, mark := .none, body := .rollStart rollId s0.toInt part.slot part.id }] } ∧
              (s.xu.xbase ≠ 0 → s.xu.statusWrite = none →
                (∃ w, t.xu.statusWrite = some w ∧ w.contents.state = .running ∧ w.owed = Owed.none) ∧
                  t.xu.statusStamp = s.xu.statusStamp + 1 ∧
                  t.xu.statusWanted = if b.next + 1 < b.count then none else some owesOrders) ∧
              t.xu.filling = none ∧ t.xu.posting = none ∧ t.xu.levels = s.xu.levels ∧
              t.xu.consumed = s.xu.consumed ∧ t.xu.pagesTaken = s.xu.pagesTaken ∧ t.xu.nextPage = s.xu.nextPage ∧
              t.xu.lastPosted = s.xu.lastPosted ∧ t.xu.emptySpell = s.xu.emptySpell)

/-- R162, R169: `stop`. In RUNNING with no face in WAIT it asks both faces to finish; with both in WAIT, the upper first (log 39), the
roll goes straight on to CLOSING, and the change to STOPPING is a status block write of its own with one further to follow (R189). -/
def Obligations.StopFinishesFaces : Prop :=
  ∀ s : State, Quiescent s → orderDue s = some .stop →
    ((s.cu.state = .stopping ∨ s.cu.state = .closing) →
      ∃ t, exec .stop s = .next t ∧ OrderEnded s (plainResult .already) t) ∧
      ((s.cu.state = .idle ∨ s.cu.state = .off) →
        ∃ t, exec .stop s = .next t ∧ OrderEnded s (plainResult .refusedState) t) ∧
      (s.cu.state = .running → bothFinished s = false → (∀ f, (s.muFace f).sect ≠ .wait) →
        ∃ t, exec .stop s = .next t ∧
          OrderEnded
            { wantStatus { s with cu := { s.cu with state := .stopping } } Owed.none with
              mu :=
                { s.mu with
                  faces :=
                    { upper := { s.mu.faces.upper with finishRequest := true }
                      lower := { s.mu.faces.lower with finishRequest := true } } } } (plainResult .accepted) t) ∧
      ∀ b : Batch, s.cu.state = .running → s.cu.batch = some b → (∀ f, (s.muFace f).sect = .wait) →
        ∃ t, exec .stop s = .next t ∧ ResultNoted b (plainResult .accepted) t ∧ t.cu.state = .closing ∧
          t.cu.endReason = some .stop ∧ (∀ f, (t.muFace f).finished = true) ∧
          (s.xu.xbase ≠ 0 → s.xu.statusWrite = none →
            (∃ w, t.xu.statusWrite = some w ∧ w.contents.state = .stopping) ∧ t.xu.statusWanted.isSome = true)

/-- R161, R163, R165, R170: `halt`. It ends a roll; in CLOSING it sets the abandon mark, once, which in step 7 gives the waiting
records up: close-out then ends at once, or with the final post, or once the post in progress has ended (log 13). Else it is refused.
-/
def Obligations.HaltEndsRoll : Prop :=
  ∀ s : State, Quiescent s → orderDue s = some .halt →
    (∀ b : Batch, (s.cu.state = .running ∨ s.cu.state = .stopping) → s.cu.batch = some b →
      ∃ t, exec .halt s = .next t ∧ EntersClosing .halt s t ∧ ResultNoted b (plainResult .done) t) ∧
      (s.cu.state = .closing → s.cu.abandon = false → s.cu.phase = .waiting →
        ∃ t, exec .halt s = .next t ∧ OrderEnded { s with cu := { s.cu with abandon := true } } (plainResult .done) t) ∧
      (∀ b : Batch, s.cu.state = .closing → s.cu.abandon = false → (s.cu.phase = .drain ∨ s.cu.phase = .final) →
        s.cu.batch = some b →
        ∃ t, exec .halt s = .next t ∧ ResultNoted b (plainResult .done) t ∧ t.cu.abandon = true ∧ t.ru.queue = [] ∧
          t.ru.abandoned = true ∧ t.ru.nextSeq = s.ru.nextSeq ∧
          (s.cu.phase = .drain → s.xu.posting = none → AbandonEnds s t) ∧
          ((s.cu.phase = .final ∨ s.xu.posting.isSome = true) →
            t.cu.state = .closing ∧ t.cu.phase = s.cu.phase ∧ t.xu.posting = s.xu.posting)) ∧
      (s.cu.state = .closing → s.cu.abandon = true →
        ∃ t, exec .halt s = .next t ∧ OrderEnded s (plainResult .done) t) ∧
      ((s.cu.state = .idle ∨ s.cu.state = .off) →
        ∃ t, exec .halt s = .next t ∧ OrderEnded s (plainResult .refusedState) t)

/-- R148, R171: `recipe`. A slot above 3 is refused at once, also in OFF (log 43), and OFF is; else the load begins and the batch waits
for it. -/
def Obligations.RecipeLoadBegins : Prop :=
  ∀ (slot : Word) (s : State), Quiescent s → orderDue s = some (.recipe slot) →
    (3 < slot.toNat → ∃ t, exec (.recipe slot) s = .next t ∧ OrderEnded s (plainResult .badOperand) t) ∧
      (slot.toNat ≤ 3 → s.cu.state = .off →
        ∃ t, exec (.recipe slot) s = .next t ∧ OrderEnded s (plainResult .refusedState) t) ∧
      (slot.toNat ≤ 3 → s.cu.state ≠ .off →
        ∃ t, exec (.recipe slot) s = .next t ∧
          OnlyStatus
            { s with
              rs := { s.rs with load := some { slot := slot.setWidth 2, copy := [], waited := 0 } }
              out := s.out ++ [.busRead (s.xu.xbase + BitVec.ofNat 64 (0x2000 * (slot.toNat + 1))) 2496] } t)

/-- R28, R43, R116, R147, R150, R153, R154, R155: a load completes: its copy is filled, judged and discarded. A failed check is
reported; a valid recipe becomes active whole in IDLE, where every head takes its state from the new head table and its remembered
HELLO and the marker pulses are cut, pending in a roll with the same shared part, and is refused otherwise. What the checks are is
stated by `RecipeChecked`. -/
def Obligations.RecipeLoadCompletes : Prop :=
  ∀ (bytes : SlotBytes) (load : Load) (b : Batch) (s : State), Quiescent s → s.rs.load = some load →
    s.cu.batch = some b →
    let slot := bytes.toList
    let loaded : State := { s with rs := { s.rs with load := none } }
    let source : FacePart → Sourced FacePart := fun part => { part := part, slot := load.slot, id := slotRecipeId slot }
    (∀ x : CheckFailure, validate s.straps slot = some x →
      ∃ t, exec (.recipeLoadComplete bytes) s = .next t ∧
        OrderEnded loaded { code := .refusedRecipe, check := x.code, offset := x.offset } t) ∧
      (validate s.straps slot = none → s.cu.state = .idle →
        ∃ t, exec (.recipeLoadComplete bytes) s = .next t ∧ ResultNoted b (plainResult .done) t ∧
          t.rs.shared = some { part := readShared slot, slot := load.slot, id := slotRecipeId slot } ∧
          t.rs.load = none ∧ t.mu.stallCount = 0 ∧
          (∀ f, (t.rsFace f).active = some (source (slotFacePart slot f)) ∧ (t.rsFace f).pending = none ∧
            (t.rxFace f).inForce = some (slotFacePart slot f)) ∧
          (∀ p : Port,
            let entry := (readShared slot).heads[p]
            (t.head p).recovering = false ∧ (t.head p).misses = 0 ∧ (t.head p).hello = (s.head p).hello ∧
              (t.head p).counters = (s.head p).counters ∧
              ((entry.present = false ∨ s.straps.fitted p = false) → (t.head p).link = .absent) ∧
              (entry.present = true → s.straps.fitted p = true →
                ((s.head p).hello = none → (t.head p).link = .waiting) ∧
                  ∀ x : Hello, (s.head p).hello = some x →
                    (x.headId.toNat = p.val → x.count.toNat = entry.width → (t.head p).link = .ready) ∧
                      ((x.headId.toNat ≠ p.val ∨ x.count.toNat ≠ entry.width) → (t.head p).link = .failed))) ∧
          t.ku =
            { s.ku with
              a := cutPulse s.ku.a
              b := cutPulse s.ku.b
              counters := s.ku.counters.withCuts (cutsOf s.ku.a s.ku.b) } ∧
          t.te = s.te ∧ t.sm = s.sm ∧ t.pu = s.pu ∧ t.ru = s.ru) ∧
      (validate s.straps slot = none → (s.cu.state = .running ∨ s.cu.state = .stopping) →
        s.shared = some (readShared slot) →
        ∃ t, exec (.recipeLoadComplete bytes) s = .next t ∧
          OrderEnded
            { s with
              rs :=
                { s.rs with
                  load := none
                  faces :=
                    { upper := { s.rs.faces.upper with pending := some (source (slotFacePart slot .upper)) }
                      lower := { s.rs.faces.lower with pending := some (source (slotFacePart slot .lower)) } } } }
            (plainResult .accepted) t) ∧
      (validate s.straps slot = none → (s.cu.state = .running ∨ s.cu.state = .stopping) →
        s.shared ≠ some (readShared slot) →
        ∃ t, exec (.recipeLoadComplete bytes) s = .next t ∧ OrderEnded loaded (plainResult .refusedShared) t) ∧
      (validate s.straps slot = none → (s.cu.state = .closing ∨ s.cu.state = .off) →
        ∃ t, exec (.recipeLoadComplete bytes) s = .next t ∧ OrderEnded loaded (plainResult .refusedState) t)

/-- R150, R151, R152, R198: the checks of a recipe. The result is the first failing test of the first check that fails, in the order of
`checkTests`. A slot is valid exactly when every condition of the rules holds: the format, every field within its range, and the
conditions between fields. A failed check reports the field the table names for it, and that field breaks its condition. -/
def Obligations.RecipeChecked : Prop :=
  ∀ (straps : Straps) (slot : List Byte),
    let sp := readShared slot
    let base : Face → Nat := fun f => if f = .upper then 0x200 else 0x600
    let part : Face → FacePart := slotFacePart slot
    let lane : Face → Nat → Lane := fun f i => (part f).lane i
    let count : Face → Nat := fun f => u8 slot (base f + 2)
    let laneAt : Face → Nat → Nat := fun f i => base f + 0x240 + 32 * i
    let head : Port → Nat := fun p => 0x090 + 8 * p.val
    let last : Port → Nat := fun p => sp.heads[p].origin + sp.heads[p].width - 1
    let sameFace : Port → Port → Prop := fun p q =>
      q.val < p.val ∧ sp.heads[q].present = true ∧ sp.heads[q].face = sp.heads[p].face
    let clash : Port → Port → Prop := fun p q =>
      sp.heads[p].origin = sp.heads[q].origin ∨ (sp.heads[p].origin ≤ sp.heads[q].origin ∧ last q ≤ last p) ∨
        (sp.heads[q].origin ≤ sp.heads[p].origin ∧ last p ≤ last q)
    let seen : Face → Nat → Prop := fun f c =>
      ∃ p : Port, sp.heads[p].present = true ∧ sp.heads[p].face = f ∧ sp.heads[p].origin ≤ c ∧ c ≤ last p
    let byte : Nat → Nat → Nat → Prop := fun at' lo hi => lo ≤ u8 slot at' ∧ u8 slot at' ≤ hi
    let half : Nat → Nat → Nat → Prop := fun at' lo hi => lo ≤ u16 slot at' ∧ u16 slot at' ≤ hi
    let word : Nat → Nat → Nat → Prop := fun at' lo hi => lo ≤ u32 slot at' ∧ u32 slot at' ≤ hi
    let signed : Nat → Int → Int → Prop := fun at' lo hi => lo ≤ s32 slot at' ∧ s32 slot at' ≤ hi
    let marker : Nat → Prop := fun o => word o 0 16777215 ∧ half (o + 4) 1 65535 ∧ byte (o + 6) 0 1
    let sharedInRange : Prop :=
      byte 0x040 1 64 ∧ byte 0x041 0 2 ∧ byte 0x042 0 15 ∧ byte 0x043 0 255 ∧ half 0x044 20 1000 ∧ half 0x046 50 5000 ∧
        word 0x048 0 16777215 ∧ signed 0x04C (-16777215) 16777215 ∧ signed 0x050 (-16777215) 16777215 ∧
        signed 0x054 (-16777215) 16777215 ∧ word 0x058 0 1048575 ∧ word 0x05C 0 1048575 ∧ byte 0x060 0 1 ∧
        byte 0x061 0 1 ∧ byte 0x062 0 31 ∧ signed 0x064 (-16383) 32766 ∧ half 0x068 0 1023 ∧ byte 0x06A 0 1 ∧
        half 0x06C 1 10000 ∧ half 0x06E 10 10000 ∧ word 0x070 0 16777215 ∧ byte 0x074 0 2 ∧ byte 0x075 0 2 ∧
        byte 0x076 0 2 ∧ byte 0x077 0 2 ∧ byte 0x078 0 2 ∧ marker 0x080 ∧ marker 0x088
    let headInRange : Port → Prop := fun p =>
      byte (head p) 0 1 ∧
        (u8 slot (head p) = 1 →
          byte (head p + 1) 0 1 ∧ half (head p + 2) 0 16383 ∧ half (head p + 4) 256 4096 ∧
            u16 slot (head p + 4) % 64 = 0 ∧ byte (head p + 6) 1 255)
    let laneInRange : Nat → Prop := fun o =>
      half o 0 16383 ∧ half (o + 2) 0 16383 ∧ byte (o + 4) 0 1 ∧ byte (o + 5) 1 255 ∧ byte (o + 6) 0 7 ∧
        byte (o + 7) 0 2 ∧ byte (o + 12) 1 63 ∧ byte (o + 13) 1 255 ∧ byte (o + 14) 1 255 ∧ half (o + 16) 4 1023 ∧
        half (o + 18) 1 1023 ∧ half (o + 20) 1 4095
    let faceInRange : Face → Prop := fun f =>
      let b := base f
      byte b 0 1 ∧ byte (b + 0x01) 0 1 ∧ byte (b + 0x02) 0 12 ∧ word (b + 0x04) 1 16777215 ∧ word (b + 0x08) 0 16777215 ∧
        word (b + 0x0C) 1 16777215 ∧ word (b + 0x10) 0 16777215 ∧ byte (b + 0x14) 1 4 ∧ byte (b + 0x15) 0 3 ∧
        byte (b + 0x16) 1 63 ∧ byte (b + 0x17) 1 63 ∧ byte (b + 0x18) 1 255 ∧ byte (b + 0x19) 1 255 ∧
        byte (b + 0x1A) 8 255 ∧ half (b + 0x1C) 1 4095 ∧ ∀ i, i < count f → laneInRange (laneAt f i)
    (∀ before check after, checkTests straps slot = before ++ check :: after →
      (∀ c ∈ before, ∀ x ∈ c.2, x.fails = false) →
      ∀ passed test rest, check.2 = passed ++ test :: rest → (∀ x ∈ passed, x.fails = false) → test.fails = true →
        validate straps slot = some { code := check.1, offset := test.offset }) ∧
      (checkTests straps slot).map Prod.fst = [1, 2, 3, 4, 5, 6, 7, 8, 9, 10, 11, 12, 13] ∧
      (validate straps slot = none ↔
        u32 slot 0x004 = 1 ∧ (sharedInRange ∧ (∀ p, headInRange p) ∧ ∀ f, faceInRange f) ∧
          (∀ p : Port, sp.heads[p].present = true →
            straps.fitted p = true ∧ last p ≤ 16383 ∧ (headsBelow sp.heads p).length ≠ 4 ∧
              ∀ q, sameFace p q → ¬clash p q) ∧
          (sp.qU ≤ 0 ∧ sp.qL ≤ sp.d ∧ sp.qS ≤ -(sp.eb : Int)) ∧
          ((sp.mirror = true → 0 ≤ sp.columnOffset ∧ sp.columnOffset ≤ 32766) ∧
            (sp.mirror = false → -16383 ≤ sp.columnOffset ∧ sp.columnOffset ≤ 16383)) ∧
          ∀ f,
            (∀ i, i < count f →
              (lane f i).first ≤ (lane f i).last ∧ (0 < i → (lane f (i - 1)).last < (lane f i).first) ∧
                (∀ c, (lane f i).first ≤ c → c ≤ (lane f i).last → seen f c) ∧
                (lane f i).fadeMisses < (lane f i).endMisses) ∧
              (part f).pinholeMd < (part f).streakStart ∧
              ((part f).mode = .continuous → (part f).segment ≠ 0)) ∧
      ∀ x : CheckFailure, validate straps slot = some x →
        (x.code = 1 → x.offset = 0x004 ∧ u32 slot 0x004 ≠ 1) ∧
          (x.code = 3 → ∃ p, x.offset = head p ∧ sp.heads[p].present = true ∧ straps.fitted p = false) ∧
          (x.code = 4 → ∃ p, x.offset = head p + 4 ∧ sp.heads[p].present = true ∧ 16383 < last p) ∧
          (x.code = 5 →
            ∃ p, x.offset = head p + 1 ∧ sp.heads[p].present = true ∧ (headsBelow sp.heads p).length = 4) ∧
          (x.code = 6 → ∃ p q, x.offset = head p + 2 ∧ sp.heads[p].present = true ∧ sameFace p q ∧ clash p q) ∧
          (x.code = 7 →
            (x.offset = 0x04C ∧ 0 < sp.qU) ∨ (x.offset = 0x050 ∧ (sp.d : Int) < sp.qL) ∨
              (x.offset = 0x054 ∧ -(sp.eb : Int) < sp.qS)) ∧
          (x.code = 8 → x.offset = 0x064) ∧
          (x.code = 9 →
            ∃ f i, i < count f ∧
              ((x.offset = laneAt f i ∧ 0 < i ∧ (lane f i).first ≤ (lane f (i - 1)).last) ∨
                (x.offset = laneAt f i + 2 ∧ (lane f i).last < (lane f i).first))) ∧
          (x.code = 10 →
            ∃ f i c, i < count f ∧ x.offset = laneAt f i ∧ (lane f i).first ≤ c ∧ c ≤ (lane f i).last ∧ ¬seen f c) ∧
          (x.code = 11 → ∃ f, x.offset = base f + 0x1A ∧ (part f).streakStart ≤ (part f).pinholeMd) ∧
          (x.code = 12 →
            ∃ f i, i < count f ∧ x.offset = laneAt f i + 20 ∧ (lane f i).endMisses ≤ (lane f i).fadeMisses) ∧
          (x.code = 13 → ∃ f, x.offset = base f + 0x10 ∧ (part f).mode = .continuous ∧ (part f).segment = 0)

/-- R167, R172, R173, R174, R126: `flush`, `note`, `markon` in every state, and an entry whose code names no order, which gets
UNKNOWN_ORDER while execution goes on. A filling page without a record leaves `flush` as no page does (log 27). The record of a `note`
is taken as `issue` takes any; here its number is not the one that sends the sequence-limit event. -/
def Obligations.FlushNoteMarkonUnknown : Prop :=
  ∀ s : State, Quiescent s →
    (orderDue s = some .flush →
      (∀ page : Page, s.xu.filling = some page → page.records ≠ [] →
        ∃ t, exec .flush s = .next t ∧ OrderEnded (postBegun s page .flush) (plainResult .done) t) ∧
        ((∀ page, s.xu.filling = some page → page.records = []) → s.ru.queue = [] →
          ∃ t, exec .flush s = .next t ∧ OrderEnded s (plainResult .empty) t) ∧
        ((∀ page, s.xu.filling = some page → page.records = []) → s.ru.queue ≠ [] →
          ∃ t, exec .flush s = .next t ∧ OrderEnded s (plainResult .noStock) t)) ∧
      (∀ value : BitVec 64, orderDue s = some (.note value) →
        (s.inspecting = true → s.ru.nextSeq ≠ Config.sequenceLimit →
          ∃ t, exec (.note value) s = .next t ∧ OrderEnded (issue s (.note value s.mu.h)) (plainResult .done) t) ∧
          (s.inspecting = false →
            ∃ t, exec (.note value) s = .next t ∧ OrderEnded s (plainResult .refusedState) t)) ∧
      (orderDue s = some .markon →
        (s.pins.breakInput = true → ∃ t, exec .markon s = .next t ∧ OrderEnded s (plainResult .breakActive) t) ∧
          (s.pins.breakInput = false → s.ku.breakFlag = true →
            ∃ t, exec .markon s = .next t ∧
              OrderEnded { s with ku := { s.ku with a := .idle, b := .idle, breakFlag := false } } (plainResult .done) t) ∧
          (s.pins.breakInput = false → s.ku.breakFlag = false →
            ∃ t, exec .markon s = .next t ∧ OrderEnded s (plainResult .already) t)) ∧
      ∀ code : Byte, orderDue s = some (.unknownOrder code) →
        ∃ t, exec (.unknownOrder code) s = .next t ∧ OrderEnded s (plainResult .unknownOrder) t

/-- R30, R31, R175, R176, R177: `clear` in every state: the flags, the mark counters, the lost record total and the link states stay,
and a later fault fills the capture again; `levels`; and `headreset`, which gives a LIVE head up in every line it still owed: first of
a head whose face has no unassembled line, then of any, the lines it completes being assembled in the same step (R35). -/
def Obligations.ClearLevelsHeadreset : Prop :=
  ∀ s : State, Quiescent s →
    (orderDue s = some .clear →
      ∃ t, exec .clear s = .next t ∧
        OrderEnded
          { s with
            cu := { s.cu with capture := none }
            lu := { s.lu with heads := s.lu.heads.map fun h => { h with counters := HeadCounters.zero } } }
          (plainResult .done) t ∧
        ∀ code, (captureFault t code).cu.capture = some { code := code, stamp := t.mu.h }) ∧
      (∀ levels : Vector Byte 8, orderDue s = some (.levels levels) →
        ((∃ i : Fin 8, 3 < levels[i].toNat) →
          ∃ t, exec (.levels levels) s = .next t ∧ OrderEnded s (plainResult .badOperand) t) ∧
          ((∀ i : Fin 8, levels[i].toNat ≤ 3) →
            ∃ t, exec (.levels levels) s = .next t ∧
              OrderEnded { s with xu := { s.xu with levels := levels.map fun l => l.setWidth 2 } } (plainResult .done) t)) ∧
      ∀ head : Word, orderDue s = some (.headreset head) →
        (7 < head.toNat → ∃ t, exec (.headreset head) s = .next t ∧ OrderEnded s (plainResult .badOperand) t) ∧
          ∀ p : Port, head.toNat = p.val →
            (s.straps.fitted p = false →
              ∃ t, exec (.headreset head) s = .next t ∧ OrderEnded s (plainResult .badOperand) t) ∧
              (s.straps.fitted p = true →
                let f := headFace s p
                let reset :=
                  (s.onHead p fun h =>
                    if h.link = .absent then { h with hello := none }
                    else
                      { h with
                        hello := none
                        link := .waiting
                        recovering := false
                        misses := 0
                        outstanding := if h.link = .live then [] else h.outstanding }).emit (.link p retrainPacket)
                let u := if (s.head p).link = .live then givenUpIn reset f p (s.head p).outstanding else reset
                let answers : State → Prop := fun v =>
                  ∃ t, exec (.headreset head) s = .next t ∧ OrderEnded v (plainResult .done) t
                (openLines (s.luFace f).stream = [] → answers reset) ∧
                  ((s.head p).link = .absent → answers reset) ∧
                  ((s.head p).link ≠ .absent → ∀ v, ReadyAssembled f u v → v.cu.limitEvent = false → answers v))

/-! ## Shared operations -/

/-- R117 to R121, R125, R127, R128, R131: a mark request. It is decided with an output at the edge of fresh web or below it. The policy
entry of its kind names the output; with no recipe, no markers or the entry NONE it does nothing. It joins the queue after every entry
that fires no later, or is laid at once, or is missed while the break flag stands, or is dropped and counted with cause MARK. A record
with a request takes its number, then the request is answered, then the record is kept or lost with the outcome as its mark state, and
a missed request gives its MARK_MISSED record after it. The source is the record's number; past the last number it is some value (log
3). A repeat mark has no record. -/
def Obligations.MarkRequestDecided : Prop :=
  (∀ (p h fire : Int) (queued length : Nat), queued ≤ 32 → p ≤ h →
    (h < fire → markOutcome p h queued fire length = if queued < 32 then .queued else .full) ∧
      (p = h → fire ≤ h →
        markOutcome p h queued fire length = if h < fire + length then .partly else .late) ∧
      (p < h → fire ≤ h →
        markOutcome p h queued fire length =
          if fire + length ≤ h + 1 then .late else if queued < 32 then .partly else .full)) ∧
    (∀ (s : State) (kind : PolicyEntry) (stamp : Int) (source : Word),
      let target : SharedPart → MarkTarget := fun sp =>
        match kind with
        | .pinholeOther => sp.policy.pinholeOther
        | .pinholeThrough => sp.policy.pinholeThrough
        | .spot => sp.policy.spot
        | .large => sp.policy.large
        | .streak => sp.policy.streak
      let request := markRequest s kind stamp source
      ((∀ sp, s.shared = some sp → target sp = .none) ∨ s.straps.twoMarkers = false →
        request = (s, { mark := .none, missed := none })) ∧
        ∀ sp, s.shared = some sp → s.straps.twoMarkers = true →
          (target sp = .a →
            request =
              takeRequest s
                { out := .a, fire := stamp + sp.markerA.offset, length := sp.markerA.length, source := source }) ∧
            (target sp = .b →
              request =
                takeRequest s
                  { out := .b, fire := stamp + sp.markerB.offset, length := sp.markerB.length, source := source })) ∧
    (∀ (s : State) (e : MarkEntry),
      let outcome := markOutcome s.mu.p s.mu.h s.ku.queue.length e.fire e.length
      let t := (takeRequest s e).1
      let output := if e.out = .a then s.ku.a else s.ku.b
      let counting : MarkCounters → State := fun c => { s with ku := { s.ku with counters := c } }
      let laid : Int → MarkCounters → State := fun stop c =>
        { s with
          ku :=
            { s.ku with
              a := if e.out = .a then .active stop else s.ku.a
              b := if e.out = .a then s.ku.b else .active stop
              counters := c } }
      let joinsQueue :=
        ∀ before after, s.ku.queue = before ++ after → (∀ x ∈ before, x.fire ≤ e.fire) →
          (∀ x ∈ after.head?, e.fire < x.fire) → t = { s with ku := { s.ku with queue := before ++ e :: after } }
      (takeRequest s e).2 =
          { mark := outcome
            missed := if outcome = .partly ∧ s.mu.p = s.mu.h ∧ s.ku.breakFlag = true then some e else none } ∧
        (outcome = .queued → joinsQueue) ∧ (outcome = .partly → s.mu.p ≠ s.mu.h → joinsQueue) ∧
        (outcome = .partly → s.mu.p = s.mu.h → s.ku.breakFlag = true → t = s) ∧
        (outcome = .partly → s.mu.p = s.mu.h → s.ku.breakFlag = false →
          (output = .idle →
            t = laid (e.fire + e.length) { s.ku.counters with fired := bump32 s.ku.counters.fired }) ∧
            ∀ stop, output = .active stop →
              t = laid (max stop (e.fire + e.length)) { s.ku.counters with merged := bump32 s.ku.counters.merged }) ∧
        (outcome = .late → t = raise (counting { s.ku.counters with late := bump32 s.ku.counters.late }) .mark) ∧
        (outcome = .full → t = raise (counting { s.ku.counters with full := bump32 s.ku.counters.full }) .mark)) ∧
    ∀ (s : State) (body : RecordBody) (kind : PolicyEntry) (stamp : Int),
      let settled : State → MarkAnswer → State := fun u answer =>
        match answer.missed with
        | none => u
        | some e =>
          let v := issue u (.markMissed e.out e.fire e.source .brk)
          { v with ku := { v.ku with counters := { v.ku.counters with missed := bump32 v.ku.counters.missed } } }
      let counted : RecordUnit → RecordUnit := fun r =>
        match body with
        | .spot _ => { r with spots := bump32 r.spots }
        | .large _ => { r with larges := bump32 r.larges }
        | _ => r
      let r := { s.ru with nextSeq := s.ru.nextSeq + 1 }
      let numbered : State :=
        { s with
          ru := r
          cu := { s.cu with limitEvent := s.cu.limitEvent || decide (s.ru.nextSeq = 4294963200) } }
      (body.kind ≠ 0x40 → s.ru.nextSeq ≤ 4294967295 →
        let request := markRequest numbered kind stamp (BitVec.ofNat 32 s.ru.nextSeq)
        let placed : RecordUnit :=
          if s.ru.tallyOpen = false ∧ slotsOf s.ru.queue + body.slots ≤ 64 then
            { r with queue := s.ru.queue ++ [{ seq := s.ru.nextSeq, mark := request.2.mark, body := body }] }
          else { joinLoss r s.ru.nextSeq s.mu.h body with lostTotal := bump32 s.ru.lostTotal }
        issueMarked s body kind stamp =
          (settled { request.1 with ru := counted placed } request.2, BitVec.ofNat 32 s.ru.nextSeq)) ∧
        (body.kind ≠ 0x40 → 4294967295 < s.ru.nextSeq →
          ∃ source,
            let request := markRequest { s with free := s.free + 1 } kind stamp source
            issueMarked s body kind stamp =
              (settled { request.1 with ru := counted { s.ru with lostTotal := bump32 s.ru.lostTotal } } request.2,
                source)) ∧
        ∀ source : Word,
          requestOnly s kind stamp source =
            settled (markRequest s kind stamp source).1 (markRequest s kind stamp source).2

/-- R130, R131, R132, R134, R138, R140, R141, R146: a record of any kind takes the next number. It is kept when the loss tally is
closed and its one or two slots fit, else lost: it extends the run whose next number it is, or opens a run in its place, the latest
entered of all, or joins the scattered entry once 64 runs stand. Past the last number it is discarded and counted as lost (log 22).
SPOT and LARGE are counted for the roll, and a FAULT fills the fault capture and raises FAULT, whether kept or not. Number
4,294,963,200 sends the sequence-limit event. -/
def Obligations.IssueTakesRecord : Prop :=
  (∀ (s : State) (body : RecordBody),
    let t := issue s body
    let counted : RecordUnit → RecordUnit := fun r =>
      match body with
      | .spot _ => { r with spots := bump32 r.spots }
      | .large _ => { r with larges := bump32 r.larges }
      | _ => r
    let numbered : RecordUnit := { s.ru with nextSeq := s.ru.nextSeq + 1 }
    OnlyReporting s t ∧ t.ku = s.ku ∧ t.free = s.free ∧
      (t.cu.limitEvent = true ↔ s.cu.limitEvent = true ∨ s.ru.nextSeq = 4294963200) ∧
      (s.ru.nextSeq ≤ 4294967295 → s.ru.tallyOpen = false → slotsOf s.ru.queue + body.slots ≤ 64 →
        t.ru =
          counted
            { numbered with queue := s.ru.queue ++ [{ seq := s.ru.nextSeq, mark := .none, body := body }] }) ∧
      (s.ru.nextSeq ≤ 4294967295 → (s.ru.tallyOpen = true ∨ 64 < slotsOf s.ru.queue + body.slots) →
        t.ru = counted { joinLoss numbered s.ru.nextSeq s.mu.h body with lostTotal := bump32 s.ru.lostTotal } ∧
          t.ru.queue = s.ru.queue) ∧
      (4294967295 < s.ru.nextSeq → t.ru = counted { s.ru with lostTotal := bump32 s.ru.lostTotal }) ∧
      (body.kind ≠ 0x40 → t.xu = s.xu ∧ t.out = s.out ∧ t.cu.capture = s.cu.capture) ∧
      ∀ code subject first last count, body = .fault code subject first last count →
        t.xu = (raise s .fault).xu ∧ t.out = (raise s .fault).out ∧
          t.cu.capture = some { code := code, stamp := s.mu.h }) ∧
    (∀ body : RecordBody,
      body.slots =
        match body with
        | .pinhole _ _ partner => if partner.isSome then 2 else 1
        | .streakClose _ _ _ _ _ _ reason _ _ _ held => if reason = .merged ∨ held.count ≠ 0 then 2 else 1
        | _ => 1) ∧
    ∀ (r : RecordUnit) (seq : Nat) (h : Int) (body : RecordBody),
      let alone : LossRun := { LossRun.empty with first := seq }.add h body
      (∀ before run after, r.runs = before ++ run :: after → (∀ x ∈ before, x.first + x.count ≠ seq) →
        run.first + run.count = seq →
        joinLoss r seq h body = { r with tallyOpen := true, runs := before ++ run.add h body :: after }) ∧
        ((∀ x ∈ r.runs, x.first + x.count ≠ seq) → r.runs.length < 64 →
          ∀ before after, r.runs = before ++ after → (∀ x ∈ before, x.first ≤ seq) → (∀ x ∈ after.head?, seq < x.first) →
            ∃ entered, (∀ x ∈ r.runs, x.entered < entered) ∧
              joinLoss r seq h body =
                { r with tallyOpen := true, runs := before ++ { alone with entered := entered } :: after }) ∧
        ((∀ x ∈ r.runs, x.first + x.count ≠ seq) → 64 ≤ r.runs.length →
          joinLoss r seq h body = { r with tallyOpen := true, scattered := r.scattered.add h body }) ∧
        ∀ run : LossRun,
          (run.add h body).first = run.first ∧ (run.add h body).entered = run.entered ∧
            (run.add h body).count = bump32 run.count ∧
            (run.add h body).lastStamp = h ∧
            (run.add h body).firstStamp = (if run.count = 0 then h else run.firstStamp) ∧
            (run.add h body).groups =
              match body with
              | .pinhole _ _ _ => { run.groups with pinhole := bump32 run.groups.pinhole }
              | .streakOpen _ _ _ _ _ _ _ _ _ | .streakClose _ _ _ _ _ _ _ _ _ _ _ =>
                { run.groups with streak := bump32 run.groups.streak }
              | _ => { run.groups with other := bump32 run.groups.other }

/-- R59, R61 to R66, R70 to R73, R75, R76: the life of a spot. A run joins no open spot, one or several: it opens the lowest free entry
or counts as SPOT_FULL; it is taken in; or it is taken in by each and the oldest takes in the others, which are freed. A spot no run
joined on an observed line grows quieter. That a merge counts the run's pixels once rests on log 15. A spot qualifies for handover by
its lane, section, extents and refusal; the spots that qualify make their requests from low columns to high, an accepted one is freed
and a refused one marked. A closing spot has the class of the first of the four tests it meets: one too small leaves no record, a
pinhole goes to the Pairing Unit alone, and the others are issued with their mark request; each counts on the face and is freed. A cut
sets the CUT flag of every open spot and closes it, the spot with the earlier first stamp first. -/
def Obligations.SpotsGrowAndClose : Prop :=
  ∀ (part : FacePart) (x : Spot),
    let small := x.pixels < part.minPixels
    let pinhole := x.lights.t = true ∧ x.cdExtent ≤ part.pinholeCd ∧ x.mdExtent ≤ part.pinholeMd
    let spot := x.cdExtent ≤ part.spotCd ∧ x.mdExtent ≤ part.spotMd
    (small → classify part x = .noise) ∧ (¬small → pinhole → classify part x = .pinhole) ∧
      (¬small → ¬pinhole → spot → classify part x = .spot) ∧
      (¬small → ¬pinhole → ¬spot → classify part x = .large) ∧
      (∀ (f : Face) (c : Closing) (i : Fin 64),
        let d := closeSpot part f c (i, x)
        let m := c.state.smFace f
        let n := d.state.smFace f
        let fields : SpotFields :=
          { face := f, lane := x.lane, first := x.firstStamp, last := x.lastStamp, patchIndex := x.patchIndex,
            offset := x.offset, cdMin := x.columnMin, cdMax := x.columnMax, pixels := x.pixels, classBits := x.classBits,
            lights := x.lights, cut := x.cut, blind := x.blind, failed := false }
        let hole : Closure :=
          { face := f, first := x.firstStamp, last := x.lastStamp, cdMin := x.columnMin, cdMax := x.columnMax,
            patchIndex := x.patchIndex, offset := x.offset, pixels := x.pixels, classBits := x.classBits,
            lights := x.lights, minValue := x.minValue, maxValue := x.maxValue, cut := x.cut, blind := x.blind }
        n.spots[i] = none ∧
          (classify part x = .noise →
            d.closures = c.closures ∧ d.state.ru = c.state.ru ∧ n.noise = bump16 m.noise) ∧
          (classify part x = .pinhole →
            d.closures = c.closures ++ [hole] ∧ d.state.ru = c.state.ru ∧ n.pinholes = bump16 m.pinholes) ∧
          (classify part x = .spot →
            d.closures = c.closures ∧ d.state.ru = (issueMarked c.state (.spot fields) .spot x.firstStamp).1.ru ∧
              d.state.ku = (issueMarked c.state (.spot fields) .spot x.firstStamp).1.ku ∧ n.spotted = bump16 m.spotted) ∧
          (classify part x = .large →
            d.closures = c.closures ∧ d.state.ru = (issueMarked c.state (.large fields) .large x.firstStamp).1.ru ∧
              d.state.ku = (issueMarked c.state (.large fields) .large x.firstStamp).1.ku ∧
              n.larges = bump16 m.larges)) ∧
      (∀ r : Run, joins part r x = true ↔
        x.lane = r.lane ∧ r.first ≤ x.columnMax + part.link ∧ x.columnMin ≤ r.last + part.link ∧ x.quiet < part.reach) ∧
      (∀ (desc : LineDesc) (m : SmFace) (r : Run),
        let joined : Fin 64 → Prop := fun i => ∃ y, m.spots[i] = some y ∧ joins part r y = true
        ((∀ i, ¬joined i) → (∀ i : Fin 64, m.spots[i] ≠ none) →
          offerRun part desc m r = { m with full := m.full.add desc.stamp }) ∧
          (∀ i : Fin 64, (∀ j, ¬joined j) → m.spots[i] = none → (∀ j : Fin 64, j < i → m.spots[j] ≠ none) →
            offerRun part desc m r = { m with spots := m.spots.set i.val (some (openSpot desc r)) }) ∧
          (∀ (i : Fin 64) (y : Spot), m.spots[i] = some y → (∀ j, joined j ↔ j = i) →
            offerRun part desc m r = { m with spots := m.spots.set i.val (some (y.takeRun desc r)) }) ∧
          ∀ (i j : Fin 64) (y z : Spot), i ≠ j → m.spots[i] = some y → m.spots[j] = some z →
            (∀ k, joined k ↔ k = i ∨ k = j) →
            (y.firstLine < z.firstLine ∨ (y.firstLine = z.firstLine ∧ y.columnMin < z.columnMin)) →
            offerRun part desc m r =
              { m with
                spots :=
                  (m.spots.set j.val none).set i.val
                    (some ((y.takeRun desc r).absorb (z.takeRun desc r) z.pixels)) }) ∧
      (∀ (desc : LineDesc) (r : Run),
        let y := x.takeRun desc r
        let fresh := x.lastLine ≠ desc.number
        y =
          { x with
            columnMin := min x.columnMin r.first
            columnMax := max x.columnMax r.last
            lastLine := desc.number
            lastStamp := desc.stamp
            joined := if fresh then bump16 x.joined else x.joined
            quiet := if fresh then 0 else x.quiet
            pixels := min 16777215 (x.pixels + r.pixels)
            classBits := x.classBits ||| r.classBits
            lights := x.lights.add desc.lighting
            minValue := if x.minValue ≤ r.minValue then x.minValue else r.minValue
            maxValue := if x.maxValue ≤ r.maxValue then r.maxValue else x.maxValue
            blind := x.blind || r.blindEdge } ∧
          openSpot desc r =
            { lane := r.lane, columnMin := r.first, columnMax := r.last, firstLine := desc.number, firstStamp := desc.stamp,
              lastLine := desc.number, lastStamp := desc.stamp, joined := 1, quiet := 0, pixels := r.pixels,
              classBits := r.classBits, lights := { r := desc.lighting = .r, t := desc.lighting = .t },
              minValue := r.minValue, maxValue := r.maxValue, blind := r.blindEdge, cut := false,
              patchIndex := desc.patchIndex, offset := desc.offset, sect := desc.sect, refused := false }) ∧
      (∀ (y : Spot) (pixels : Nat),
        x.absorb y pixels =
          { x with
            columnMin := min x.columnMin y.columnMin
            columnMax := max x.columnMax y.columnMax
            joined := max x.joined y.joined
            pixels := min 16777215 (x.pixels + pixels)
            classBits := x.classBits ||| y.classBits
            lights := { r := x.lights.r || y.lights.r, t := x.lights.t || y.lights.t }
            minValue := if x.minValue ≤ y.minValue then x.minValue else y.minValue
            maxValue := if x.maxValue ≤ y.maxValue then y.maxValue else x.maxValue
            blind := x.blind || y.blind
            refused := x.refused || y.refused }) ∧
      (∀ item : LineItem,
        (x.lastLine = item.desc.number → quietSpot part item x = x) ∧
          (x.lastLine ≠ item.desc.number →
            (quietSpot part item x).quiet = x.quiet + 1 ∧
              ((quietSpot part item x).blind = true ↔
                x.blind = true ∨
                  ∃ b ∈ item.blind, b.lo ≤ x.columnMax + part.link ∧ x.columnMin ≤ b.hi + part.link))) ∧
      (∀ (f : Face) (item : LineItem) (i : Fin 64) (s : State), (s.smFace f).spots[i] = some x →
        (∀ j : Fin 64, j ≠ i → (s.smFace f).spots[j] = none) →
        let y := quietSpot part item x
        let c : Closing :=
          { state := { s with sm := s.sm.set f { s.smFace f with spots := (s.smFace f).spots.set i.val (some y) } }
            closures := [] }
        quietStep s f part item =
          if item.desc.skipped = true then { state := s, closures := [] }
          else if x.lastLine ≠ item.desc.number ∧ part.reach ≤ y.quiet then closeSpot part f c (i, y)
          else c) ∧
      (qualifies part x = true ↔
        (part.lane x.lane).kind = .coated ∧ x.sect = .coated ∧ part.streakStart ≤ x.mdExtent ∧
          x.cdExtent ≤ (part.lane x.lane).maxWidth ∧ x.refused = false) ∧
      (∀ (f : Face) (desc : LineDesc) (i : Fin 64) (s : State), (s.smFace f).spots[i] = some x →
        let asks : Spot → Prop := fun y => y.lastLine = desc.number ∧ qualifies part y = true
        let request : Request :=
          { lane := x.lane, columnMin := x.columnMin, columnMax := x.columnMax, firstLine := x.firstLine,
            firstStamp := x.firstStamp, lastLine := x.lastLine, lastStamp := x.lastStamp, hits := x.joined,
            classBits := x.classBits, lights := x.lights }
        let answer := takeHandover s f part desc request
        let marked : Option Spot → State := fun y =>
          { answer.1 with
            sm := answer.1.sm.set f { answer.1.smFace f with spots := (answer.1.smFace f).spots.set i.val y } }
        offerSpot part f desc s (i, x) = marked (if answer.2 then none else some { x with refused := true }) ∧
          ((∀ (j : Fin 64) (y : Spot), (s.smFace f).spots[j] = some y → asks y → j = i) →
            handoverStep s f part desc = if asks x then offerSpot part f desc s (i, x) else s) ∧
          ∀ (j : Fin 64) (y : Spot), (s.smFace f).spots[j] = some y → asks x → asks y → x.columnMin < y.columnMin →
            (∀ (k : Fin 64) (z : Spot), (s.smFace f).spots[k] = some z → asks z → k = i ∨ k = j) →
            handoverStep s f part desc = offerSpot part f desc (offerSpot part f desc s (i, x)) (j, y)) ∧
      ∀ (f : Face) (i : Fin 64) (s : State), (s.smFace f).spots[i] = some x →
        let cut : Spot → Spot := fun y => { y with cut := true }
        let c : Closing :=
          { state :=
              { s with
                sm := s.sm.set f { s.smFace f with spots := (s.smFace f).spots.map fun y => y.map cut } }
            closures := [] }
        ((∀ j : Fin 64, j ≠ i → (s.smFace f).spots[j] = none) → cutSpots s f part = closeSpot part f c (i, cut x)) ∧
          ∀ (j : Fin 64) (y : Spot), j ≠ i → (s.smFace f).spots[j] = some y →
            (∀ k : Fin 64, k ≠ i → k ≠ j → (s.smFace f).spots[k] = none) →
            (x.firstStamp < y.firstStamp ∨ (x.firstStamp = y.firstStamp ∧ x.columnMin < y.columnMin)) →
            cutSpots s f part = closeSpot part f (closeSpot part f c (i, cut x)) (j, cut y)

/-- R80 to R92, R98: the life of a track. A run goes to the candidate with the nearest centre, the lower table index when two are
equally near. An observed track that claimed a run has a hit, one that claimed nothing has a miss, and a held track has neither. In the
change stage a TENTATIVE track is confirmed at its confirm hits, or fails once its misses exceed the limit or the numbers are
exhausted; a CONFIRMED one fades and a FADING one ends at their misses. A younger track whose centre lies in an older one's window
merges into it, and is taken in field by field; a TENTATIVE survivor that so reaches its confirm hits is confirmed before the younger
track's record. Confirming takes the next streak number, and closing frees the track; each with its record. A handover request opens a
TENTATIVE track in the lowest free entry (three of its fields rest on log 41), confirmed at once when its hits suffice, and the merge
check of its lane follows; a full table refuses it, counted in TRACK_FULL. A hit of a CONFIRMED track at or beyond its next repeat
stamp makes one mark request and moves that stamp beyond the hit. -/
def Obligations.TracksLive : Prop :=
  (∀ (part : FacePart) (desc : LineDesc) (blind : List Range) (t : Track) (r : Run),
    let missed := countTrack part desc blind [] t
    let hit := countTrack part desc blind [r] t
    (isHeld part desc blind t = false →
      missed.observed = bump32 t.observed ∧ missed.missRun = min 4095 (t.missRun + 1) ∧ missed.hits = t.hits ∧
        missed.state = t.state ∧ missed.lastHit = t.lastHit ∧ hit.observed = bump32 t.observed ∧
        hit.hits = bump32 t.hits ∧ hit.missRun = 0 ∧ hit.lastHit = desc.stamp ∧ hit.lights = t.lights.add desc.lighting ∧
        hit.centre2 = r.first + r.last ∧ hit.state = if t.state = .fading then .confirmed else t.state) ∧
      (isHeld part desc blind t = true →
        missed.hits = t.hits ∧ missed.missRun = t.missRun ∧ missed.observed = t.observed ∧
          missed.held = t.held.add desc.stamp ∧ hit.hits = t.hits ∧ hit.missRun = t.missRun ∧
          hit.pixels = bump24 t.pixels r.pixels)) ∧
    (∀ (part : FacePart) (desc : LineDesc) (r : Run) (i j : Fin 24) (t u : Track), i < j →
      (∀ x, candidateFor part desc r x = true ↔
        x.lane = r.lane ∧
          (x.centre2 ≤ 2 * r.last + 2 * (part.lane r.lane).window ∧ 2 * r.first ≤ x.centre2 + 2 * (part.lane r.lane).window) ∧
          ((part.lane r.lane).streakLighting = .either ∨
            ((part.lane r.lane).streakLighting = .r ∧ desc.lighting = .r) ∨
            ((part.lane r.lane).streakLighting = .t ∧ desc.lighting = .t))) ∧
        ((part.lane r.lane).kind = .margin ∨ desc.sect ≠ .coated → claimant part desc [(i, t), (j, u)] r = none) ∧
        ((part.lane r.lane).kind = .coated → desc.sect = .coated →
          (candidateFor part desc r t = false → candidateFor part desc r u = false →
            claimant part desc [(i, t), (j, u)] r = none) ∧
            (candidateFor part desc r t = true → candidateFor part desc r u = false →
              claimant part desc [(i, t), (j, u)] r = some i) ∧
            (candidateFor part desc r t = false → candidateFor part desc r u = true →
              claimant part desc [(i, t), (j, u)] r = some j) ∧
            (candidateFor part desc r t = true → candidateFor part desc r u = true →
              claimant part desc [(i, t), (j, u)] r =
                some
                  (if distance u.centre2 (r.first + r.last) < distance t.centre2 (r.first + r.last) then j else i)))) ∧
    (∀ t y : Track,
      t.takeIn y =
        { t with
          hits := min 4294967295 (t.hits + y.hits)
          pixels := min 16777215 (t.pixels + y.pixels)
          classBits := t.classBits ||| y.classBits
          lights := { r := t.lights.r || y.lights.r, t := t.lights.t || y.lights.t }
          columnMin := min t.columnMin y.columnMin
          columnMax := max t.columnMax y.columnMax
          maxWidth := max t.maxWidth y.maxWidth
          widened := t.widened || y.widened
          blind := t.blind || y.blind
          missRun := min t.missRun y.missRun
          lastHit := max t.lastHit y.lastHit }) ∧
    (∀ (part : FacePart) (f : Face) (desc : LineDesc) (q : Request) (s : State),
      let e := s.teFace f
      ((∀ i : Fin 24, e.tracks[i] ≠ none) →
        takeHandover s f part desc q =
          ({ s with te := { s.te with faces := s.te.faces.set f { e with full := e.full.add desc.stamp } } }, false)) ∧
        ∀ i : Fin 24, e.tracks[i] = none → (∀ j : Fin 24, j < i → e.tracks[j] ≠ none) →
          let width := q.columnMax - q.columnMin + 1
          let t : Track :=
            { state := .tentative, lane := q.lane, centre2 := q.columnMin + q.columnMax, widthNow := width,
              maxWidth := width, columnMin := q.columnMin, columnMax := q.columnMax, widened := false,
              firstStamp := q.firstStamp, patchIndex := desc.patchIndex, offset := q.firstStamp - e.patchStart,
              lastHit := q.lastStamp, hits := q.hits, observed := q.lastLine - q.firstLine + 1, held := Tally.empty,
              missRun := 0, pixels := 0, classBits := q.classBits, lights := q.lights, blind := false, number := 0,
              confirmStamp := 0, patches := 1, nextRepeat := 0, openSource := 0 }
          let opened : State :=
            { s with te := { s.te with faces := s.te.faces.set f { e with tracks := e.tracks.set i.val (some t) } } }
          let v := changeOne part f desc opened i
          takeHandover s f part desc q = (mergeLane part f desc.stamp v q.lane, true) ∧
            ((∀ (j : Fin 24) (y : Track), j ≠ i → e.tracks[j] = some y → y.lane ≠ q.lane) →
              takeHandover s f part desc q = (v, true))) ∧
    (∀ (part : FacePart) (f : Face) (stamp : Int) (lane : Nat) (i j : Fin 24) (t y : Track) (s : State), i ≠ j →
      s.track f i = some t → s.track f j = some y → t.lane = lane → y.lane = lane →
      (∀ (k : Fin 24) (z : Track), k ≠ i → k ≠ j → s.track f k = some z → z.lane ≠ lane) →
      (t.firstStamp < y.firstStamp ∨ (t.firstStamp = y.firstStamp ∧ i < j)) →
      mergeLane part f stamp s lane = mergeOne part f stamp i s j) ∧
    (∀ (part : FacePart) (f : Face) (item : LineItem) (claims : List Claimed) (i : Fin 24) (t : Track) (s : State),
      let runs := (claims.filter fun c => decide (c.track = some i)).map Claimed.run
      let u := countTrack part item.desc item.blind runs t
      let stamp := item.desc.stamp
      let interval := (s.shared.map SharedPart.repeatInterval).getD 0
      let counted := s.setTrack f i (some u)
      let tested := u.state = .confirmed ∧ runs ≠ [] ∧ isHeld part item.desc item.blind t = false
      let v := countOne part f item claims s (i, t)
      ((¬tested ∨ interval = 0 ∨ stamp < u.nextRepeat) → v = counted) ∧
        (tested → interval ≠ 0 → ∀ n : Nat, 0 < n → u.nextRepeat + (n - 1 : Nat) * interval ≤ stamp →
          stamp < u.nextRepeat + n * interval →
          v =
            (requestOnly counted .streak stamp u.openSource).setTrack f i
              (some { u with nextRepeat := u.nextRepeat + n * interval }))) ∧
    ∀ (part : FacePart) (f : Face) (desc : LineDesc) (i : Fin 24) (t : Track) (s : State), s.track f i = some t →
      let lane := part.lane t.lane
      let u := changeOne part f desc s i
      let failed : Bool → State := fun cut =>
        ((issueMarked s
          (.large
            { face := f, lane := t.lane, first := t.firstStamp, last := t.lastHit, patchIndex := t.patchIndex,
              offset := t.offset, cdMin := t.columnMin, cdMax := t.columnMax, pixels := t.pixels,
              classBits := t.classBits, lights := t.lights, cut := cut, blind := t.blind, failed := true })
          .large t.firstStamp).1.setTrack f i none).onTeFace f fun e => { e with larges := bump16 e.larges }
      let closed : CloseReason → Nat → State := fun reason survivor =>
        ((issue s
          (.streakClose t.number f t.lastHit t.hits t.observed t.maxWidth reason t.patches t.widened survivor t.held)).setTrack
            f i none).onTeFace f fun e => { e with openStreaks := e.openStreaks - 1 }
      (t.state = .tentative →
        (lane.confirmHits ≤ t.hits → 16777215 < s.te.nextStreak → u = failed false) ∧
          (lane.confirmHits ≤ t.hits → s.te.nextStreak ≤ 16777215 →
            u.te.nextStreak = s.te.nextStreak + 1 ∧
              (∃ x, u.track f i = some x ∧ x.state = .confirmed ∧ x.number = s.te.nextStreak ∧
                x.confirmStamp = desc.stamp ∧ x.hits = t.hits ∧
                x.nextRepeat = desc.stamp + (s.shared.map SharedPart.repeatInterval).getD 0) ∧
              (u.teFace f).confirmations = bump16 (s.teFace f).confirmations ∧
              (u.teFace f).openStreaks = (s.teFace f).openStreaks + 1 ∧ u.xu.flags.getLsbD 2 = true ∧
              u.ru =
                (issueMarked s
                  (.streakOpen s.te.nextStreak f t.lane (t.centre2 / 2) t.widthNow t.firstStamp desc.stamp t.patchIndex
                    t.classBits) .streak desc.stamp).1.ru) ∧
          (t.hits < lane.confirmHits → lane.tentativeLimit < t.missRun → u = failed false) ∧
          (t.hits < lane.confirmHits → t.missRun ≤ lane.tentativeLimit → u = s)) ∧
        (t.state = .confirmed →
          (lane.fadeMisses ≤ t.missRun → u = s.setTrack f i (some { t with state := .fading })) ∧
            (t.missRun < lane.fadeMisses → u = s)) ∧
        (t.state = .fading →
          (lane.endMisses ≤ t.missRun → u = closed .faded 0) ∧ (t.missRun < lane.endMisses → u = s)) ∧
        (∀ reason,
          (t.state = .tentative → cutOne f reason s (i, t) = failed true) ∧
            (t.state ≠ .tentative → cutOne f reason s (i, t) = closed reason 0)) ∧
        ∀ (j : Fin 24) (y : Track), j ≠ i → s.track f j = some y →
          let v := mergeOne part f desc.stamp j s i
          (2 * (part.lane y.lane).window < distance y.centre2 t.centre2 → v = s) ∧
            (distance y.centre2 t.centre2 ≤ 2 * (part.lane y.lane).window →
              v.track f i = none ∧
                (y.state = .confirmed → v.track f j = some (y.takeIn t)) ∧
                (y.state = .fading →
                  v.track f j =
                    some
                      (if min y.missRun t.missRun < (part.lane y.lane).fadeMisses then
                        { y.takeIn t with state := .confirmed }
                      else y.takeIn t)) ∧
                (y.state = .tentative →
                  let joined := y.takeIn t
                  let merged : State → Nat → State := fun w survivor =>
                    if t.state = .tentative then w
                    else
                      issue w
                        (.streakClose t.number f t.lastHit t.hits t.observed t.maxWidth .merged t.patches t.widened survivor
                          t.held)
                  (joined.hits < (part.lane y.lane).confirmHits →
                    v.track f j = some joined ∧ v.ru = (merged s joined.number).ru) ∧
                    ((part.lane y.lane).confirmHits ≤ joined.hits → s.te.nextStreak ≤ 16777215 →
                      (∃ x, v.track f j = some x ∧ x.state = .confirmed ∧ x.number = s.te.nextStreak ∧
                        x.confirmStamp = desc.stamp ∧ x.hits = joined.hits) ∧
                        v.ru =
                          (merged
                            (issueMarked s
                              (.streakOpen s.te.nextStreak f y.lane (y.centre2 / 2) y.widthNow y.firstStamp desc.stamp
                                y.patchIndex joined.classBits) .streak desc.stamp).1 s.te.nextStreak).ru) ∧
                    ((part.lane y.lane).confirmHits ≤ joined.hits → 16777215 < s.te.nextStreak →
                      v.track f j = none ∧ (v.teFace f).larges = bump16 (s.teFace f).larges)) ∧
                (t.state = .tentative → y.state ≠ .tentative → v.ru = s.ru) ∧
                (t.state ≠ .tentative → y.state ≠ .tentative →
                  v.ru =
                    (issue s
                      (.streakClose t.number f t.lastHit t.hits t.observed t.maxWidth .merged t.patches t.widened y.number
                        t.held)).ru))

/-- R104 to R113: the life of a closure. One of the lower face has its columns mapped into those of the upper face by the shared part,
by adding b, or by taking them from b where the map has a mirror; so have the lower face's blind ranges. While pairing is active it is
paired with the first matching entry of the other face, which leaves the list; one that matches nothing is UNCERTAIN at once when the
other face is finished, is resolved at once when that face has passed its due stamp, and else enters the list in due order, the head of
a full list being evicted. With pairing off it is issued OFF. Resolving reads the doubt log: UNCERTAIN when the window reaches the
floor or a stretch meets it, else SINGLE. Progress resolves the entries of the other face that are due, in list order. A doubt extends
a stretch that ran up to the face's previous line or opens one; a full log drops its first stretch, the first entered of those with the
earliest first stamp (log 38), and raises the floor. Stretches below the reach point are discarded. -/
def Obligations.ClosuresPairedAndResolved : Prop :=
  (∀ (c : Closure) (s : State),
    (c.face = .upper → mapClosure s c = c) ∧
      ∀ sp : SharedPart, s.shared = some sp → c.face = .lower →
        (sp.mirror = false →
          mapClosure s c = { c with cdMin := c.cdMin + sp.columnOffset, cdMax := c.cdMax + sp.columnOffset }) ∧
          (sp.mirror = true →
            mapClosure s c = { c with cdMin := sp.columnOffset - c.cdMax, cdMax := sp.columnOffset - c.cdMin })) ∧
    (∀ (f : Face) (item : LineItem) (s : State),
      let mapped : Range → DoubtKind := fun r =>
        match f, s.shared with
        | .lower, some sp =>
          if sp.mirror then .blind (sp.columnOffset - r.hi) (sp.columnOffset - r.lo)
          else .blind (r.lo + sp.columnOffset) (r.hi + sp.columnOffset)
        | _, _ => .blind r.lo r.hi
      lineDoubts s f item =
        if item.desc.skipped = true ∨ item.desc.excluded = true ∨ item.desc.sect = .wait then [.whole]
        else item.blind.map mapped) ∧
  (∀ (closure : Closure) (e : PairEntry) (before after : List PairEntry) (s : State), s.pu.active = true →
    s.pu.list = before ++ e :: after →
    let c := mapClosure s closure
    let t := cdTolerance s
    let w := mdWindow s
    let matching : PairEntry → Prop := fun x =>
      x.closure.face = otherFace c.face ∧ c.cdMin ≤ x.closure.cdMax + t ∧ x.closure.cdMin ≤ c.cdMax + t ∧
        c.first ≤ x.closure.last + w ∧ x.closure.first ≤ c.last + w
    (∀ x ∈ before, ¬matching x) → matching e →
    let u := takeClosure s closure
    u.pu.list = before ++ after ∧ u.pu.throughs = bump32 s.pu.throughs ∧ u.pu.pinholes = bump32 s.pu.pinholes ∧
      u.xu.flags.getLsbD 3 = true ∧ u.mu = s.mu ∧ u.te = s.te ∧ u.sm = s.sm) ∧
    (∀ (closure : Closure) (s : State),
      let c := mapClosure s closure
      let g := otherFace c.face
      let due := c.last + mdWindow s
      let e : PairEntry := { closure := c, due := due }
      let u := takeClosure s closure
      (s.pu.active = false → u = issueSingle .off s c) ∧
        (s.pu.active = true → (∀ x ∈ s.pu.list, entryMatches s c x = false) →
          ((s.puFace g).finished = true → u = issueSingle .uncertain s c) ∧
            ((s.puFace g).finished = false → due ≤ (s.puFace g).processed → u = resolveEntry g s e) ∧
            ((s.puFace g).finished = false → (s.puFace g).processed < due →
              (s.pu.list.length < 128 →
                ∀ before after, s.pu.list = before ++ after → (∀ x ∈ before, x.due ≤ due) → (∀ x ∈ after.head?, due < x.due) →
                  u = { s with pu := { s.pu with list := before ++ e :: after } }) ∧
                (∀ head rest, s.pu.list = head :: rest → 128 ≤ s.pu.list.length →
                  ∀ before after, rest = before ++ after → (∀ x ∈ before, x.due ≤ due) → (∀ x ∈ after.head?, due < x.due) →
                    let evicted := issueSingle .evicted { s with pu := { s.pu with list := rest } } head.closure
                    u = discardLogs { evicted with pu := { evicted.pu with list := before ++ e :: after } })))) ∧
    (∀ (g : Face) (e : PairEntry) (s : State),
      let p := s.puFace g
      let c := e.closure
      let w := mdWindow s
      let tol := cdTolerance s
      let doubt :=
        c.first - w ≤ p.floor ∨
          ∃ x ∈ p.log, x.first ≤ e.due ∧ c.first - w ≤ x.last ∧
            (x.kind = .whole ∨ ∃ lo hi, x.kind = .blind lo hi ∧ lo ≤ c.cdMax + tol ∧ c.cdMin - tol ≤ hi)
      (doubt → resolveEntry g s e = issueSingle .uncertain s c) ∧
        (¬doubt → resolveEntry g s e = issueSingle .single s c)) ∧
    (∀ (result : PinholeResult) (c : Closure) (s : State),
      let u := issueSingle result s c
      u.pu = { s.pu with pinholes := bump32 s.pu.pinholes } ∧
        u.ru = (issueMarked s (.pinhole result c none) .pinholeOther c.first).1.ru ∧ u.te = s.te ∧ u.sm = s.sm ∧ u.mu = s.mu) ∧
    (∀ (f : Face) (s : State),
      let passed : PairEntry → Bool := fun e =>
        decide (e.closure.face = otherFace f) && decide (e.due ≤ (s.puFace f).processed)
      resolvePassed s f =
        (s.pu.list.filter passed).foldl (resolveEntry f)
          { s with pu := { s.pu with list := s.pu.list.filter fun e => !passed e } }) ∧
    (∀ (stamp : Int) (p : PuFace) (kind : DoubtKind),
      (∀ before x after, p.log = before ++ x :: after →
        (∀ y ∈ before, ¬(y.kind = kind ∧ p.lastLine = some y.last)) → x.kind = kind → p.lastLine = some x.last →
        logDoubt stamp p kind = { p with log := before ++ { x with last := stamp } :: after }) ∧
        ((∀ y ∈ p.log, ¬(y.kind = kind ∧ p.lastLine = some y.last)) →
          let fresh : Stretch := { kind := kind, first := stamp, last := stamp }
          (p.log.length < 64 → logDoubt stamp p kind = { p with log := p.log ++ [fresh] }) ∧
            ∀ oldest rest, p.log = oldest :: rest → 64 ≤ p.log.length →
              logDoubt stamp p kind = { p with log := rest ++ [fresh], floor := max p.floor oldest.last })) ∧
    ∀ (g : Face) (s : State),
      let f := otherFace g
      let t := discardLogs s
      t.pu.list = s.pu.list ∧ (t.puFace g).floor = (s.puFace g).floor ∧ (t.puFace g).processed = (s.puFace g).processed ∧
        ∀ x, x ∈ (t.puFace g).log ↔
          x ∈ (s.puFace g).log ∧
            ((s.puFace f).processed + 1 - mdWindow s ≤ x.last ∨
              ∃ e ∈ s.pu.list, e.closure.face = f ∧ e.closure.first - mdWindow s ≤ x.last)

/-- R132, R187, R193, R197: every record fills its slots of 32 bytes, and a page header its 64. Each field stands little-endian at its
offset, and every byte that no field names is 0. The extent byte of a second slot is R59's extent (log 31), and a THROUGH record unites
the flags CUT and BLIND of its closures but shows the lights of the first alone (log 51). -/
def Obligations.RecordFillsSlots : Prop :=
  (∀ n : Nat,
    let b : Nat → Byte := fun k => BitVec.ofNat 8 (n / 256 ^ k)
    le16 n = [b 0, b 1] ∧ le24 n = [b 0, b 1, b 2] ∧ le32 n = [b 0, b 1, b 2, b 3] ∧
      le64 n = [b 0, b 1, b 2, b 3, b 4, b 5, b 6, b 7]) ∧
    (∀ i : Int, leInt16 i = le16 (i % 65536).toNat ∧ leInt32 i = le32 (i % 4294967296).toNat) ∧
    (∀ x : Record,
      let bytes := recordBytes x
      let filled : Nat → List (Nat × List Byte) → Prop := fun slot fields =>
        (∀ f ∈ fields, (bytes.drop (32 * slot + f.1)).take f.2.length = f.2) ∧
          ∀ j < 32, (∀ f ∈ fields, j < f.1 ∨ f.1 + f.2.length ≤ j) → bytes[32 * slot + j]? = some 0
      let byte : Nat → Byte := BitVec.ofNat 8
      let bit : Bool → Nat → Nat := fun flag weight => if flag then weight else 0
      let side : Face → Nat := fun f => if f = .upper then 0 else 1
      let head : Nat → Nat → Nat → Nat → Nat → List (Nat × List Byte) := fun kind face code a b =>
        [(0, [byte kind]), (1, [byte (64 * face + 8 * x.mark.code + code)]), (2, [byte a]), (3, [byte b]),
          (4, le32 x.seq)]
      let second : Nat → Nat → Nat → List (Nat × List Byte) := fun kind face b =>
        [(0, [byte kind]), (1, [byte (128 + 64 * face + 8 * x.mark.code)]), (3, [byte b]), (4, le32 x.seq)]
      let object : Nat → SpotFields → List (Nat × List Byte) := fun kind y =>
        head kind (side y.face) 0
            (bit y.cut 1 + bit y.blind 2 + bit y.lights.r 4 + bit y.lights.t 8 + bit y.failed 16) y.classBits.toNat
          ++ [(8, leInt32 y.first), (12, leInt32 y.last), (16, le32 y.patchIndex.toNat), (20, leInt32 y.offset),
            (24, le16 y.cdMin), (26, le16 y.cdMax), (28, [byte y.lane]), (29, le24 y.pixels)]
      bytes.length = 32 * x.body.slots ∧
        match x.body with
        | .rollStart rollId s0 slot id =>
          filled 0 (head 0x01 0 0 slot.toNat 0 ++ [(8, le32 rollId.toNat), (12, leInt32 s0), (16, le32 id.toNat)])
        | .rollEnd stamp reason pinholes through spots larges streaks =>
          filled 0
            (head 0x02 0 reason.code 0 0
              ++ [(8, leInt32 stamp), (12, le32 pinholes), (16, le32 through), (20, le32 spots), (24, le32 larges),
                (28, le32 streaks)])
        | .patch face index first last flags edgeExtra pinholes spots larges confirmations noise =>
          filled 0
            (head 0x03 (side face) 0
                (bit flags.synthStart 1 + bit flags.synthEnd 2 + bit flags.short 4 + bit flags.long 8
                  + bit flags.segment 16 + bit edgeExtra 32) 0
              ++ [(8, le32 index.toNat), (12, leInt32 first), (16, leInt32 last), (22, le16 pinholes),
                (24, le16 spots), (26, le16 larges), (28, le16 confirmations), (30, le16 noise)])
        | .pinhole result c partner =>
          filled 0
              (head 0x10 (side c.face) result.code
                  (bit (c.cut || partner.any fun q => q.cut) 1 + bit (c.blind || partner.any fun q => q.blind) 2
                    + bit c.lights.r 4 + bit c.lights.t 8) c.classBits.toNat
                ++ [(8, leInt32 c.first), (12, leInt32 c.last), (16, le32 c.patchIndex.toNat), (20, leInt32 c.offset),
                  (24, leInt16 c.cdMin), (26, [BitVec.ofInt 8 (c.cdMax - c.cdMin)]), (27, [c.minValue]),
                  (28, [c.maxValue]), (29, le24 c.pixels)]) ∧
            ∀ q ∈ partner,
              filled 1
                (second 0x10 (side q.face) q.classBits.toNat
                  ++ [(8, leInt32 q.first), (12, leInt32 q.last), (16, leInt16 q.cdMin),
                    (18, [BitVec.ofInt 8 (q.cdMax - q.cdMin + 1)]), (19, [q.minValue]), (20, [q.maxValue]),
                    (21, le24 q.pixels)])
        | .spot y => filled 0 (object 0x11 y)
        | .large y => filled 0 (object 0x12 y)
        | .streakOpen number face lane centre width start confirm patchIndex classBits =>
          filled 0
            (head 0x20 (side face) 0 lane classBits.toNat
              ++ [(8, le32 number), (12, leInt32 start), (16, leInt32 confirm), (20, le32 patchIndex.toNat),
                (24, le16 centre), (26, le16 width)])
        | .streakClose number face stop hits observed maxWidth reason patches widened survivor held =>
          filled 0
              (head 0x21 (side face) reason.code (bit widened 1) 0
                ++ [(8, le32 number), (12, leInt32 stop), (16, le32 hits), (20, le32 observed), (24, le16 maxWidth),
                  (26, le16 patches)]) ∧
            (x.body.slots = 2 →
              filled 1
                (second 0x21 (side face) 0
                  ++ [(8, le32 survivor), (12, le32 held.count), (16, leInt32 held.first), (20, leInt32 held.last)]))
        | .markMissed out fire source reason =>
          filled 0 (head 0x30 0 0 (if out = .a then 0 else 1) reason.code ++ [(8, leInt32 fire), (12, le32 source.toNat)])
        | .fault code subject first last count =>
          let name := match subject with
            | .face f => (side f, side f)
            | .head p => (0, p.val)
            | .none => (0, 0xFF)
          filled 0
            (head 0x40 name.1 0 code.code name.2 ++ [(8, leInt32 first), (12, leInt32 last), (16, le32 count)])
        | .splice stamp first last =>
          filled 0 (head 0x41 0 0 0 0 ++ [(8, leInt32 stamp), (12, leInt32 first), (16, leInt32 last)])
        | .recipe face slot id effective =>
          filled 0 (head 0x50 (side face) 0 slot.toNat 0 ++ [(8, le32 id.toNat), (12, leInt32 effective)])
        | .note value stamp => filled 0 (head 0x51 0 0 0 0 ++ [(8, le64 value.toNat), (16, leInt32 stamp)])
        | .loss firstLost count first last pinhole streak =>
          filled 0
            (head 0x60 0 0 0 0
              ++ [(8, le32 firstLost), (12, le32 count), (16, leInt32 first), (20, leInt32 last), (24, le32 pinhole),
                (28, le32 streak)])) ∧
    (∀ (sequence rollId : Word) (page : Page) (reason : PostReason) (previous : BitVec 64) (stamp : Int) (a b : Record),
      let bytes := pageHeader sequence rollId page reason previous stamp
      let fields : List (Nat × List Byte) :=
        [(0, le32 sequence.toNat), (4, le32 rollId.toNat), (8, le16 page.used), (10, [BitVec.ofNat 8 reason.code]),
          (12, le32 a.seq), (16, le32 b.seq), (24, le64 previous.toNat), (32, leInt32 stamp)]
      bytes.length = 64 ∧
        (page.records.head? = some a → page.records.getLast? = some b →
          (∀ f ∈ fields, (bytes.drop f.1).take f.2.length = f.2) ∧
            ∀ j < 64, (∀ f ∈ fields, j < f.1 ∨ f.1 + f.2.length ≤ j) → bytes[j]? = some 0)) ∧
    [MarkState.none, .queued, .partly, .late, .full].map MarkState.code = [0, 1, 2, 3, 4] ∧
    [EndReason.stop, .halt, .limit].map EndReason.code = [1, 2, 3] ∧
    [PinholeResult.single, .through, .uncertain, .evicted, .unresolved, .off].map PinholeResult.code =
      [0, 1, 2, 3, 4, 5] ∧
    [CloseReason.faded, .patchEnd, .merged, .recipe, .splice, .stop, .halt, .limit].map CloseReason.code =
      [0, 1, 2, 3, 4, 5, 6, 7] ∧
    [MissReason.brk, .rollEnd].map MissReason.code = [1, 2] ∧
    [PostReason.full, .age, .stall, .flush, .rollEnd, .halt].map PostReason.code = [1, 2, 3, 4, 5, 6]

/-- R26: the check word, byte by byte and bit by bit; every TRIGGER and RETRAIN carries it, and a received LINE passes when its own
equals the one over the bytes before it. -/
def Obligations.CheckWord : Prop :=
  checkWord [] = 0xFFFF#16 ∧
    (∀ (bytes : List Byte) (byte : Byte),
      let enter : BitVec 16 → Nat → BitVec 16 := fun reg i =>
        let shifted := reg <<< 1
        if reg.getLsbD 15 ≠ byte.getLsbD i then shifted ^^^ 0x1021#16 else shifted
      checkWord (bytes ++ [byte]) =
        enter (enter (enter (enter (enter (enter (enter (enter (checkWord bytes) 7) 6) 5) 4) 3) 2) 1) 0) ∧
    (∀ (number : Nat) (lighting : Lighting),
      let body : List Byte := [0x01#8, BitVec.ofNat 8 number, lightingByte lighting]
      triggerPacket number lighting =
        body ++ [(checkWord body >>> 8).setWidth 8, (checkWord body).setWidth 8]) ∧
    retrainPacket = [0x02#8, (checkWord [0x02#8] >>> 8).setWidth 8, (checkWord [0x02#8]).setWidth 8] ∧
    ∀ (packet : Packet) (body : List Byte) (high low : Byte), packet.bytes = body ++ [high, low] →
      (lineChecked packet = true ↔ 256 * high.toNat + low.toNat = (checkWord body).toNat)
end

