-- ==== Sys2Proof/Laws/State.lean ====
section
/-! SUPPORT. One lemma for each field and each update of the state, true by computation, so that no proof unfolds an update. -/

namespace Sys2Proof.Machine

variable (s : State)


/-! ### onMu -/

@[simp] theorem State.onMu_pending (g : MotionUnit → MotionUnit) : (s.onMu g).pending = s.pending := rfl
@[simp] theorem State.onMu_straps (g : MotionUnit → MotionUnit) : (s.onMu g).straps = s.straps := rfl
@[simp] theorem State.onMu_pins (g : MotionUnit → MotionUnit) : (s.onMu g).pins = s.pins := rfl
@[simp] theorem State.onMu_mu (g : MotionUnit → MotionUnit) : (s.onMu g).mu = g s.mu := rfl
@[simp] theorem State.onMu_lu (g : MotionUnit → MotionUnit) : (s.onMu g).lu = s.lu := rfl
@[simp] theorem State.onMu_rx (g : MotionUnit → MotionUnit) : (s.onMu g).rx = s.rx := rfl
@[simp] theorem State.onMu_te (g : MotionUnit → MotionUnit) : (s.onMu g).te = s.te := rfl
@[simp] theorem State.onMu_sm (g : MotionUnit → MotionUnit) : (s.onMu g).sm = s.sm := rfl
@[simp] theorem State.onMu_pu (g : MotionUnit → MotionUnit) : (s.onMu g).pu = s.pu := rfl
@[simp] theorem State.onMu_ku (g : MotionUnit → MotionUnit) : (s.onMu g).ku = s.ku := rfl
@[simp] theorem State.onMu_ru (g : MotionUnit → MotionUnit) : (s.onMu g).ru = s.ru := rfl
@[simp] theorem State.onMu_rs (g : MotionUnit → MotionUnit) : (s.onMu g).rs = s.rs := rfl
@[simp] theorem State.onMu_cu (g : MotionUnit → MotionUnit) : (s.onMu g).cu = s.cu := rfl
@[simp] theorem State.onMu_xu (g : MotionUnit → MotionUnit) : (s.onMu g).xu = s.xu := rfl
@[simp] theorem State.onMu_out (g : MotionUnit → MotionUnit) : (s.onMu g).out = s.out := rfl
@[simp] theorem State.onMu_free (g : MotionUnit → MotionUnit) : (s.onMu g).free = s.free := rfl

/-! ### onLu -/

@[simp] theorem State.onLu_pending (g : LinkUnit → LinkUnit) : (s.onLu g).pending = s.pending := rfl
@[simp] theorem State.onLu_straps (g : LinkUnit → LinkUnit) : (s.onLu g).straps = s.straps := rfl
@[simp] theorem State.onLu_pins (g : LinkUnit → LinkUnit) : (s.onLu g).pins = s.pins := rfl
@[simp] theorem State.onLu_mu (g : LinkUnit → LinkUnit) : (s.onLu g).mu = s.mu := rfl
@[simp] theorem State.onLu_lu (g : LinkUnit → LinkUnit) : (s.onLu g).lu = g s.lu := rfl
@[simp] theorem State.onLu_rx (g : LinkUnit → LinkUnit) : (s.onLu g).rx = s.rx := rfl
@[simp] theorem State.onLu_te (g : LinkUnit → LinkUnit) : (s.onLu g).te = s.te := rfl
@[simp] theorem State.onLu_sm (g : LinkUnit → LinkUnit) : (s.onLu g).sm = s.sm := rfl
@[simp] theorem State.onLu_pu (g : LinkUnit → LinkUnit) : (s.onLu g).pu = s.pu := rfl
@[simp] theorem State.onLu_ku (g : LinkUnit → LinkUnit) : (s.onLu g).ku = s.ku := rfl
@[simp] theorem State.onLu_ru (g : LinkUnit → LinkUnit) : (s.onLu g).ru = s.ru := rfl
@[simp] theorem State.onLu_rs (g : LinkUnit → LinkUnit) : (s.onLu g).rs = s.rs := rfl
@[simp] theorem State.onLu_cu (g : LinkUnit → LinkUnit) : (s.onLu g).cu = s.cu := rfl
@[simp] theorem State.onLu_xu (g : LinkUnit → LinkUnit) : (s.onLu g).xu = s.xu := rfl
@[simp] theorem State.onLu_out (g : LinkUnit → LinkUnit) : (s.onLu g).out = s.out := rfl
@[simp] theorem State.onLu_free (g : LinkUnit → LinkUnit) : (s.onLu g).free = s.free := rfl

/-! ### onRx -/

@[simp] theorem State.onRx_pending (g : PerFace RxFace → PerFace RxFace) : (s.onRx g).pending = s.pending := rfl
@[simp] theorem State.onRx_straps (g : PerFace RxFace → PerFace RxFace) : (s.onRx g).straps = s.straps := rfl
@[simp] theorem State.onRx_pins (g : PerFace RxFace → PerFace RxFace) : (s.onRx g).pins = s.pins := rfl
@[simp] theorem State.onRx_mu (g : PerFace RxFace → PerFace RxFace) : (s.onRx g).mu = s.mu := rfl
@[simp] theorem State.onRx_lu (g : PerFace RxFace → PerFace RxFace) : (s.onRx g).lu = s.lu := rfl
@[simp] theorem State.onRx_rx (g : PerFace RxFace → PerFace RxFace) : (s.onRx g).rx = g s.rx := rfl
@[simp] theorem State.onRx_te (g : PerFace RxFace → PerFace RxFace) : (s.onRx g).te = s.te := rfl
@[simp] theorem State.onRx_sm (g : PerFace RxFace → PerFace RxFace) : (s.onRx g).sm = s.sm := rfl
@[simp] theorem State.onRx_pu (g : PerFace RxFace → PerFace RxFace) : (s.onRx g).pu = s.pu := rfl
@[simp] theorem State.onRx_ku (g : PerFace RxFace → PerFace RxFace) : (s.onRx g).ku = s.ku := rfl
@[simp] theorem State.onRx_ru (g : PerFace RxFace → PerFace RxFace) : (s.onRx g).ru = s.ru := rfl
@[simp] theorem State.onRx_rs (g : PerFace RxFace → PerFace RxFace) : (s.onRx g).rs = s.rs := rfl
@[simp] theorem State.onRx_cu (g : PerFace RxFace → PerFace RxFace) : (s.onRx g).cu = s.cu := rfl
@[simp] theorem State.onRx_xu (g : PerFace RxFace → PerFace RxFace) : (s.onRx g).xu = s.xu := rfl
@[simp] theorem State.onRx_out (g : PerFace RxFace → PerFace RxFace) : (s.onRx g).out = s.out := rfl
@[simp] theorem State.onRx_free (g : PerFace RxFace → PerFace RxFace) : (s.onRx g).free = s.free := rfl

/-! ### onTe -/

@[simp] theorem State.onTe_pending (g : TrackEngine → TrackEngine) : (s.onTe g).pending = s.pending := rfl
@[simp] theorem State.onTe_straps (g : TrackEngine → TrackEngine) : (s.onTe g).straps = s.straps := rfl
@[simp] theorem State.onTe_pins (g : TrackEngine → TrackEngine) : (s.onTe g).pins = s.pins := rfl
@[simp] theorem State.onTe_mu (g : TrackEngine → TrackEngine) : (s.onTe g).mu = s.mu := rfl
@[simp] theorem State.onTe_lu (g : TrackEngine → TrackEngine) : (s.onTe g).lu = s.lu := rfl
@[simp] theorem State.onTe_rx (g : TrackEngine → TrackEngine) : (s.onTe g).rx = s.rx := rfl
@[simp] theorem State.onTe_te (g : TrackEngine → TrackEngine) : (s.onTe g).te = g s.te := rfl
@[simp] theorem State.onTe_sm (g : TrackEngine → TrackEngine) : (s.onTe g).sm = s.sm := rfl
@[simp] theorem State.onTe_pu (g : TrackEngine → TrackEngine) : (s.onTe g).pu = s.pu := rfl
@[simp] theorem State.onTe_ku (g : TrackEngine → TrackEngine) : (s.onTe g).ku = s.ku := rfl
@[simp] theorem State.onTe_ru (g : TrackEngine → TrackEngine) : (s.onTe g).ru = s.ru := rfl
@[simp] theorem State.onTe_rs (g : TrackEngine → TrackEngine) : (s.onTe g).rs = s.rs := rfl
@[simp] theorem State.onTe_cu (g : TrackEngine → TrackEngine) : (s.onTe g).cu = s.cu := rfl
@[simp] theorem State.onTe_xu (g : TrackEngine → TrackEngine) : (s.onTe g).xu = s.xu := rfl
@[simp] theorem State.onTe_out (g : TrackEngine → TrackEngine) : (s.onTe g).out = s.out := rfl
@[simp] theorem State.onTe_free (g : TrackEngine → TrackEngine) : (s.onTe g).free = s.free := rfl

/-! ### onSm -/

@[simp] theorem State.onSm_pending (g : PerFace SmFace → PerFace SmFace) : (s.onSm g).pending = s.pending := rfl
@[simp] theorem State.onSm_straps (g : PerFace SmFace → PerFace SmFace) : (s.onSm g).straps = s.straps := rfl
@[simp] theorem State.onSm_pins (g : PerFace SmFace → PerFace SmFace) : (s.onSm g).pins = s.pins := rfl
@[simp] theorem State.onSm_mu (g : PerFace SmFace → PerFace SmFace) : (s.onSm g).mu = s.mu := rfl
@[simp] theorem State.onSm_lu (g : PerFace SmFace → PerFace SmFace) : (s.onSm g).lu = s.lu := rfl
@[simp] theorem State.onSm_rx (g : PerFace SmFace → PerFace SmFace) : (s.onSm g).rx = s.rx := rfl
@[simp] theorem State.onSm_te (g : PerFace SmFace → PerFace SmFace) : (s.onSm g).te = s.te := rfl
@[simp] theorem State.onSm_sm (g : PerFace SmFace → PerFace SmFace) : (s.onSm g).sm = g s.sm := rfl
@[simp] theorem State.onSm_pu (g : PerFace SmFace → PerFace SmFace) : (s.onSm g).pu = s.pu := rfl
@[simp] theorem State.onSm_ku (g : PerFace SmFace → PerFace SmFace) : (s.onSm g).ku = s.ku := rfl
@[simp] theorem State.onSm_ru (g : PerFace SmFace → PerFace SmFace) : (s.onSm g).ru = s.ru := rfl
@[simp] theorem State.onSm_rs (g : PerFace SmFace → PerFace SmFace) : (s.onSm g).rs = s.rs := rfl
@[simp] theorem State.onSm_cu (g : PerFace SmFace → PerFace SmFace) : (s.onSm g).cu = s.cu := rfl
@[simp] theorem State.onSm_xu (g : PerFace SmFace → PerFace SmFace) : (s.onSm g).xu = s.xu := rfl
@[simp] theorem State.onSm_out (g : PerFace SmFace → PerFace SmFace) : (s.onSm g).out = s.out := rfl
@[simp] theorem State.onSm_free (g : PerFace SmFace → PerFace SmFace) : (s.onSm g).free = s.free := rfl

/-! ### onPu -/

@[simp] theorem State.onPu_pending (g : PairingUnit → PairingUnit) : (s.onPu g).pending = s.pending := rfl
@[simp] theorem State.onPu_straps (g : PairingUnit → PairingUnit) : (s.onPu g).straps = s.straps := rfl
@[simp] theorem State.onPu_pins (g : PairingUnit → PairingUnit) : (s.onPu g).pins = s.pins := rfl
@[simp] theorem State.onPu_mu (g : PairingUnit → PairingUnit) : (s.onPu g).mu = s.mu := rfl
@[simp] theorem State.onPu_lu (g : PairingUnit → PairingUnit) : (s.onPu g).lu = s.lu := rfl
@[simp] theorem State.onPu_rx (g : PairingUnit → PairingUnit) : (s.onPu g).rx = s.rx := rfl
@[simp] theorem State.onPu_te (g : PairingUnit → PairingUnit) : (s.onPu g).te = s.te := rfl
@[simp] theorem State.onPu_sm (g : PairingUnit → PairingUnit) : (s.onPu g).sm = s.sm := rfl
@[simp] theorem State.onPu_pu (g : PairingUnit → PairingUnit) : (s.onPu g).pu = g s.pu := rfl
@[simp] theorem State.onPu_ku (g : PairingUnit → PairingUnit) : (s.onPu g).ku = s.ku := rfl
@[simp] theorem State.onPu_ru (g : PairingUnit → PairingUnit) : (s.onPu g).ru = s.ru := rfl
@[simp] theorem State.onPu_rs (g : PairingUnit → PairingUnit) : (s.onPu g).rs = s.rs := rfl
@[simp] theorem State.onPu_cu (g : PairingUnit → PairingUnit) : (s.onPu g).cu = s.cu := rfl
@[simp] theorem State.onPu_xu (g : PairingUnit → PairingUnit) : (s.onPu g).xu = s.xu := rfl
@[simp] theorem State.onPu_out (g : PairingUnit → PairingUnit) : (s.onPu g).out = s.out := rfl
@[simp] theorem State.onPu_free (g : PairingUnit → PairingUnit) : (s.onPu g).free = s.free := rfl

/-! ### onKu -/

@[simp] theorem State.onKu_pending (g : MarkUnit → MarkUnit) : (s.onKu g).pending = s.pending := rfl
@[simp] theorem State.onKu_straps (g : MarkUnit → MarkUnit) : (s.onKu g).straps = s.straps := rfl
@[simp] theorem State.onKu_pins (g : MarkUnit → MarkUnit) : (s.onKu g).pins = s.pins := rfl
@[simp] theorem State.onKu_mu (g : MarkUnit → MarkUnit) : (s.onKu g).mu = s.mu := rfl
@[simp] theorem State.onKu_lu (g : MarkUnit → MarkUnit) : (s.onKu g).lu = s.lu := rfl
@[simp] theorem State.onKu_rx (g : MarkUnit → MarkUnit) : (s.onKu g).rx = s.rx := rfl
@[simp] theorem State.onKu_te (g : MarkUnit → MarkUnit) : (s.onKu g).te = s.te := rfl
@[simp] theorem State.onKu_sm (g : MarkUnit → MarkUnit) : (s.onKu g).sm = s.sm := rfl
@[simp] theorem State.onKu_pu (g : MarkUnit → MarkUnit) : (s.onKu g).pu = s.pu := rfl
@[simp] theorem State.onKu_ku (g : MarkUnit → MarkUnit) : (s.onKu g).ku = g s.ku := rfl
@[simp] theorem State.onKu_ru (g : MarkUnit → MarkUnit) : (s.onKu g).ru = s.ru := rfl
@[simp] theorem State.onKu_rs (g : MarkUnit → MarkUnit) : (s.onKu g).rs = s.rs := rfl
@[simp] theorem State.onKu_cu (g : MarkUnit → MarkUnit) : (s.onKu g).cu = s.cu := rfl
@[simp] theorem State.onKu_xu (g : MarkUnit → MarkUnit) : (s.onKu g).xu = s.xu := rfl
@[simp] theorem State.onKu_out (g : MarkUnit → MarkUnit) : (s.onKu g).out = s.out := rfl
@[simp] theorem State.onKu_free (g : MarkUnit → MarkUnit) : (s.onKu g).free = s.free := rfl

/-! ### onRu -/

@[simp] theorem State.onRu_pending (g : RecordUnit → RecordUnit) : (s.onRu g).pending = s.pending := rfl
@[simp] theorem State.onRu_straps (g : RecordUnit → RecordUnit) : (s.onRu g).straps = s.straps := rfl
@[simp] theorem State.onRu_pins (g : RecordUnit → RecordUnit) : (s.onRu g).pins = s.pins := rfl
@[simp] theorem State.onRu_mu (g : RecordUnit → RecordUnit) : (s.onRu g).mu = s.mu := rfl
@[simp] theorem State.onRu_lu (g : RecordUnit → RecordUnit) : (s.onRu g).lu = s.lu := rfl
@[simp] theorem State.onRu_rx (g : RecordUnit → RecordUnit) : (s.onRu g).rx = s.rx := rfl
@[simp] theorem State.onRu_te (g : RecordUnit → RecordUnit) : (s.onRu g).te = s.te := rfl
@[simp] theorem State.onRu_sm (g : RecordUnit → RecordUnit) : (s.onRu g).sm = s.sm := rfl
@[simp] theorem State.onRu_pu (g : RecordUnit → RecordUnit) : (s.onRu g).pu = s.pu := rfl
@[simp] theorem State.onRu_ku (g : RecordUnit → RecordUnit) : (s.onRu g).ku = s.ku := rfl
@[simp] theorem State.onRu_ru (g : RecordUnit → RecordUnit) : (s.onRu g).ru = g s.ru := rfl
@[simp] theorem State.onRu_rs (g : RecordUnit → RecordUnit) : (s.onRu g).rs = s.rs := rfl
@[simp] theorem State.onRu_cu (g : RecordUnit → RecordUnit) : (s.onRu g).cu = s.cu := rfl
@[simp] theorem State.onRu_xu (g : RecordUnit → RecordUnit) : (s.onRu g).xu = s.xu := rfl
@[simp] theorem State.onRu_out (g : RecordUnit → RecordUnit) : (s.onRu g).out = s.out := rfl
@[simp] theorem State.onRu_free (g : RecordUnit → RecordUnit) : (s.onRu g).free = s.free := rfl

/-! ### onRs -/

@[simp] theorem State.onRs_pending (g : RecipeStore → RecipeStore) : (s.onRs g).pending = s.pending := rfl
@[simp] theorem State.onRs_straps (g : RecipeStore → RecipeStore) : (s.onRs g).straps = s.straps := rfl
@[simp] theorem State.onRs_pins (g : RecipeStore → RecipeStore) : (s.onRs g).pins = s.pins := rfl
@[simp] theorem State.onRs_mu (g : RecipeStore → RecipeStore) : (s.onRs g).mu = s.mu := rfl
@[simp] theorem State.onRs_lu (g : RecipeStore → RecipeStore) : (s.onRs g).lu = s.lu := rfl
@[simp] theorem State.onRs_rx (g : RecipeStore → RecipeStore) : (s.onRs g).rx = s.rx := rfl
@[simp] theorem State.onRs_te (g : RecipeStore → RecipeStore) : (s.onRs g).te = s.te := rfl
@[simp] theorem State.onRs_sm (g : RecipeStore → RecipeStore) : (s.onRs g).sm = s.sm := rfl
@[simp] theorem State.onRs_pu (g : RecipeStore → RecipeStore) : (s.onRs g).pu = s.pu := rfl
@[simp] theorem State.onRs_ku (g : RecipeStore → RecipeStore) : (s.onRs g).ku = s.ku := rfl
@[simp] theorem State.onRs_ru (g : RecipeStore → RecipeStore) : (s.onRs g).ru = s.ru := rfl
@[simp] theorem State.onRs_rs (g : RecipeStore → RecipeStore) : (s.onRs g).rs = g s.rs := rfl
@[simp] theorem State.onRs_cu (g : RecipeStore → RecipeStore) : (s.onRs g).cu = s.cu := rfl
@[simp] theorem State.onRs_xu (g : RecipeStore → RecipeStore) : (s.onRs g).xu = s.xu := rfl
@[simp] theorem State.onRs_out (g : RecipeStore → RecipeStore) : (s.onRs g).out = s.out := rfl
@[simp] theorem State.onRs_free (g : RecipeStore → RecipeStore) : (s.onRs g).free = s.free := rfl

/-! ### onCu -/

@[simp] theorem State.onCu_pending (g : ControlUnit → ControlUnit) : (s.onCu g).pending = s.pending := rfl
@[simp] theorem State.onCu_straps (g : ControlUnit → ControlUnit) : (s.onCu g).straps = s.straps := rfl
@[simp] theorem State.onCu_pins (g : ControlUnit → ControlUnit) : (s.onCu g).pins = s.pins := rfl
@[simp] theorem State.onCu_mu (g : ControlUnit → ControlUnit) : (s.onCu g).mu = s.mu := rfl
@[simp] theorem State.onCu_lu (g : ControlUnit → ControlUnit) : (s.onCu g).lu = s.lu := rfl
@[simp] theorem State.onCu_rx (g : ControlUnit → ControlUnit) : (s.onCu g).rx = s.rx := rfl
@[simp] theorem State.onCu_te (g : ControlUnit → ControlUnit) : (s.onCu g).te = s.te := rfl
@[simp] theorem State.onCu_sm (g : ControlUnit → ControlUnit) : (s.onCu g).sm = s.sm := rfl
@[simp] theorem State.onCu_pu (g : ControlUnit → ControlUnit) : (s.onCu g).pu = s.pu := rfl
@[simp] theorem State.onCu_ku (g : ControlUnit → ControlUnit) : (s.onCu g).ku = s.ku := rfl
@[simp] theorem State.onCu_ru (g : ControlUnit → ControlUnit) : (s.onCu g).ru = s.ru := rfl
@[simp] theorem State.onCu_rs (g : ControlUnit → ControlUnit) : (s.onCu g).rs = s.rs := rfl
@[simp] theorem State.onCu_cu (g : ControlUnit → ControlUnit) : (s.onCu g).cu = g s.cu := rfl
@[simp] theorem State.onCu_xu (g : ControlUnit → ControlUnit) : (s.onCu g).xu = s.xu := rfl
@[simp] theorem State.onCu_out (g : ControlUnit → ControlUnit) : (s.onCu g).out = s.out := rfl
@[simp] theorem State.onCu_free (g : ControlUnit → ControlUnit) : (s.onCu g).free = s.free := rfl

/-! ### onXu -/

@[simp] theorem State.onXu_pending (g : ExchangeUnit → ExchangeUnit) : (s.onXu g).pending = s.pending := rfl
@[simp] theorem State.onXu_straps (g : ExchangeUnit → ExchangeUnit) : (s.onXu g).straps = s.straps := rfl
@[simp] theorem State.onXu_pins (g : ExchangeUnit → ExchangeUnit) : (s.onXu g).pins = s.pins := rfl
@[simp] theorem State.onXu_mu (g : ExchangeUnit → ExchangeUnit) : (s.onXu g).mu = s.mu := rfl
@[simp] theorem State.onXu_lu (g : ExchangeUnit → ExchangeUnit) : (s.onXu g).lu = s.lu := rfl
@[simp] theorem State.onXu_rx (g : ExchangeUnit → ExchangeUnit) : (s.onXu g).rx = s.rx := rfl
@[simp] theorem State.onXu_te (g : ExchangeUnit → ExchangeUnit) : (s.onXu g).te = s.te := rfl
@[simp] theorem State.onXu_sm (g : ExchangeUnit → ExchangeUnit) : (s.onXu g).sm = s.sm := rfl
@[simp] theorem State.onXu_pu (g : ExchangeUnit → ExchangeUnit) : (s.onXu g).pu = s.pu := rfl
@[simp] theorem State.onXu_ku (g : ExchangeUnit → ExchangeUnit) : (s.onXu g).ku = s.ku := rfl
@[simp] theorem State.onXu_ru (g : ExchangeUnit → ExchangeUnit) : (s.onXu g).ru = s.ru := rfl
@[simp] theorem State.onXu_rs (g : ExchangeUnit → ExchangeUnit) : (s.onXu g).rs = s.rs := rfl
@[simp] theorem State.onXu_cu (g : ExchangeUnit → ExchangeUnit) : (s.onXu g).cu = s.cu := rfl
@[simp] theorem State.onXu_xu (g : ExchangeUnit → ExchangeUnit) : (s.onXu g).xu = g s.xu := rfl
@[simp] theorem State.onXu_out (g : ExchangeUnit → ExchangeUnit) : (s.onXu g).out = s.out := rfl
@[simp] theorem State.onXu_free (g : ExchangeUnit → ExchangeUnit) : (s.onXu g).free = s.free := rfl

/-! ### onPins -/

@[simp] theorem State.onPins_pending (g : Pins → Pins) : (s.onPins g).pending = s.pending := rfl
@[simp] theorem State.onPins_straps (g : Pins → Pins) : (s.onPins g).straps = s.straps := rfl
@[simp] theorem State.onPins_pins (g : Pins → Pins) : (s.onPins g).pins = g s.pins := rfl
@[simp] theorem State.onPins_mu (g : Pins → Pins) : (s.onPins g).mu = s.mu := rfl
@[simp] theorem State.onPins_lu (g : Pins → Pins) : (s.onPins g).lu = s.lu := rfl
@[simp] theorem State.onPins_rx (g : Pins → Pins) : (s.onPins g).rx = s.rx := rfl
@[simp] theorem State.onPins_te (g : Pins → Pins) : (s.onPins g).te = s.te := rfl
@[simp] theorem State.onPins_sm (g : Pins → Pins) : (s.onPins g).sm = s.sm := rfl
@[simp] theorem State.onPins_pu (g : Pins → Pins) : (s.onPins g).pu = s.pu := rfl
@[simp] theorem State.onPins_ku (g : Pins → Pins) : (s.onPins g).ku = s.ku := rfl
@[simp] theorem State.onPins_ru (g : Pins → Pins) : (s.onPins g).ru = s.ru := rfl
@[simp] theorem State.onPins_rs (g : Pins → Pins) : (s.onPins g).rs = s.rs := rfl
@[simp] theorem State.onPins_cu (g : Pins → Pins) : (s.onPins g).cu = s.cu := rfl
@[simp] theorem State.onPins_xu (g : Pins → Pins) : (s.onPins g).xu = s.xu := rfl
@[simp] theorem State.onPins_out (g : Pins → Pins) : (s.onPins g).out = s.out := rfl
@[simp] theorem State.onPins_free (g : Pins → Pins) : (s.onPins g).free = s.free := rfl

/-! ### emit -/

@[simp] theorem State.emit_pending (o : Output) : (s.emit o).pending = s.pending := rfl
@[simp] theorem State.emit_straps (o : Output) : (s.emit o).straps = s.straps := rfl
@[simp] theorem State.emit_pins (o : Output) : (s.emit o).pins = s.pins := rfl
@[simp] theorem State.emit_mu (o : Output) : (s.emit o).mu = s.mu := rfl
@[simp] theorem State.emit_lu (o : Output) : (s.emit o).lu = s.lu := rfl
@[simp] theorem State.emit_rx (o : Output) : (s.emit o).rx = s.rx := rfl
@[simp] theorem State.emit_te (o : Output) : (s.emit o).te = s.te := rfl
@[simp] theorem State.emit_sm (o : Output) : (s.emit o).sm = s.sm := rfl
@[simp] theorem State.emit_pu (o : Output) : (s.emit o).pu = s.pu := rfl
@[simp] theorem State.emit_ku (o : Output) : (s.emit o).ku = s.ku := rfl
@[simp] theorem State.emit_ru (o : Output) : (s.emit o).ru = s.ru := rfl
@[simp] theorem State.emit_rs (o : Output) : (s.emit o).rs = s.rs := rfl
@[simp] theorem State.emit_cu (o : Output) : (s.emit o).cu = s.cu := rfl
@[simp] theorem State.emit_xu (o : Output) : (s.emit o).xu = s.xu := rfl
@[simp] theorem State.emit_out (o : Output) : (s.emit o).out = s.out ++ [o] := rfl
@[simp] theorem State.emit_free (o : Output) : (s.emit o).free = s.free := rfl

/-! ### useFree -/

@[simp] theorem State.useFree_pending : (s.useFree).pending = s.pending := rfl
@[simp] theorem State.useFree_straps : (s.useFree).straps = s.straps := rfl
@[simp] theorem State.useFree_pins : (s.useFree).pins = s.pins := rfl
@[simp] theorem State.useFree_mu : (s.useFree).mu = s.mu := rfl
@[simp] theorem State.useFree_lu : (s.useFree).lu = s.lu := rfl
@[simp] theorem State.useFree_rx : (s.useFree).rx = s.rx := rfl
@[simp] theorem State.useFree_te : (s.useFree).te = s.te := rfl
@[simp] theorem State.useFree_sm : (s.useFree).sm = s.sm := rfl
@[simp] theorem State.useFree_pu : (s.useFree).pu = s.pu := rfl
@[simp] theorem State.useFree_ku : (s.useFree).ku = s.ku := rfl
@[simp] theorem State.useFree_ru : (s.useFree).ru = s.ru := rfl
@[simp] theorem State.useFree_rs : (s.useFree).rs = s.rs := rfl
@[simp] theorem State.useFree_cu : (s.useFree).cu = s.cu := rfl
@[simp] theorem State.useFree_xu : (s.useFree).xu = s.xu := rfl
@[simp] theorem State.useFree_out : (s.useFree).out = s.out := rfl
@[simp] theorem State.useFree_free : (s.useFree).free = s.free + 1 := rfl

/-! ### onMuFace -/

@[simp] theorem State.onMuFace_pending (f : Face) (g : MuFace → MuFace) : (s.onMuFace f g).pending = s.pending := rfl
@[simp] theorem State.onMuFace_straps (f : Face) (g : MuFace → MuFace) : (s.onMuFace f g).straps = s.straps := rfl
@[simp] theorem State.onMuFace_pins (f : Face) (g : MuFace → MuFace) : (s.onMuFace f g).pins = s.pins := rfl
@[simp] theorem State.onMuFace_mu (f : Face) (g : MuFace → MuFace) :
    (s.onMuFace f g).mu = { s.mu with faces := s.mu.faces.modify f g } := rfl
@[simp] theorem State.onMuFace_lu (f : Face) (g : MuFace → MuFace) : (s.onMuFace f g).lu = s.lu := rfl
@[simp] theorem State.onMuFace_rx (f : Face) (g : MuFace → MuFace) : (s.onMuFace f g).rx = s.rx := rfl
@[simp] theorem State.onMuFace_te (f : Face) (g : MuFace → MuFace) : (s.onMuFace f g).te = s.te := rfl
@[simp] theorem State.onMuFace_sm (f : Face) (g : MuFace → MuFace) : (s.onMuFace f g).sm = s.sm := rfl
@[simp] theorem State.onMuFace_pu (f : Face) (g : MuFace → MuFace) : (s.onMuFace f g).pu = s.pu := rfl
@[simp] theorem State.onMuFace_ku (f : Face) (g : MuFace → MuFace) : (s.onMuFace f g).ku = s.ku := rfl
@[simp] theorem State.onMuFace_ru (f : Face) (g : MuFace → MuFace) : (s.onMuFace f g).ru = s.ru := rfl
@[simp] theorem State.onMuFace_rs (f : Face) (g : MuFace → MuFace) : (s.onMuFace f g).rs = s.rs := rfl
@[simp] theorem State.onMuFace_cu (f : Face) (g : MuFace → MuFace) : (s.onMuFace f g).cu = s.cu := rfl
@[simp] theorem State.onMuFace_xu (f : Face) (g : MuFace → MuFace) : (s.onMuFace f g).xu = s.xu := rfl
@[simp] theorem State.onMuFace_out (f : Face) (g : MuFace → MuFace) : (s.onMuFace f g).out = s.out := rfl
@[simp] theorem State.onMuFace_free (f : Face) (g : MuFace → MuFace) : (s.onMuFace f g).free = s.free := rfl

/-! ### onLuFace -/

@[simp] theorem State.onLuFace_pending (f : Face) (g : LuFace → LuFace) : (s.onLuFace f g).pending = s.pending := rfl
@[simp] theorem State.onLuFace_straps (f : Face) (g : LuFace → LuFace) : (s.onLuFace f g).straps = s.straps := rfl
@[simp] theorem State.onLuFace_pins (f : Face) (g : LuFace → LuFace) : (s.onLuFace f g).pins = s.pins := rfl
@[simp] theorem State.onLuFace_mu (f : Face) (g : LuFace → LuFace) : (s.onLuFace f g).mu = s.mu := rfl
@[simp] theorem State.onLuFace_lu (f : Face) (g : LuFace → LuFace) :
    (s.onLuFace f g).lu = { s.lu with faces := s.lu.faces.modify f g } := rfl
@[simp] theorem State.onLuFace_rx (f : Face) (g : LuFace → LuFace) : (s.onLuFace f g).rx = s.rx := rfl
@[simp] theorem State.onLuFace_te (f : Face) (g : LuFace → LuFace) : (s.onLuFace f g).te = s.te := rfl
@[simp] theorem State.onLuFace_sm (f : Face) (g : LuFace → LuFace) : (s.onLuFace f g).sm = s.sm := rfl
@[simp] theorem State.onLuFace_pu (f : Face) (g : LuFace → LuFace) : (s.onLuFace f g).pu = s.pu := rfl
@[simp] theorem State.onLuFace_ku (f : Face) (g : LuFace → LuFace) : (s.onLuFace f g).ku = s.ku := rfl
@[simp] theorem State.onLuFace_ru (f : Face) (g : LuFace → LuFace) : (s.onLuFace f g).ru = s.ru := rfl
@[simp] theorem State.onLuFace_rs (f : Face) (g : LuFace → LuFace) : (s.onLuFace f g).rs = s.rs := rfl
@[simp] theorem State.onLuFace_cu (f : Face) (g : LuFace → LuFace) : (s.onLuFace f g).cu = s.cu := rfl
@[simp] theorem State.onLuFace_xu (f : Face) (g : LuFace → LuFace) : (s.onLuFace f g).xu = s.xu := rfl
@[simp] theorem State.onLuFace_out (f : Face) (g : LuFace → LuFace) : (s.onLuFace f g).out = s.out := rfl
@[simp] theorem State.onLuFace_free (f : Face) (g : LuFace → LuFace) : (s.onLuFace f g).free = s.free := rfl

/-! ### onTeFace -/

@[simp] theorem State.onTeFace_pending (f : Face) (g : TeFace → TeFace) : (s.onTeFace f g).pending = s.pending := rfl
@[simp] theorem State.onTeFace_straps (f : Face) (g : TeFace → TeFace) : (s.onTeFace f g).straps = s.straps := rfl
@[simp] theorem State.onTeFace_pins (f : Face) (g : TeFace → TeFace) : (s.onTeFace f g).pins = s.pins := rfl
@[simp] theorem State.onTeFace_mu (f : Face) (g : TeFace → TeFace) : (s.onTeFace f g).mu = s.mu := rfl
@[simp] theorem State.onTeFace_lu (f : Face) (g : TeFace → TeFace) : (s.onTeFace f g).lu = s.lu := rfl
@[simp] theorem State.onTeFace_rx (f : Face) (g : TeFace → TeFace) : (s.onTeFace f g).rx = s.rx := rfl
@[simp] theorem State.onTeFace_te (f : Face) (g : TeFace → TeFace) :
    (s.onTeFace f g).te = { s.te with faces := s.te.faces.modify f g } := rfl
@[simp] theorem State.onTeFace_sm (f : Face) (g : TeFace → TeFace) : (s.onTeFace f g).sm = s.sm := rfl
@[simp] theorem State.onTeFace_pu (f : Face) (g : TeFace → TeFace) : (s.onTeFace f g).pu = s.pu := rfl
@[simp] theorem State.onTeFace_ku (f : Face) (g : TeFace → TeFace) : (s.onTeFace f g).ku = s.ku := rfl
@[simp] theorem State.onTeFace_ru (f : Face) (g : TeFace → TeFace) : (s.onTeFace f g).ru = s.ru := rfl
@[simp] theorem State.onTeFace_rs (f : Face) (g : TeFace → TeFace) : (s.onTeFace f g).rs = s.rs := rfl
@[simp] theorem State.onTeFace_cu (f : Face) (g : TeFace → TeFace) : (s.onTeFace f g).cu = s.cu := rfl
@[simp] theorem State.onTeFace_xu (f : Face) (g : TeFace → TeFace) : (s.onTeFace f g).xu = s.xu := rfl
@[simp] theorem State.onTeFace_out (f : Face) (g : TeFace → TeFace) : (s.onTeFace f g).out = s.out := rfl
@[simp] theorem State.onTeFace_free (f : Face) (g : TeFace → TeFace) : (s.onTeFace f g).free = s.free := rfl

/-! ### onPuFace -/

@[simp] theorem State.onPuFace_pending (f : Face) (g : PuFace → PuFace) : (s.onPuFace f g).pending = s.pending := rfl
@[simp] theorem State.onPuFace_straps (f : Face) (g : PuFace → PuFace) : (s.onPuFace f g).straps = s.straps := rfl
@[simp] theorem State.onPuFace_pins (f : Face) (g : PuFace → PuFace) : (s.onPuFace f g).pins = s.pins := rfl
@[simp] theorem State.onPuFace_mu (f : Face) (g : PuFace → PuFace) : (s.onPuFace f g).mu = s.mu := rfl
@[simp] theorem State.onPuFace_lu (f : Face) (g : PuFace → PuFace) : (s.onPuFace f g).lu = s.lu := rfl
@[simp] theorem State.onPuFace_rx (f : Face) (g : PuFace → PuFace) : (s.onPuFace f g).rx = s.rx := rfl
@[simp] theorem State.onPuFace_te (f : Face) (g : PuFace → PuFace) : (s.onPuFace f g).te = s.te := rfl
@[simp] theorem State.onPuFace_sm (f : Face) (g : PuFace → PuFace) : (s.onPuFace f g).sm = s.sm := rfl
@[simp] theorem State.onPuFace_pu (f : Face) (g : PuFace → PuFace) :
    (s.onPuFace f g).pu = { s.pu with faces := s.pu.faces.modify f g } := rfl
@[simp] theorem State.onPuFace_ku (f : Face) (g : PuFace → PuFace) : (s.onPuFace f g).ku = s.ku := rfl
@[simp] theorem State.onPuFace_ru (f : Face) (g : PuFace → PuFace) : (s.onPuFace f g).ru = s.ru := rfl
@[simp] theorem State.onPuFace_rs (f : Face) (g : PuFace → PuFace) : (s.onPuFace f g).rs = s.rs := rfl
@[simp] theorem State.onPuFace_cu (f : Face) (g : PuFace → PuFace) : (s.onPuFace f g).cu = s.cu := rfl
@[simp] theorem State.onPuFace_xu (f : Face) (g : PuFace → PuFace) : (s.onPuFace f g).xu = s.xu := rfl
@[simp] theorem State.onPuFace_out (f : Face) (g : PuFace → PuFace) : (s.onPuFace f g).out = s.out := rfl
@[simp] theorem State.onPuFace_free (f : Face) (g : PuFace → PuFace) : (s.onPuFace f g).free = s.free := rfl

/-! ### onRsFace -/

@[simp] theorem State.onRsFace_pending (f : Face) (g : RsFace → RsFace) : (s.onRsFace f g).pending = s.pending := rfl
@[simp] theorem State.onRsFace_straps (f : Face) (g : RsFace → RsFace) : (s.onRsFace f g).straps = s.straps := rfl
@[simp] theorem State.onRsFace_pins (f : Face) (g : RsFace → RsFace) : (s.onRsFace f g).pins = s.pins := rfl
@[simp] theorem State.onRsFace_mu (f : Face) (g : RsFace → RsFace) : (s.onRsFace f g).mu = s.mu := rfl
@[simp] theorem State.onRsFace_lu (f : Face) (g : RsFace → RsFace) : (s.onRsFace f g).lu = s.lu := rfl
@[simp] theorem State.onRsFace_rx (f : Face) (g : RsFace → RsFace) : (s.onRsFace f g).rx = s.rx := rfl
@[simp] theorem State.onRsFace_te (f : Face) (g : RsFace → RsFace) : (s.onRsFace f g).te = s.te := rfl
@[simp] theorem State.onRsFace_sm (f : Face) (g : RsFace → RsFace) : (s.onRsFace f g).sm = s.sm := rfl
@[simp] theorem State.onRsFace_pu (f : Face) (g : RsFace → RsFace) : (s.onRsFace f g).pu = s.pu := rfl
@[simp] theorem State.onRsFace_ku (f : Face) (g : RsFace → RsFace) : (s.onRsFace f g).ku = s.ku := rfl
@[simp] theorem State.onRsFace_ru (f : Face) (g : RsFace → RsFace) : (s.onRsFace f g).ru = s.ru := rfl
@[simp] theorem State.onRsFace_rs (f : Face) (g : RsFace → RsFace) :
    (s.onRsFace f g).rs = { s.rs with faces := s.rs.faces.modify f g } := rfl
@[simp] theorem State.onRsFace_cu (f : Face) (g : RsFace → RsFace) : (s.onRsFace f g).cu = s.cu := rfl
@[simp] theorem State.onRsFace_xu (f : Face) (g : RsFace → RsFace) : (s.onRsFace f g).xu = s.xu := rfl
@[simp] theorem State.onRsFace_out (f : Face) (g : RsFace → RsFace) : (s.onRsFace f g).out = s.out := rfl
@[simp] theorem State.onRsFace_free (f : Face) (g : RsFace → RsFace) : (s.onRsFace f g).free = s.free := rfl

/-! ### onRxFace -/

@[simp] theorem State.onRxFace_pending (f : Face) (g : RxFace → RxFace) : (s.onRxFace f g).pending = s.pending := rfl
@[simp] theorem State.onRxFace_straps (f : Face) (g : RxFace → RxFace) : (s.onRxFace f g).straps = s.straps := rfl
@[simp] theorem State.onRxFace_pins (f : Face) (g : RxFace → RxFace) : (s.onRxFace f g).pins = s.pins := rfl
@[simp] theorem State.onRxFace_mu (f : Face) (g : RxFace → RxFace) : (s.onRxFace f g).mu = s.mu := rfl
@[simp] theorem State.onRxFace_lu (f : Face) (g : RxFace → RxFace) : (s.onRxFace f g).lu = s.lu := rfl
@[simp] theorem State.onRxFace_rx (f : Face) (g : RxFace → RxFace) : (s.onRxFace f g).rx = s.rx.modify f g := rfl
@[simp] theorem State.onRxFace_te (f : Face) (g : RxFace → RxFace) : (s.onRxFace f g).te = s.te := rfl
@[simp] theorem State.onRxFace_sm (f : Face) (g : RxFace → RxFace) : (s.onRxFace f g).sm = s.sm := rfl
@[simp] theorem State.onRxFace_pu (f : Face) (g : RxFace → RxFace) : (s.onRxFace f g).pu = s.pu := rfl
@[simp] theorem State.onRxFace_ku (f : Face) (g : RxFace → RxFace) : (s.onRxFace f g).ku = s.ku := rfl
@[simp] theorem State.onRxFace_ru (f : Face) (g : RxFace → RxFace) : (s.onRxFace f g).ru = s.ru := rfl
@[simp] theorem State.onRxFace_rs (f : Face) (g : RxFace → RxFace) : (s.onRxFace f g).rs = s.rs := rfl
@[simp] theorem State.onRxFace_cu (f : Face) (g : RxFace → RxFace) : (s.onRxFace f g).cu = s.cu := rfl
@[simp] theorem State.onRxFace_xu (f : Face) (g : RxFace → RxFace) : (s.onRxFace f g).xu = s.xu := rfl
@[simp] theorem State.onRxFace_out (f : Face) (g : RxFace → RxFace) : (s.onRxFace f g).out = s.out := rfl
@[simp] theorem State.onRxFace_free (f : Face) (g : RxFace → RxFace) : (s.onRxFace f g).free = s.free := rfl

/-! ### onSmFace -/

@[simp] theorem State.onSmFace_pending (f : Face) (g : SmFace → SmFace) : (s.onSmFace f g).pending = s.pending := rfl
@[simp] theorem State.onSmFace_straps (f : Face) (g : SmFace → SmFace) : (s.onSmFace f g).straps = s.straps := rfl
@[simp] theorem State.onSmFace_pins (f : Face) (g : SmFace → SmFace) : (s.onSmFace f g).pins = s.pins := rfl
@[simp] theorem State.onSmFace_mu (f : Face) (g : SmFace → SmFace) : (s.onSmFace f g).mu = s.mu := rfl
@[simp] theorem State.onSmFace_lu (f : Face) (g : SmFace → SmFace) : (s.onSmFace f g).lu = s.lu := rfl
@[simp] theorem State.onSmFace_rx (f : Face) (g : SmFace → SmFace) : (s.onSmFace f g).rx = s.rx := rfl
@[simp] theorem State.onSmFace_te (f : Face) (g : SmFace → SmFace) : (s.onSmFace f g).te = s.te := rfl
@[simp] theorem State.onSmFace_sm (f : Face) (g : SmFace → SmFace) : (s.onSmFace f g).sm = s.sm.modify f g := rfl
@[simp] theorem State.onSmFace_pu (f : Face) (g : SmFace → SmFace) : (s.onSmFace f g).pu = s.pu := rfl
@[simp] theorem State.onSmFace_ku (f : Face) (g : SmFace → SmFace) : (s.onSmFace f g).ku = s.ku := rfl
@[simp] theorem State.onSmFace_ru (f : Face) (g : SmFace → SmFace) : (s.onSmFace f g).ru = s.ru := rfl
@[simp] theorem State.onSmFace_rs (f : Face) (g : SmFace → SmFace) : (s.onSmFace f g).rs = s.rs := rfl
@[simp] theorem State.onSmFace_cu (f : Face) (g : SmFace → SmFace) : (s.onSmFace f g).cu = s.cu := rfl
@[simp] theorem State.onSmFace_xu (f : Face) (g : SmFace → SmFace) : (s.onSmFace f g).xu = s.xu := rfl
@[simp] theorem State.onSmFace_out (f : Face) (g : SmFace → SmFace) : (s.onSmFace f g).out = s.out := rfl
@[simp] theorem State.onSmFace_free (f : Face) (g : SmFace → SmFace) : (s.onSmFace f g).free = s.free := rfl

/-! ### onHead -/

@[simp] theorem State.onHead_pending (p : Port) (g : Head → Head) : (s.onHead p g).pending = s.pending := rfl
@[simp] theorem State.onHead_straps (p : Port) (g : Head → Head) : (s.onHead p g).straps = s.straps := rfl
@[simp] theorem State.onHead_pins (p : Port) (g : Head → Head) : (s.onHead p g).pins = s.pins := rfl
@[simp] theorem State.onHead_mu (p : Port) (g : Head → Head) : (s.onHead p g).mu = s.mu := rfl
@[simp] theorem State.onHead_lu (p : Port) (g : Head → Head) :
    (s.onHead p g).lu = { s.lu with heads := s.lu.heads.set p.val (g s.lu.heads[p]) } := rfl
@[simp] theorem State.onHead_rx (p : Port) (g : Head → Head) : (s.onHead p g).rx = s.rx := rfl
@[simp] theorem State.onHead_te (p : Port) (g : Head → Head) : (s.onHead p g).te = s.te := rfl
@[simp] theorem State.onHead_sm (p : Port) (g : Head → Head) : (s.onHead p g).sm = s.sm := rfl
@[simp] theorem State.onHead_pu (p : Port) (g : Head → Head) : (s.onHead p g).pu = s.pu := rfl
@[simp] theorem State.onHead_ku (p : Port) (g : Head → Head) : (s.onHead p g).ku = s.ku := rfl
@[simp] theorem State.onHead_ru (p : Port) (g : Head → Head) : (s.onHead p g).ru = s.ru := rfl
@[simp] theorem State.onHead_rs (p : Port) (g : Head → Head) : (s.onHead p g).rs = s.rs := rfl
@[simp] theorem State.onHead_cu (p : Port) (g : Head → Head) : (s.onHead p g).cu = s.cu := rfl
@[simp] theorem State.onHead_xu (p : Port) (g : Head → Head) : (s.onHead p g).xu = s.xu := rfl
@[simp] theorem State.onHead_out (p : Port) (g : Head → Head) : (s.onHead p g).out = s.out := rfl
@[simp] theorem State.onHead_free (p : Port) (g : Head → Head) : (s.onHead p g).free = s.free := rfl

/-! ### onMarkCounters -/

@[simp] theorem State.onMarkCounters_pending (g : MarkCounters → MarkCounters) :
    (s.onMarkCounters g).pending = s.pending := rfl
@[simp] theorem State.onMarkCounters_straps (g : MarkCounters → MarkCounters) :
    (s.onMarkCounters g).straps = s.straps := rfl
@[simp] theorem State.onMarkCounters_pins (g : MarkCounters → MarkCounters) : (s.onMarkCounters g).pins = s.pins := rfl
@[simp] theorem State.onMarkCounters_mu (g : MarkCounters → MarkCounters) : (s.onMarkCounters g).mu = s.mu := rfl
@[simp] theorem State.onMarkCounters_lu (g : MarkCounters → MarkCounters) : (s.onMarkCounters g).lu = s.lu := rfl
@[simp] theorem State.onMarkCounters_rx (g : MarkCounters → MarkCounters) : (s.onMarkCounters g).rx = s.rx := rfl
@[simp] theorem State.onMarkCounters_te (g : MarkCounters → MarkCounters) : (s.onMarkCounters g).te = s.te := rfl
@[simp] theorem State.onMarkCounters_sm (g : MarkCounters → MarkCounters) : (s.onMarkCounters g).sm = s.sm := rfl
@[simp] theorem State.onMarkCounters_pu (g : MarkCounters → MarkCounters) : (s.onMarkCounters g).pu = s.pu := rfl
@[simp] theorem State.onMarkCounters_ku (g : MarkCounters → MarkCounters) :
    (s.onMarkCounters g).ku = { s.ku with counters := g s.ku.counters } := rfl
@[simp] theorem State.onMarkCounters_ru (g : MarkCounters → MarkCounters) : (s.onMarkCounters g).ru = s.ru := rfl
@[simp] theorem State.onMarkCounters_rs (g : MarkCounters → MarkCounters) : (s.onMarkCounters g).rs = s.rs := rfl
@[simp] theorem State.onMarkCounters_cu (g : MarkCounters → MarkCounters) : (s.onMarkCounters g).cu = s.cu := rfl
@[simp] theorem State.onMarkCounters_xu (g : MarkCounters → MarkCounters) : (s.onMarkCounters g).xu = s.xu := rfl
@[simp] theorem State.onMarkCounters_out (g : MarkCounters → MarkCounters) : (s.onMarkCounters g).out = s.out := rfl
@[simp] theorem State.onMarkCounters_free (g : MarkCounters → MarkCounters) : (s.onMarkCounters g).free = s.free := rfl

/-! ### Copies of a face -/

@[simp] theorem PerFace.get_set_same {α : Type} (x : PerFace α) (f : Face) (v : α) : (x.set f v).get f = v := by
  cases f <;> rfl

theorem PerFace.get_set_other {α : Type} (x : PerFace α) {f g : Face} (v : α) (h : g ≠ f) :
    (x.set f v).get g = x.get g := by
  cases f <;> cases g <;> first | rfl | exact absurd rfl h

@[simp] theorem PerFace.get_modify_same {α : Type} (x : PerFace α) (f : Face) (k : α → α) :
    (x.modify f k).get f = k (x.get f) := by
  cases f <;> rfl

theorem PerFace.get_modify_other {α : Type} (x : PerFace α) {f g : Face} (k : α → α) (h : g ≠ f) :
    (x.modify f k).get g = x.get g := PerFace.get_set_other x _ h

@[simp] theorem PerFace.get_both {α : Type} (v : α) (f : Face) : (PerFace.both v).get f = v := by
  cases f <;> rfl

end Sys2Proof.Machine
end

