-- ==== Sys2Proof/Laws/Reporting.lean ====
section
/-! SUPPORT. What the reporting operations leave alone: raising a cause, asking for a mark, taking a record, closing loss. One lemma
for each, so that no later proof unfolds them. -/

namespace Sys2Proof.Machine

variable {s t : State}

theorem OnlyReporting.refl (s : State) : OnlyReporting s s := ⟨rfl, rfl, rfl, ⟨rfl, rfl, rfl⟩, ⟨rfl, rfl, rfl⟩, rfl⟩

theorem OnlyReporting.trans {u : State} (h : OnlyReporting s t) (k : OnlyReporting t u) : OnlyReporting s u := by
  obtain ⟨a1, a2, a3, ⟨a4, a5, a6⟩, ⟨a7, a8, a9⟩, a10⟩ := h
  obtain ⟨b1, b2, b3, ⟨b4, b5, b6⟩, ⟨b7, b8, b9⟩, b10⟩ := k
  exact ⟨b1.trans a1, b2.trans a2, b3.trans a3, ⟨b4.trans a4, b5.trans a5, b6.trans a6⟩,
    ⟨b7.trans a7, b8.trans a8, b9.trans a9⟩, b10.trans a10⟩

theorem foldl_reporting {α : Type} (g : State → α → State) (hg : ∀ u x, OnlyReporting u (g u x)) (l : List α)
    (s : State) : OnlyReporting s (l.foldl g s) := by
  induction l generalizing s with
  | nil => exact OnlyReporting.refl s
  | cons x xs ih => exact (hg s x).trans (ih _)

theorem onKu_reporting (s : State) (g : MarkUnit → MarkUnit) : OnlyReporting s (s.onKu g) := OnlyReporting.refl s
theorem onRu_reporting (s : State) (g : RecordUnit → RecordUnit) : OnlyReporting s (s.onRu g) := OnlyReporting.refl s
theorem onCu_reporting (s : State) (g : ControlUnit → ControlUnit) : OnlyReporting s (s.onCu g) :=
  OnlyReporting.refl s
theorem onXu_reporting (s : State) (g : ExchangeUnit → ExchangeUnit) : OnlyReporting s (s.onXu g) :=
  OnlyReporting.refl s
theorem emit_reporting (s : State) (o : Output) : OnlyReporting s (s.emit o) := OnlyReporting.refl s

theorem sendMessage_reporting (s : State) (level : BitVec 2) : OnlyReporting s (sendMessage s level) := by
  unfold sendMessage
  split <;> exact OnlyReporting.refl s

theorem raise_reporting (s : State) (c : Cause) : OnlyReporting s (raise s c) := by
  unfold raise
  dsimp only
  split
  · exact sendMessage_reporting ((s.onXu _).onXu _) _
  · exact OnlyReporting.refl s

theorem captureFault_reporting (s : State) (code : FaultCode) : OnlyReporting s (captureFault s code) :=
  raise_reporting (s.onCu _) _

theorem layMark_reporting (s : State) (o : MarkOut) (stop : Int) : OnlyReporting s (layMark s o stop) := by
  unfold layMark
  split <;> exact OnlyReporting.refl s

theorem takeRequest_reporting (s : State) (entry : MarkEntry) : OnlyReporting s (takeRequest s entry).1 := by
  unfold takeRequest
  split
  · exact OnlyReporting.refl s
  · split
    · split
      · exact OnlyReporting.refl s
      · exact layMark_reporting s _ _
    · exact OnlyReporting.refl s
  · exact raise_reporting (bumpLate s) _
  · exact raise_reporting (bumpMarkFull s) _
  · exact OnlyReporting.refl s

theorem markRequest_reporting (s : State) (kind : PolicyEntry) (stamp : Int) (source : Word) :
    OnlyReporting s (markRequest s kind stamp source).1 := by
  unfold markRequest
  dsimp only
  repeat' first | exact OnlyReporting.refl s | exact takeRequest_reporting s _ | split

theorem takeNumber_reporting (s : State) : OnlyReporting s (takeNumber s).1 := by
  unfold takeNumber
  dsimp only
  repeat' first | exact OnlyReporting.refl s | split

theorem placeRecord_reporting (s : State) (number : Option Nat) (mark : MarkState) (body : RecordBody) :
    OnlyReporting s (placeRecord s number mark body) := by
  unfold placeRecord
  dsimp only
  repeat' first | exact OnlyReporting.refl s | split

theorem countRecord_reporting (s : State) (body : RecordBody) : OnlyReporting s (countRecord s body) := by
  unfold countRecord
  split
  all_goals first | exact captureFault_reporting s _ | exact OnlyReporting.refl s

/-- R131: a record taken. -/
theorem issue_reporting (s : State) (body : RecordBody) : OnlyReporting s (issue s body) :=
  (takeNumber_reporting s).trans ((placeRecord_reporting _ _ _ _).trans (countRecord_reporting _ _))

theorem issueMissed_reporting (s : State) (entry : MarkEntry) (reason : MissReason) :
    OnlyReporting s (issueMissed s entry reason) :=
  (issue_reporting s _).trans (OnlyReporting.refl _)

theorem settleMissed_reporting (s : State) (answer : MarkAnswer) : OnlyReporting s (settleMissed s answer) := by
  unfold settleMissed
  split
  · exact OnlyReporting.refl s
  · exact issueMissed_reporting s _ _

theorem sourceOf_reporting (s : State) (number : Option Nat) : OnlyReporting s (sourceOf s number).1 := by
  cases number <;> exact OnlyReporting.refl s

/-- R131: a record with its mark request. -/
theorem issueMarked_reporting (s : State) (body : RecordBody) (kind : PolicyEntry) (stamp : Int) :
    OnlyReporting s (issueMarked s body kind stamp).1 :=
  (takeNumber_reporting s).trans
    ((sourceOf_reporting _ _).trans
      ((markRequest_reporting _ _ _ _).trans
        ((placeRecord_reporting _ _ _ _).trans ((countRecord_reporting _ _).trans (settleMissed_reporting _ _)))))

theorem requestOnly_reporting (s : State) (kind : PolicyEntry) (stamp : Int) (source : Word) :
    OnlyReporting s (requestOnly s kind stamp source) :=
  (markRequest_reporting s kind stamp source).trans (settleMissed_reporting _ _)

theorem issueFault_reporting (s : State) (code : FaultCode) (subject : FaultSubject) (first last : Int) (count : Nat) :
    OnlyReporting s (issueFault s code subject first last count) :=
  issue_reporting s _

theorem issueTally_reporting (s : State) (code : FaultCode) (f : Face) (tally : Tally) :
    OnlyReporting s (issueTally s code f tally) := by
  unfold issueTally
  split
  · exact OnlyReporting.refl s
  · exact issueFault_reporting s _ _ _ _ _

theorem issueLoss_reporting (s : State) (run : LossRun) : OnlyReporting s (issueLoss s run) := by
  have key := takeNumber_reporting s
  unfold issueLoss
  rcases e : takeNumber s with ⟨s1, number⟩
  rw [e] at key
  cases number with
  | none => exact key
  | some n => exact key.trans (raise_reporting (s1.onRu _) _)

theorem lossRecords_reporting (n : Nat) (s : State) : OnlyReporting s (lossRecords n s) := by
  induction n generalizing s with
  | zero => exact OnlyReporting.refl s
  | succ n ih =>
    unfold lossRecords
    split
    · split
      · exact (issueLoss_reporting (s.onRu _) _).trans (ih _)
      · split
        · exact OnlyReporting.refl s
        · exact issueLoss_reporting (s.onRu _) _
    · exact OnlyReporting.refl s

/-- R142: the test and its bursts. -/
theorem testLoss_reporting (s : State) : OnlyReporting s (testLoss s) := by
  have key : ∀ n u, OnlyReporting u (closeLoss n u) := by
    intro n
    induction n with
    | zero => exact OnlyReporting.refl
    | succ n ih =>
      intro u
      unfold closeLoss
      split
      · refine (lossRecords_reporting Config.lossBurst u).trans (OnlyReporting.trans (t := closeTally _) ?_ (ih _))
        unfold closeTally
        split <;> exact OnlyReporting.refl _
      · exact OnlyReporting.refl u
  exact key 9 s

theorem takeMark_reporting (s : State) (entry : MarkEntry) : OnlyReporting s (takeMark s entry) := by
  unfold takeMark
  split
  · exact issueMissed_reporting s _ _
  · exact layMark_reporting s _ _

end Sys2Proof.Machine
end

