-- ==== Sys2Proof/Laws/Assembly.lean ====
section
/-! SUPPORT. What an assembly does to the lines of a face that stand unassembled, and that `ReadyAssembled` says what `assembleReady` does. -/

namespace Sys2Proof.Machine

variable {s t u v : State}

/-- How many lines of a face stand unassembled. -/
def openCount (s : State) (f : Face) : Nat := (openLines (s.luFace f).stream).length

/-- Every face has as many unassembled lines in `t` as in `s`. -/
def SameOpen (s t : State) : Prop := ∀ f, openCount t f = openCount s f

theorem SameOpen.trans (h : SameOpen s t) (k : SameOpen t u) : SameOpen s u := fun f => (k f).trans (h f)

theorem openLines_cons (item : StreamItem) (rest : List StreamItem) :
    (openLines (item :: rest)).length = (openLines [item]).length + (openLines rest).length := by
  cases item <;> simp [openLines, Nat.add_comm]

theorem openLines_giveUpIn (p : Port) (numbers : List Nat) (stream : List StreamItem) :
    (openLines (stream.map (giveUpIn p numbers))).length = (openLines stream).length := by
  induction stream with
  | nil => rfl
  | cons item rest ih =>
    rw [List.map_cons, openLines_cons, openLines_cons item, ih]
    congr 1
    cases item <;> simp only [giveUpIn]
    split <;> rfl

theorem openLines_replaceOldest (line : FaceLine) (stream : List StreamItem) :
    (openLines (replaceOldest line stream)).length = (openLines stream).length - 1 := by
  induction stream with
  | nil => rfl
  | cons item rest ih => cases item <;> first | exact ih | simp [replaceOldest, openLines]

theorem onHead_sameOpen (s : State) (p : Port) (g : Head → Head) : SameOpen s (s.onHead p g) := fun _ => rfl

theorem luFace_onLuFace (s : State) (f g : Face) (h : LuFace → LuFace) :
    (s.onLuFace f h).luFace g = if g = f then h (s.luFace f) else s.luFace g := by
  cases f <;> cases g <;> rfl

theorem giveUp_sameOpen (s : State) (p : Port) (numbers : List Nat) : SameOpen s (giveUp s p numbers) := by
  intro f
  unfold giveUp openCount
  rw [luFace_onLuFace]
  split
  · next e => subst e; exact openLines_giveUpIn _ _ _
  · rfl

theorem leaveLive_sameOpen (s : State) (p : Port) : SameOpen s (leaveLive s p) := by
  unfold leaveLive
  split
  · exact (onHead_sameOpen s p _).trans (giveUp_sameOpen _ _ _)
  · exact fun _ => rfl

theorem OnlyReporting.sameOpen (h : OnlyReporting s t) : SameOpen s t := by
  obtain ⟨_, _, _, ⟨_, hl, _⟩, _⟩ := h
  intro f
  unfold openCount State.luFace
  rw [hl]

theorem failHead_sameOpen (s : State) (p : Port) (desc : LineDesc) (limit : Nat) : SameOpen s (failHead s p desc limit) := by
  unfold failHead
  dsimp only
  split
  · exact ((leaveLive_sameOpen s p).trans (onHead_sameOpen _ p _)).trans (issueFault_reporting _ _ _ _ _ _).sameOpen
  · exact (leaveLive_sameOpen s p).trans (onHead_sameOpen _ p _)

theorem judgeHead_sameOpen (desc : LineDesc) (s : State) (p : Port) : SameOpen s (judgeHead desc s p) := by
  unfold judgeHead countMiss
  dsimp only
  repeat' split
  all_goals first
    | exact onHead_sameOpen _ _ _
    | exact (onHead_sameOpen _ p _).trans (onHead_sameOpen _ p _)
    | exact ((onHead_sameOpen _ p _).trans (onHead_sameOpen _ p _)).trans (failHead_sameOpen _ _ _ _)

theorem foldl_sameOpen {α : Type} (g : State → α → State) (hg : ∀ u x, SameOpen u (g u x)) (l : List α) (s : State) :
    SameOpen s (l.foldl g s) := by
  induction l generalizing s with
  | nil => exact fun _ => rfl
  | cons x rest ih => exact (hg s x).trans (ih _)

/-- R35: an assembly takes one line off the unassembled ones of its face. -/
theorem assembleLine_openCount (s : State) (f : Face) (line : OpenLine) :
    openCount (assembleLine s f line) f = openCount s f - 1 := by
  unfold assembleLine
  dsimp only
  rw [foldl_sameOpen (freeBuffers line.desc.number) (fun u p => onHead_sameOpen u p _), foldl_sameOpen _ (judgeHead_sameOpen line.desc)]
  unfold openCount
  rw [luFace_onLuFace, if_pos rfl]
  exact openLines_replaceOldest _ _

theorem readyAssembled_complete (f : Face) (n : Nat) (u : State) (h : openCount u f = n) :
    ReadyAssembled f u (assembleComplete n u f) := by
  induction n generalizing u with
  | zero =>
    refine .waits u ?_
    rw [List.length_eq_zero_iff.1 h]
    exact nofun
  | succ n ih =>
    unfold assembleComplete
    split
    · next e =>
      rw [openCount, e] at h
      cases h
    · next line later e =>
      split
      · next c =>
        refine .assembles u _ line later e c (ih _ ?_)
        rw [assembleLine_openCount, h]
        rfl
      · next c =>
        refine .waits u ?_
        rw [e]
        intro x hx
        cases hx
        exact Bool.eq_false_iff.2 c

/-- R35: what `assembleReady` does, from its definition. -/
theorem readyAssembled_ready (u : State) (f : Face) : ReadyAssembled f u (assembleReady u f) :=
  readyAssembled_complete f _ u rfl

theorem assembleComplete_waits (f : Face) (n : Nat) (u : State)
    (h : ∀ x ∈ (openLines (u.luFace f).stream).head?, lineComplete u x = false) : assembleComplete n u f = u := by
  cases n with
  | zero => rfl
  | succ n =>
    unfold assembleComplete
    split
    · rfl
    · next line later e =>
      rw [e] at h
      rw [if_neg (by rw [h line rfl]; exact Bool.false_ne_true)]

/-- R35: `ReadyAssembled` leaves no choice. -/
theorem ReadyAssembled.eq_ready (h : ReadyAssembled f u v) : v = assembleReady u f := by
  induction h with
  | waits u h => exact (assembleComplete_waits f _ u h).symm
  | assembles u v line later h c _ ih =>
    have n := assembleLine_openCount u f line
    rw [openCount, openCount, h, List.length_cons, Nat.add_sub_cancel] at n
    rw [ih, assembleReady, assembleReady, n, h, List.length_cons, assembleComplete, h]
    simp only [c, if_true]

end Sys2Proof.Machine
end

