-- ==== Sys2Proof/Laws/Keeps.lean ====
section
/-! SUPPORT. What no operation of the part breaks: the limits of Safety.lean, the queue of commands, the straps and the host's
message configuration. One lemma for each operation, each citing those of the operations it is made of. -/

namespace Sys2Proof.Machine

/-- The limits of `s` still hold in `t`, and `t` has the commands, the straps and the message configuration of `s`. -/
structure Keeps (s t : State) : Prop where
  pending : t.pending = s.pending
  straps  : t.straps = s.straps
  message : t.xu.message = s.xu.message
  motion  : MotionOk s.mu → MotionOk t.mu
  links   : LinksOk s.lu → LinksOk t.lu
  pairing : PairingOk s.pu → PairingOk t.pu
  marks   : MarksOk s.ku → MarksOk t.ku
  holding : HoldingOk s.ru → HoldingOk t.ru
  pages   : PagesOk s.xu → PagesOk t.xu

variable {s t : State}

theorem Keeps.refl (s : State) : Keeps s s := ⟨rfl, rfl, rfl, id, id, id, id, id, id⟩

theorem Keeps.trans {u : State} (h : Keeps s t) (k : Keeps t u) : Keeps s u :=
  ⟨k.pending.trans h.pending, k.straps.trans h.straps, k.message.trans h.message, k.motion ∘ h.motion,
    k.links ∘ h.links, k.pairing ∘ h.pairing, k.marks ∘ h.marks, k.holding ∘ h.holding, k.pages ∘ h.pages⟩

theorem foldl_keeps {α : Type} (g : State → α → State) (hg : ∀ u x, Keeps s u → Keeps s (g u x)) (l : List α)
    (h : Keeps s t) : Keeps s (l.foldl g t) := by
  induction l generalizing t with
  | nil => exact h
  | cons x xs ih => exact ih (hg t x h)

/-! ## Updates of one block -/

theorem onMu_keeps (h : Keeps s t) (g : MotionUnit → MotionUnit) (hg : MotionOk t.mu → MotionOk (g t.mu)) :
    Keeps s (t.onMu g) :=
  { h with motion := hg ∘ h.motion }

theorem onLu_keeps (h : Keeps s t) (g : LinkUnit → LinkUnit) (hg : LinksOk t.lu → LinksOk (g t.lu)) :
    Keeps s (t.onLu g) :=
  { h with links := hg ∘ h.links }

theorem onRx_keeps (h : Keeps s t) (g : PerFace RxFace → PerFace RxFace) : Keeps s (t.onRx g) := { h with }
theorem onTe_keeps (h : Keeps s t) (g : TrackEngine → TrackEngine) : Keeps s (t.onTe g) := { h with }
theorem onSm_keeps (h : Keeps s t) (g : PerFace SmFace → PerFace SmFace) : Keeps s (t.onSm g) := { h with }

theorem onPu_keeps (h : Keeps s t) (g : PairingUnit → PairingUnit) (hg : PairingOk t.pu → PairingOk (g t.pu)) :
    Keeps s (t.onPu g) :=
  { h with pairing := hg ∘ h.pairing }

theorem onKu_keeps (h : Keeps s t) (g : MarkUnit → MarkUnit) (hg : MarksOk t.ku → MarksOk (g t.ku)) :
    Keeps s (t.onKu g) :=
  { h with marks := hg ∘ h.marks }

theorem onRu_keeps (h : Keeps s t) (g : RecordUnit → RecordUnit) (hg : HoldingOk t.ru → HoldingOk (g t.ru)) :
    Keeps s (t.onRu g) :=
  { h with holding := hg ∘ h.holding }

theorem onRs_keeps (h : Keeps s t) (g : RecipeStore → RecipeStore) : Keeps s (t.onRs g) := { h with }
theorem onCu_keeps (h : Keeps s t) (g : ControlUnit → ControlUnit) : Keeps s (t.onCu g) := { h with }
theorem onPins_keeps (h : Keeps s t) (g : Pins → Pins) : Keeps s (t.onPins g) := { h with }

theorem onXu_keeps (h : Keeps s t) (g : ExchangeUnit → ExchangeUnit) (hm : (g t.xu).message = t.xu.message)
    (hg : PagesOk t.xu → PagesOk (g t.xu)) : Keeps s (t.onXu g) :=
  { h with message := hm.trans h.message, pages := hg ∘ h.pages }

theorem emit_keeps (h : Keeps s t) (o : Output) : Keeps s (t.emit o) := { h with }
theorem useFree_keeps (h : Keeps s t) : Keeps s t.useFree := { h with }

/-! ## Updates of one face or one head -/

theorem motionOk_face {m : MotionUnit} (f : Face) (g : MuFace → MuFace)
    (hg : ∀ x, x.edges.length ≤ Config.edgeQueueSize → (g x).edges.length ≤ Config.edgeQueueSize) (hm : MotionOk m) :
    MotionOk { m with faces := m.faces.modify f g } := by
  obtain ⟨h1, h2, h3, h4, h5⟩ := hm
  refine ⟨h1, h2, h3, fun k => ?_, h5⟩
  by_cases hk : k = f
  · subst hk
    simpa using hg _ (h4 k)
  · simpa [PerFace.get_modify_other _ _ hk] using h4 k

theorem onMuFace_keeps (h : Keeps s t) (f : Face) (g : MuFace → MuFace)
    (hg : ∀ x, x.edges.length ≤ Config.edgeQueueSize → (g x).edges.length ≤ Config.edgeQueueSize) :
    Keeps s (t.onMuFace f g) :=
  onMu_keeps h _ (motionOk_face f g hg)

theorem onLuFace_keeps (h : Keeps s t) (f : Face) (g : LuFace → LuFace) : Keeps s (t.onLuFace f g) :=
  onLu_keeps h _ id

theorem onRxFace_keeps (h : Keeps s t) (f : Face) (g : RxFace → RxFace) : Keeps s (t.onRxFace f g) := onRx_keeps h _
theorem onTeFace_keeps (h : Keeps s t) (f : Face) (g : TeFace → TeFace) : Keeps s (t.onTeFace f g) := onTe_keeps h _
theorem onSmFace_keeps (h : Keeps s t) (f : Face) (g : SmFace → SmFace) : Keeps s (t.onSmFace f g) := onSm_keeps h _
theorem onRsFace_keeps (h : Keeps s t) (f : Face) (g : RsFace → RsFace) : Keeps s (t.onRsFace f g) := onRs_keeps h _

theorem onPuFace_keeps (h : Keeps s t) (f : Face) (g : PuFace → PuFace)
    (hg : ∀ x, x.log.length ≤ Config.doubtLogSize → (g x).log.length ≤ Config.doubtLogSize) :
    Keeps s (t.onPuFace f g) := by
  refine onPu_keeps h _ fun hp => ?_
  obtain ⟨h1, h2, h3⟩ := hp
  refine ⟨h1, h2, fun k => ?_⟩
  by_cases hk : k = f
  · subst hk
    simpa using hg _ (h3 k)
  · simpa [PerFace.get_modify_other _ _ hk] using h3 k

theorem onHead_keeps (h : Keeps s t) (p : Port) (g : Head → Head)
    (hg : (t.head p).buffers.length ≤ Config.lineBuffers → (g (t.head p)).buffers.length ≤ Config.lineBuffers) :
    Keeps s (t.onHead p g) := by
  refine onLu_keeps h _ fun hl q => ?_
  by_cases hq : q = p
  · subst hq
    simpa [State.head] using hg (hl q)
  · have : p.val ≠ q.val := fun e => hq (Fin.ext e.symm)
    simpa [Vector.getElem_set, this] using hl q

theorem onCounters_keeps (h : Keeps s t) (p : Port) (g : HeadCounters → HeadCounters) : Keeps s (t.onCounters p g) :=
  onHead_keeps h p _ id

theorem pushStream_keeps (h : Keeps s t) (f : Face) (item : StreamItem) : Keeps s (t.pushStream f item) :=
  onLuFace_keeps h f _

theorem setTrack_keeps (h : Keeps s t) (f : Face) (i : Fin 24) (x : Option Track) : Keeps s (t.setTrack f i x) :=
  onTeFace_keeps h f _

theorem setSpot_keeps (h : Keeps s t) (f : Face) (i : Fin 64) (x : Option Spot) : Keeps s (t.setSpot f i x) :=
  onSmFace_keeps h f _

theorem onMarkCounters_keeps (h : Keeps s t) (g : MarkCounters → MarkCounters) : Keeps s (t.onMarkCounters g) :=
  onKu_keeps h _ id


/-! ## Attention (R191, R192) -/

theorem sendMessage_keeps (h : Keeps s t) (level : BitVec 2) : Keeps s (sendMessage t level) := by
  unfold sendMessage
  repeat' first | exact h | apply emit_keeps | assumption | split

theorem raise_keeps (h : Keeps s t) (c : Cause) : Keeps s (raise t c) := by
  unfold raise
  dsimp only
  repeat' first | exact h | apply onXu_keeps | apply sendMessage_keeps | assumption | split | exact id | rfl


theorem clearFlags_keeps (h : Keeps s t) (mask : Byte) : Keeps s (clearFlags t mask) := by
  unfold clearFlags
  dsimp only
  repeat' first | exact h | apply onXu_keeps | apply sendMessage_keeps | assumption | split | exact id | rfl


theorem captureFault_keeps (h : Keeps s t) (code : FaultCode) : Keeps s (captureFault t code) := by
  unfold captureFault
  repeat' first | exact h | apply onCu_keeps | apply raise_keeps

/-! ## Marks -/

theorem bumpFired_keeps (h : Keeps s t) : Keeps s (bumpFired t) := by
  unfold bumpFired
  repeat' first | exact h | apply onMarkCounters_keeps

theorem bumpMerged_keeps (h : Keeps s t) : Keeps s (bumpMerged t) := by
  unfold bumpMerged
  repeat' first | exact h | apply onMarkCounters_keeps

theorem bumpLate_keeps (h : Keeps s t) : Keeps s (bumpLate t) := by
  unfold bumpLate
  repeat' first | exact h | apply onMarkCounters_keeps

theorem bumpMarkFull_keeps (h : Keeps s t) : Keeps s (bumpMarkFull t) := by
  unfold bumpMarkFull
  repeat' first | exact h | apply onMarkCounters_keeps

theorem bumpMissed_keeps (h : Keeps s t) : Keeps s (bumpMissed t) := by
  unfold bumpMissed
  repeat' first | exact h | apply onMarkCounters_keeps

theorem bumpCut_keeps (h : Keeps s t) : Keeps s (bumpCut t) := by
  unfold bumpCut
  repeat' first | exact h | apply onMarkCounters_keeps

theorem setOutput_queue (k : MarkUnit) (o : MarkOut) (v : OutState) : (k.setOutput o v).queue = k.queue := by
  cases o <;> rfl

/-- Insertion by a key keeps the length and the order. -/
theorem insertBy_length {α : Type} (after : α → α → Bool) (x : α) (l : List α) :
    (insertBy after x l).length = l.length + 1 := by
  induction l with
  | nil => rfl
  | cons y ys ih =>
    unfold insertBy
    split
    · simp
    · simp [ih]

theorem mem_insertBy {α : Type} (after : α → α → Bool) (x z : α) (l : List α) :
    z ∈ insertBy after x l ↔ z = x ∨ z ∈ l := by
  induction l with
  | nil => simp [insertBy]
  | cons y ys ih =>
    unfold insertBy
    split
    · simp
    · simp only [List.mem_cons, ih]
      tauto

theorem insertBy_sorted {α κ : Type} [LinearOrder κ] {after : α → α → Bool} (key : α → κ)
    (ha : ∀ y z, after y z = decide (key z < key y)) (x : α) (l : List α) (h : l.Pairwise fun a b => key a ≤ key b) :
    (insertBy after x l).Pairwise fun a b => key a ≤ key b := by
  induction l with
  | nil => simp [insertBy]
  | cons y ys ih =>
    rw [List.pairwise_cons] at h
    unfold insertBy
    rw [ha]
    by_cases hlt : key x < key y
    · simp only [hlt, decide_true, if_true]
      refine List.pairwise_cons.2 ⟨fun z hz => ?_, List.pairwise_cons.2 h⟩
      rcases List.mem_cons.1 hz with rfl | hz
      · exact hlt.le
      · exact hlt.le.trans (h.1 z hz)
    · simp only [hlt, decide_false, Bool.false_eq_true, if_false]
      refine List.pairwise_cons.2 ⟨fun z hz => ?_, ih h.2⟩
      rcases (mem_insertBy _ _ _ _).1 hz with rfl | hz
      · exact not_lt.1 hlt
      · exact h.1 z hz

/-- R120: an insertion while the queue has room. -/
theorem marksOk_insert {k : MarkUnit} (entry : MarkEntry) (hroom : k.queue.length < Config.markQueueSize)
    (hk : MarksOk k) : MarksOk { k with queue := insertMark entry k.queue } :=
  ⟨by simpa [insertMark, insertBy_length] using hroom, insertBy_sorted MarkEntry.fire (fun _ _ => rfl) entry k.queue hk.2⟩

/-- R121: entries leave at the head. -/
theorem marksOk_dropWhile {k : MarkUnit} (test : MarkEntry → Bool) (hk : MarksOk k) :
    MarksOk { k with queue := k.queue.dropWhile test } :=
  ⟨(List.length_dropWhile_le _ _).trans hk.1, hk.2.sublist (List.dropWhile_sublist _)⟩

theorem marksOk_setOutput {k : MarkUnit} (o : MarkOut) (v : OutState) (hk : MarksOk k) : MarksOk (k.setOutput o v) := by
  cases o <;> exact hk

theorem marksOk_nil (k : MarkUnit) (h : k.queue = []) : MarksOk k := by
  unfold MarksOk
  rw [h]
  exact ⟨Nat.zero_le _, List.Pairwise.nil⟩

/-- R118, R119: an outcome that inserts finds room in the queue. -/
theorem markOutcome_queued {p h : Int} {queued : Nat} {fire : Int} {length : Nat}
    (e : markOutcome p h queued fire length = .queued) : queued < Config.markQueueSize := by
  unfold markOutcome at e
  split at e
  · split at e
    · assumption
    · cases e
  · split at e
    · split at e <;> cases e
    · split at e
      · cases e
      · split at e <;> cases e

theorem markOutcome_partly {p h : Int} {queued : Nat} {fire : Int} {length : Nat}
    (e : markOutcome p h queued fire length = .partly) (hp : p ≠ h) : queued < Config.markQueueSize := by
  unfold markOutcome at e
  split at e
  · split at e <;> cases e
  · split at e
    · cases e
    · split at e
      · assumption
      · cases e

theorem layMark_keeps (h : Keeps s t) (o : MarkOut) (stop : Int) : Keeps s (layMark t o stop) := by
  unfold layMark
  repeat' first
    | exact h | apply onKu_keeps | apply bumpFired_keeps | apply bumpMerged_keeps | assumption | split | exact id
    | rfl | exact fun _ hx => hx | exact marksOk_setOutput _ _

theorem takeRequest_keeps (h : Keeps s t) (entry : MarkEntry) : Keeps s (takeRequest t entry).1 := by
  unfold takeRequest
  split
  · next e =>
    refine onKu_keeps h (fun k => { k with queue := insertMark entry k.queue }) ?_
    exact marksOk_insert entry (markOutcome_queued e)
  · next e =>
    split
    · split
      · exact h
      · exact layMark_keeps h _ _
    · next hp =>
      refine onKu_keeps h (fun k => { k with queue := insertMark entry k.queue }) ?_
      exact marksOk_insert entry (markOutcome_partly e hp)
  · exact raise_keeps (bumpLate_keeps h) _
  · exact raise_keeps (bumpMarkFull_keeps h) _
  · exact h

theorem markRequest_keeps (h : Keeps s t) (kind : PolicyEntry) (stamp : Int) (source : Word) :
    Keeps s (markRequest t kind stamp source).1 := by
  unfold markRequest
  repeat' first | exact h | apply takeRequest_keeps | split

theorem cutOutput_keeps (h : Keeps s t) (o : MarkOut) : Keeps s (cutOutput t o) := by
  unfold cutOutput
  repeat' first
    | exact h | apply onKu_keeps | apply bumpCut_keeps | assumption | split | exact id | rfl | exact fun _ hx => hx
    | exact marksOk_setOutput _ _

theorem cutPulses_keeps (h : Keeps s t) : Keeps s (cutPulses t) := by
  unfold cutPulses
  repeat' first | exact h | apply cutOutput_keeps

theorem endPulse_keeps (h : Keeps s t) (o : MarkOut) : Keeps s (endPulse t o) := by
  unfold endPulse
  repeat' first
    | exact h | apply onKu_keeps | assumption | split | exact id | rfl | exact fun _ hx => hx
    | exact marksOk_setOutput _ _

theorem marksOk_forced {k : MarkUnit} (hk : MarksOk k) : MarksOk ((k.setOutput .a .forced).setOutput .b .forced) := hk
theorem marksOk_released {k : MarkUnit} (hk : MarksOk k) :
    MarksOk { (k.setOutput .a .idle).setOutput .b .idle with breakFlag := false } := hk

theorem breakActivated_keeps (h : Keeps s t) : Keeps s (breakActivated t) := by
  unfold breakActivated
  dsimp only
  repeat' first
    | exact h | apply onKu_keeps | apply raise_keeps | apply cutPulses_keeps | assumption | split | exact id


theorem clearBreak_keeps (h : Keeps s t) : Keeps s (clearBreak t) := by
  unfold clearBreak
  repeat' first | exact h | apply onKu_keeps | assumption | split | exact id


theorem autoResume_keeps (h : Keeps s t) : Keeps s (autoResume t) := by
  unfold autoResume
  repeat' first | exact h | apply clearBreak_keeps | assumption | split

theorem startMarks_keeps (h : Keeps s t) : Keeps s (startMarks t) := by
  unfold startMarks
  repeat' first
    | exact h | apply onKu_keeps | assumption | split | exact id | rfl | exact fun _ hx => hx
    | exact fun _ => marksOk_nil _ rfl

end Sys2Proof.Machine
end

