-- ==== Sys2Proof/Laws/KeepsRecords.lean ====
section
/-! SUPPORT. The operations of the Record Unit and of the Exchange Unit keep the limits: numbers rise, the holding queue never
overflows, a page holds what its slots say. -/

namespace Sys2Proof.Machine

variable {s t : State}

/-! ## What leaves the Record Unit alone -/

theorem raise_ru (s : State) (c : Cause) : (raise s c).ru = s.ru := by
  unfold raise sendMessage
  dsimp only
  repeat' first | rfl | split

theorem layMark_ru (s : State) (o : MarkOut) (stop : Int) : (layMark s o stop).ru = s.ru := by
  unfold layMark
  split <;> rfl

theorem takeRequest_ru (s : State) (entry : MarkEntry) : (takeRequest s entry).1.ru = s.ru := by
  unfold takeRequest
  repeat' first | rfl | exact layMark_ru _ _ _ | exact raise_ru _ _ | split

theorem markRequest_ru (s : State) (kind : PolicyEntry) (stamp : Int) (source : Word) :
    (markRequest s kind stamp source).1.ru = s.ru := by
  unfold markRequest
  repeat' first | rfl | exact takeRequest_ru _ _ | split

theorem sourceOf_ru (s : State) (number : Option Nat) : (sourceOf s number).1.ru = s.ru := by
  cases number <;> rfl

/-! ## The holding queue -/

theorem slots_pos (b : RecordBody) : 1 ≤ b.slots := by
  unfold RecordBody.slots
  repeat' first | decide | split

theorem slotsOf_append (xs ys : List Record) : slotsOf (xs ++ ys) = slotsOf xs + slotsOf ys := by
  simp [slotsOf]

theorem slotsOf_single (x : Record) : slotsOf [x] = x.body.slots := by simp [slotsOf]

/-- R138: a record that has just been numbered enters at the tail when it fits. -/
theorem holdingOk_append {r : RecordUnit} (entry : Record) (hn : entry.seq < r.nextSeq)
    (hs : ∀ x ∈ r.queue, x.seq < entry.seq) (hroom : slotsOf r.queue + entry.body.slots ≤ Config.holdingSlots)
    (hr : HoldingOk r) : HoldingOk { r with queue := r.queue ++ [entry] } := by
  refine ⟨by simpa [slotsOf_append, slotsOf_single] using hroom, ?_, fun x hx => ?_, hr.2.2.2⟩
  · rw [List.map_append, List.pairwise_append]
    refine ⟨hr.2.1, by simp, fun a ha b hb => ?_⟩
    obtain ⟨x, hx, rfl⟩ := List.mem_map.1 ha
    have : b = entry.seq := by simpa using hb
    exact this ▸ hs x hx
  · rcases List.mem_append.1 hx with hx | hx
    · exact hr.2.2.1 x hx
    · have : x = entry := by simpa using hx
      exact this ▸ hn

/-- HoldingOk looks at the queue, the next number and the runs alone. -/
theorem holdingOk_congr {r q : RecordUnit} (h1 : q.queue = r.queue) (h2 : q.nextSeq = r.nextSeq)
    (h3 : RunsOk r.runs → RunsOk q.runs) (hr : HoldingOk r) : HoldingOk q := by
  unfold HoldingOk at *
  rw [h1, h2]
  exact ⟨hr.1, hr.2.1, hr.2.2.1, h3 hr.2.2.2⟩

theorem holdingOk_nil {r : RecordUnit} (h : r.queue = []) (hr : RunsOk r.runs) : HoldingOk r := by
  unfold HoldingOk
  rw [h]
  exact ⟨Nat.zero_le _, List.Pairwise.nil, by simp, hr⟩

/-! ## The runs of the loss tally (R141, R142) -/

theorem runsOk_nil : RunsOk [] := ⟨Nat.zero_le _, List.Pairwise.nil, List.nodup_nil⟩

theorem runsOk_sublist {l k : List LossRun} (h : l.Sublist k) (hk : RunsOk k) : RunsOk l :=
  ⟨h.length_le.trans hk.1, hk.2.1.sublist h, hk.2.2.sublist (h.map _)⟩

/-- Extending a run leaves every run its first number and its place in the order of entry. -/
theorem extendRun_map {seq : Nat} {h : Int} {body : RecordBody} {l k : List LossRun} (e : extendRun seq h body l = some k) :
    k.map (fun x => (x.first, x.entered)) = l.map fun x => (x.first, x.entered) := by
  induction l generalizing k with
  | nil => cases e
  | cons x xs ih =>
    unfold extendRun at e
    split at e
    · cases e
      rfl
    · obtain ⟨ys, hy, rfl⟩ := Option.map_eq_some_iff.1 e
      rw [List.map_cons, List.map_cons, ih hy]

theorem runsOk_map {l k : List LossRun}
    (e : k.map (fun x => (x.first, x.entered)) = l.map fun x => (x.first, x.entered)) (hl : RunsOk l) : RunsOk k := by
  have e1 : k.map LossRun.first = l.map LossRun.first := by
    have := congrArg (List.map Prod.fst) e
    rwa [List.map_map, List.map_map] at this
  have e2 : k.map LossRun.entered = l.map LossRun.entered := by
    have := congrArg (List.map Prod.snd) e
    rwa [List.map_map, List.map_map] at this
  refine ⟨?_, ?_, e2 ▸ hl.2.2⟩
  · have := congrArg List.length e
    rw [List.length_map, List.length_map] at this
    exact this ▸ hl.1
  · have := hl.2.1
    rw [← List.pairwise_map (f := LossRun.first) (R := (· ≤ ·))] at this ⊢
    rw [e1]
    exact this

theorem nextEntry_gt {l : List LossRun} {x : LossRun} (hx : x ∈ l) : x.entered < nextEntry l := by
  have mono : ∀ (l : List LossRun) (n : Nat), n ≤ l.foldl (fun n x => max n (x.entered + 1)) n := by
    intro l
    induction l with
    | nil => exact fun n => le_refl n
    | cons y ys ih => exact fun n => (le_max_left _ _).trans (ih _)
  have key : ∀ (l : List LossRun) (n : Nat), x ∈ l → x.entered < l.foldl (fun n x => max n (x.entered + 1)) n := by
    intro l
    induction l with
    | nil => exact fun _ h => nomatch h
    | cons y ys ih =>
      intro n h
      rcases List.mem_cons.1 h with rfl | h
      · exact (Nat.lt_succ_self _).trans_le ((le_max_right _ _).trans (mono ys _))
      · exact ih _ h
  exact key l 0 hx

/-- A run that joins with the next place in the order of entry keeps the list as it should be. -/
theorem runsOk_insert {l : List LossRun} (run : LossRun) (hroom : l.length < Config.lossRuns)
    (he : run.entered = nextEntry l) (hl : RunsOk l) :
    RunsOk (insertBy (fun y x => decide (x.first < y.first)) run l) := by
  have perm : ∀ k : List LossRun, (insertBy (fun y x => decide (x.first < y.first)) run k).Perm (run :: k) := by
    intro k
    induction k with
    | nil => exact List.Perm.refl _
    | cons y ys ih =>
      unfold insertBy
      split
      · exact List.Perm.refl _
      · exact (List.Perm.cons y ih).trans (List.Perm.swap _ _ _)
  refine ⟨?_, insertBy_sorted LossRun.first (fun _ _ => rfl) run l hl.2.1, ?_⟩
  · rw [insertBy_length]
    exact hroom
  · rw [((perm l).map LossRun.entered).nodup_iff, List.map_cons, List.nodup_cons]
    refine ⟨fun h => ?_, hl.2.2⟩
    obtain ⟨x, hx, e⟩ := List.mem_map.1 h
    have := nextEntry_gt hx
    omega

theorem joinLoss_runs (r : RecordUnit) (seq : Nat) (h : Int) (body : RecordBody) (hr : RunsOk r.runs) :
    RunsOk (joinLoss r seq h body).runs := by
  unfold joinLoss
  split
  · next e => exact runsOk_map (extendRun_map e) hr
  · split
    · next hroom => exact runsOk_insert _ hroom rfl hr
    · exact hr

theorem holdingOk_tail {r : RecordUnit} {x : Record} {rest : List Record} (h : r.queue = x :: rest) (hr : HoldingOk r) :
    HoldingOk { r with queue := rest } := by
  unfold HoldingOk at *
  rw [h] at hr
  obtain ⟨h1, h2, h3, h4⟩ := hr
  refine ⟨?_, ?_, fun y hy => h3 y (List.mem_cons_of_mem _ hy), h4⟩
  · have : slotsOf (x :: rest) = x.body.slots + slotsOf rest := by simp [slotsOf]
    show slotsOf rest ≤ _
    omega
  · rw [List.map_cons, List.pairwise_cons] at h2
    exact h2.2

theorem joinLoss_queue (r : RecordUnit) (seq : Nat) (h : Int) (body : RecordBody) :
    (joinLoss r seq h body).queue = r.queue := by
  unfold joinLoss
  repeat' first | rfl | split

theorem joinLoss_nextSeq (r : RecordUnit) (seq : Nat) (h : Int) (body : RecordBody) :
    (joinLoss r seq h body).nextSeq = r.nextSeq := by
  unfold joinLoss
  repeat' first | rfl | split

theorem loseRecord_keeps (h : Keeps s t) (entry : Record) : Keeps s (loseRecord t entry) :=
  onRu_keeps h _ (holdingOk_congr (joinLoss_queue _ _ _ _) (joinLoss_nextSeq _ _ _ _) (joinLoss_runs _ _ _ _))

/-! ## Numbering (R130) -/

theorem takeNumber_keeps (h : Keeps s t) : Keeps s (takeNumber t).1 := by
  have key : Keeps s (t.onRu fun r => { r with nextSeq := t.ru.nextSeq + 1 }) :=
    onRu_keeps h _ fun hr =>
      ⟨hr.1, hr.2.1, fun x hx => (hr.2.2.1 x hx).trans (Nat.lt_succ_self _), hr.2.2.2⟩
  unfold takeNumber
  dsimp only
  split
  · dsimp only
    split
    · exact onCu_keeps key _
    · exact key
  · exact h

/-- R130: the number given is a new one. -/
theorem takeNumber_new (hr : HoldingOk t.ru) (n : Nat) (hn : (takeNumber t).2 = some n) :
    n < (takeNumber t).1.ru.nextSeq ∧ ∀ x ∈ (takeNumber t).1.ru.queue, x.seq < n := by
  unfold takeNumber at *
  dsimp only at *
  split at hn
  · cases hn
    rw [if_pos ‹_›]
    dsimp only
    split
    · exact ⟨Nat.lt_succ_self _, hr.2.2.1⟩
    · exact ⟨Nat.lt_succ_self _, hr.2.2.1⟩
  · cases hn

theorem placeRecord_keeps (h : Keeps s t) (number : Option Nat) (mark : MarkState) (body : RecordBody)
    (hn : HoldingOk s.ru → ∀ n, number = some n → n < t.ru.nextSeq ∧ ∀ x ∈ t.ru.queue, x.seq < n) :
    Keeps s (placeRecord t number mark body) := by
  unfold placeRecord
  cases number with
  | none => exact onRu_keeps h _ id
  | some n =>
    dsimp only
    split
    · exact loseRecord_keeps h _
    · next hroom =>
      refine { h with holding := fun hs => ?_ }
      obtain ⟨h1, h2⟩ := hn hs n rfl
      refine holdingOk_append { seq := n, mark := mark, body := body } h1 h2 ?_ (h.holding hs)
      simp only [Bool.or_eq_true, decide_eq_true_eq, not_or, not_lt] at hroom
      have := hroom.2
      have pos := slots_pos body
      unfold freeSlots at this
      show slotsOf t.ru.queue + body.slots ≤ Config.holdingSlots
      omega

theorem countRecord_keeps (h : Keeps s t) (body : RecordBody) : Keeps s (countRecord t body) := by
  unfold countRecord
  repeat' first | exact h | apply onRu_keeps | apply captureFault_keeps | assumption | split | exact id


/-- R131: an issue without a mark request. -/
theorem issue_keeps (h : Keeps s t) (body : RecordBody) : Keeps s (issue t body) := by
  unfold issue
  have hk := takeNumber_keeps h
  have hf := fun hs => takeNumber_new (h.holding hs)
  split
  next s1 number e =>
  rw [e] at hk hf
  exact countRecord_keeps (placeRecord_keeps hk _ _ _ hf) _

theorem issueMissed_keeps (h : Keeps s t) (entry : MarkEntry) (reason : MissReason) :
    Keeps s (issueMissed t entry reason) := by
  unfold issueMissed
  repeat' first | exact h | apply bumpMissed_keeps | apply issue_keeps


theorem settleMissed_keeps (h : Keeps s t) (answer : MarkAnswer) : Keeps s (settleMissed t answer) := by
  unfold settleMissed
  repeat' first | exact h | apply issueMissed_keeps | assumption | split

theorem sourceOf_keeps (h : Keeps s t) (number : Option Nat) : Keeps s (sourceOf t number).1 := by
  cases number with
  | none => exact useFree_keeps h
  | some n => exact h

/-- R131: an issue with a mark request. -/
theorem issueMarked_keeps (h : Keeps s t) (body : RecordBody) (kind : PolicyEntry) (stamp : Int) :
    Keeps s (issueMarked t body kind stamp).1 := by
  unfold issueMarked
  have hk := takeNumber_keeps h
  have hf := fun hs => takeNumber_new (h.holding hs)
  rcases e1 : takeNumber t with ⟨s1, number⟩
  rw [e1] at hk hf
  have hk2 := sourceOf_keeps hk number
  have r2 := sourceOf_ru s1 number
  rcases e2 : sourceOf s1 number with ⟨s2, source⟩
  rw [e2] at hk2 r2
  have hk3 := markRequest_keeps hk2 kind stamp source
  have r3 := markRequest_ru s2 kind stamp source
  rcases e3 : markRequest s2 kind stamp source with ⟨s3, answer⟩
  rw [e3] at hk3 r3
  simp only [e2, e3]
  refine settleMissed_keeps (countRecord_keeps (placeRecord_keeps hk3 _ _ _ ?_) _) _
  dsimp only at r2 r3
  rw [r3, r2]
  exact hf

theorem requestOnly_keeps (h : Keeps s t) (kind : PolicyEntry) (stamp : Int) (source : Word) :
    Keeps s (requestOnly t kind stamp source) := by
  unfold requestOnly
  have hk := markRequest_keeps h kind stamp source
  rcases e : markRequest t kind stamp source with ⟨s1, answer⟩
  rw [e] at hk
  exact settleMissed_keeps hk _

theorem issueFault_keeps (h : Keeps s t) (code : FaultCode) (subject : FaultSubject) (first : Int) (last : Int) (count : Nat) :
    Keeps s (issueFault t code subject first last count) := by
  unfold issueFault
  repeat' first | exact h | apply issue_keeps

theorem issueTally_keeps (h : Keeps s t) (code : FaultCode) (f : Face) (tally : Tally) :
    Keeps s (issueTally t code f tally) := by
  unfold issueTally
  split
  · exact h
  · exact issueFault_keeps h _ _ _ _ _

/-! ## LOSS records (R142) -/

theorem takeNumber_queue (s : State) : (takeNumber s).1.ru.queue = s.ru.queue := by
  unfold takeNumber
  dsimp only
  repeat' first | rfl | split

theorem issueLoss_slots (s : State) (run : LossRun) :
    slotsOf (issueLoss s run).ru.queue ≤ slotsOf s.ru.queue + 1 := by
  unfold issueLoss
  have e := takeNumber_queue s
  rcases e1 : takeNumber s with ⟨s1, number⟩
  rw [e1] at e
  dsimp only at e ⊢
  cases number with
  | none => simp [e]
  | some n =>
    dsimp only
    rw [raise_ru]
    show slotsOf (s1.ru.queue ++ [_]) ≤ _
    rw [slotsOf_append, slotsOf_single, e]
    exact le_refl _

theorem issueLoss_keeps (h : Keeps s t) (run : LossRun) (hroom : slotsOf t.ru.queue + 1 ≤ Config.holdingSlots) :
    Keeps s (issueLoss t run) := by
  unfold issueLoss
  have hk := takeNumber_keeps h
  have hf := fun hs => takeNumber_new (h.holding hs)
  have e := takeNumber_queue t
  rcases e1 : takeNumber t with ⟨s1, number⟩
  rw [e1] at hk hf e
  dsimp only at hk hf e ⊢
  cases number with
  | none => exact hk
  | some n =>
    refine raise_keeps (t := s1.onRu _) { hk with holding := fun hs => ?_ } _
    obtain ⟨h1, h2⟩ := hf hs n rfl
    exact holdingOk_append { seq := n, mark := .none, body := lossBody run } h1 h2 (by rw [e]; exact hroom)
      (hk.holding hs)

theorem lossRecords_keeps (n : Nat) (h : Keeps s t) (hroom : slotsOf t.ru.queue + n ≤ Config.holdingSlots) :
    Keeps s (lossRecords n t) := by
  induction n generalizing t with
  | zero => exact h
  | succ n ih =>
    unfold lossRecords
    split
    · split
      · next run _ =>
        have hr : Keeps s (t.onRu fun r => { r with runs := r.runs.erase run }) :=
          onRu_keeps h _ (holdingOk_congr rfl rfl (runsOk_sublist List.erase_sublist))
        have hs := issueLoss_slots (t.onRu fun r => { r with runs := r.runs.erase run }) run
        refine ih (issueLoss_keeps hr run ?_) ?_
        · show slotsOf t.ru.queue + 1 ≤ _
          omega
        · have : slotsOf (t.onRu fun r => { r with runs := r.runs.erase run }).ru.queue = slotsOf t.ru.queue := rfl
          omega
      · split
        · exact h
        · refine issueLoss_keeps (onRu_keeps h _ id) _ ?_
          show slotsOf t.ru.queue + 1 ≤ _
          omega
    · exact h

theorem closeTally_keeps (h : Keeps s t) : Keeps s (closeTally t) := by
  unfold closeTally
  repeat' first | exact h | apply onRu_keeps | assumption | split | exact id

theorem closeLoss_keeps (n : Nat) (h : Keeps s t) : Keeps s (closeLoss n t) := by
  induction n generalizing t with
  | zero => exact h
  | succ n ih =>
    unfold closeLoss
    split
    · next c =>
      refine ih (closeTally_keeps (lossRecords_keeps _ h ?_))
      simp only [Bool.and_eq_true, decide_eq_true_eq] at c
      have := c.2
      unfold freeSlots Config.lossBurst at this
      unfold Config.lossBurst
      omega
    · exact h

theorem testLoss_keeps (h : Keeps s t) : Keeps s (testLoss t) := closeLoss_keeps _ h

theorem takeMark_keeps (h : Keeps s t) (entry : MarkEntry) : Keeps s (takeMark t entry) := by
  unfold takeMark
  repeat' first | exact h | apply layMark_keeps | apply issueMissed_keeps | assumption | split


theorem advanceMarks_keeps (h : Keeps s t) : Keeps s (advanceMarks t) := by
  unfold advanceMarks
  refine endPulse_keeps (endPulse_keeps (foldl_keeps _ (fun u x hu => takeMark_keeps hu x) _ ?_) _) _
  exact onKu_keeps h (fun k => { k with queue := k.queue.dropWhile fun e => decide (e.fire ≤ t.mu.h) })
    (marksOk_dropWhile _)

/-! ## The Exchange Unit -/

theorem startSample_keeps (h : Keeps s t) : Keeps s (startSample t) := by
  unfold startSample
  split
  · exact h
  · split
    · exact onXu_keeps h _ rfl id
    · exact emit_keeps (emit_keeps (onXu_keeps h _ rfl id) _) _

theorem endSample_keeps (h : Keeps s t) : Keeps s (endSample t) := by
  have key := onXu_keeps h (fun x => { x with sample := none, resample := false }) rfl id
  unfold endSample
  dsimp only
  split
  · exact startSample_keeps key
  · exact key

theorem payOwed_keeps (h : Keeps s t) (owed : Owed) : Keeps s (payOwed t owed) := by
  unfold payOwed
  dsimp only
  repeat' first | exact h | apply raise_keeps | assumption | split

theorem writeStatus_keeps (h : Keeps s t) (owed : Owed) : Keeps s (writeStatus t owed) :=
  emit_keeps (emit_keeps (emit_keeps (emit_keeps (onXu_keeps h _ rfl id) _) _) _) _

theorem beginStatus_keeps (h : Keeps s t) (owed : Owed) : Keeps s (beginStatus t owed) := by
  unfold beginStatus
  split
  · exact payOwed_keeps h _
  · exact writeStatus_keeps h _

theorem wantStatus_keeps (h : Keeps s t) (owed : Owed) : Keeps s (wantStatus t owed) := by
  unfold wantStatus
  split
  · exact onXu_keeps h _ rfl id
  · exact beginStatus_keeps h _

theorem endStatus_keeps (h : Keeps s t) : Keeps s (endStatus t) := by
  unfold endStatus
  split
  · exact h
  · next w _ =>
    have key := payOwed_keeps
      (onXu_keeps h (fun x => { x with statusWrite := none, statusWanted := none }) rfl id) w.owed
    dsimp only
    split
    · exact key
    · exact beginStatus_keeps key _

theorem failStatus_keeps (h : Keeps s t) : Keeps s (failStatus t) := by
  unfold failStatus
  split
  · exact h
  · exact endStatus_keeps (captureFault_keeps (onXu_keeps h _ rfl id) _)

theorem skipInvalid_keeps (n : Nat) (h : Keeps s t) : Keeps s (skipInvalid n t) := by
  induction n generalizing t with
  | zero => exact h
  | succ n ih =>
    unfold skipInvalid
    split
    · exact h
    · exact ih (captureFault_keeps (onXu_keeps h _ rfl id) _)

theorem raise_posting (s : State) (c : Cause) : (raise s c).xu.posting = s.xu.posting := by
  unfold raise sendMessage
  dsimp only
  repeat' first | rfl | split

theorem skipInvalid_posting (n : Nat) (s : State) : (skipInvalid n s).xu.posting = s.xu.posting := by
  induction n generalizing s with
  | zero => rfl
  | succ n ih =>
    unfold skipInvalid
    split
    · rfl
    · rw [ih]
      exact raise_posting _ _

/-- R184: a page is taken while no post is in progress. -/
theorem takePage_keeps (h : Keeps s t) (hp : t.xu.posting = none) : Keeps s (takePage t) := by
  unfold takePage
  dsimp only
  refine onXu_keeps h _ rfl fun _ => ⟨fun p e => ?_, fun p e => ?_⟩
  · cases e
    exact ⟨rfl, Nat.zero_le _⟩
  · rw [show t.xu.posting = some p from e] at hp
    cases hp

theorem stockEmpty_keeps (h : Keeps s t) : Keeps s (stockEmpty t) := by
  unfold stockEmpty
  split
  · exact h
  · exact raise_keeps (onXu_keeps h _ rfl id) _

/-- R187: a post begins with the filling page. -/
theorem beginPost_keeps (h : Keeps s t) (reason : PostReason) : Keeps s (beginPost t reason) := by
  unfold beginPost
  split
  · exact h
  · next page e =>
    split
    · exact h
    · refine emit_keeps (emit_keeps (onXu_keeps h _ rfl fun hx => ⟨fun p e => ?_, fun p e => ?_⟩) _) _
      · cases e
      · cases e
        exact ⟨hx.1 page ‹_›, rfl⟩

/-- R139, R185: a record goes into a page that has room for it. -/
theorem writeRecord_keeps (h : Keeps s t) (page : Page) (rec : Record) (rest : List Record)
    (hf : t.xu.filling = some page) (hq : t.ru.queue = rec :: rest)
    (hroom : page.used + rec.body.slots ≤ Config.pageSlots) : Keeps s (writeRecord t page rec rest) := by
  unfold writeRecord
  refine emit_keeps (onXu_keeps (onRu_keeps h _ (holdingOk_tail hq)) _ rfl fun hx => ⟨fun p e => ?_, fun p e => ?_⟩) _
  · cases e
    have hp : page.ok := hx.1 page hf
    refine ⟨?_, hroom⟩
    show page.used + rec.body.slots = slotsOf (page.records ++ [rec])
    rw [slotsOf_append, slotsOf_single, hp.1]
  · have : t.xu.filling = none := (hx.2 p e).2
    rw [hf] at this
    cases this

theorem postWhenFull_keeps (h : Keeps s t) : Keeps s (postWhenFull t) := by
  unfold postWhenFull
  split
  · exact h
  · split
    · exact beginPost_keeps h _
    · exact h

theorem loseRecords_keeps (h : Keeps s t) (records : List Record) : Keeps s (loseRecords t records) :=
  foldl_keeps _ (fun _ x hu => loseRecord_keeps hu x) _ h

theorem abandonPage_keeps (h : Keeps s t) (records : List Record) : Keeps s (abandonPage t records) := by
  have key := testLoss_keeps (loseRecords_keeps h records)
  unfold abandonPage
  dsimp only
  split
  · exact captureFault_keeps key _
  · exact issueFault_keeps key _ _ _ _ _

end Sys2Proof.Machine
end

