-- ==== Sys2Proof/Laws/KeepsLink.lean ====
section
/-! SUPPORT. The operations of the Link Unit keep the limits: no head holds more than two packets. -/

namespace Sys2Proof.Machine

variable {s t : State}

theorem giveUp_keeps (h : Keeps s t) (p : Port) (numbers : List Nat) : Keeps s (giveUp t p numbers) := by
  unfold giveUp
  repeat' first
    | with_reducible exact h | with_reducible apply onLuFace_keeps | with_reducible apply onHead_keeps
    | with_reducible assumption | split | exact id


theorem leaveLive_keeps (h : Keeps s t) (p : Port) : Keeps s (leaveLive t p) := by
  unfold leaveLive
  repeat' first
    | with_reducible exact h | with_reducible apply onHead_keeps | with_reducible apply giveUp_keeps
    | with_reducible assumption | split | exact id


theorem failHead_keeps (h : Keeps s t) (p : Port) (desc : LineDesc) (limit : Nat) :
    Keeps s (failHead t p desc limit) := by
  unfold failHead
  dsimp only
  repeat' first
    | with_reducible exact h | with_reducible apply onHead_keeps | with_reducible apply issueFault_keeps
    | with_reducible apply leaveLive_keeps | with_reducible assumption | split | exact id


theorem countMiss_keeps (h : Keeps s t) (p : Port) (desc : LineDesc) : Keeps s (countMiss t p desc) := by
  unfold countMiss
  dsimp only
  repeat' first
    | with_reducible exact h | with_reducible apply onHead_keeps | with_reducible apply failHead_keeps
    | with_reducible assumption | split | exact id


theorem judgeHead_keeps (h : Keeps s t) (desc : LineDesc) (p : Port) : Keeps s (judgeHead desc t p) := by
  unfold judgeHead
  dsimp only
  repeat' first
    | with_reducible exact h | with_reducible apply onHead_keeps | with_reducible apply countMiss_keeps
    | with_reducible assumption | split | exact id


theorem freeBuffers_keeps (h : Keeps s t) (number : Nat) (p : Port) : Keeps s (freeBuffers number t p) := by
  unfold freeBuffers
  repeat' first
    | with_reducible exact h | with_reducible apply onHead_keeps | with_reducible assumption | split | exact id | rfl
    | exact fun _ hx => hx | exact fun hx => (List.length_filter_le _ _).trans hx

theorem assembleLine_keeps (h : Keeps s t) (f : Face) (line : OpenLine) : Keeps s (assembleLine t f line) := by
  unfold assembleLine
  dsimp only
  repeat' first
    | with_reducible exact h | with_reducible apply onLuFace_keeps | with_reducible apply judgeHead_keeps
    | with_reducible apply freeBuffers_keeps | refine foldl_keeps _ (fun u x hu => ?_) _ ?_
    | with_reducible assumption


theorem assembleOldest_keeps (h : Keeps s t) (f : Face) : Keeps s (assembleOldest t f) := by
  unfold assembleOldest
  repeat' first | with_reducible exact h | with_reducible apply assembleLine_keeps | with_reducible assumption | split


theorem assembleComplete_keeps (n : Nat) (h : Keeps s t) (f : Face) : Keeps s (assembleComplete n t f) := by
  induction n generalizing t with
  | zero => exact h
  | succ n ih =>
    unfold assembleComplete
    split
    · exact h
    · split
      · exact ih (assembleLine_keeps h _ _)
      · exact h

theorem assembleReady_keeps (h : Keeps s t) (f : Face) : Keeps s (assembleReady t f) := assembleComplete_keeps _ h _

theorem assembleAll_keeps (h : Keeps s t) (f : Face) : Keeps s (assembleAll t f) :=
  foldl_keeps _ (fun _ _ hu => assembleOldest_keeps hu f) _ h

theorem assembleOverdue_keeps (n : Nat) (h : Keeps s t) (f : Face) : Keeps s (assembleOverdue n t f) := by
  induction n generalizing t with
  | zero => exact h
  | succ n ih =>
    unfold assembleOverdue
    split
    · exact h
    · split
      · exact ih (assembleReady_keeps (assembleLine_keeps h _ _) _)
      · exact h

theorem recoverHead_keeps (h : Keeps s t) (p : Port) (desc : LineDesc) : Keeps s (recoverHead t p desc) := by
  unfold recoverHead
  dsimp only
  repeat' first
    | with_reducible exact h | with_reducible apply onHead_keeps | with_reducible apply issueFault_keeps
    | with_reducible assumption | split | exact id


theorem sendTrigger_keeps (h : Keeps s t) (desc : LineDesc) (p : Port) : Keeps s (sendTrigger desc t p) := by
  unfold sendTrigger
  dsimp only
  repeat' first
    | with_reducible exact h | with_reducible apply emit_keeps | with_reducible apply onHead_keeps
    | with_reducible apply recoverHead_keeps | with_reducible assumption | split | exact id


theorem makeRoom_keeps (h : Keeps s t) (f : Face) : Keeps s (makeRoom t f) := by
  unfold makeRoom
  repeat' first
    | with_reducible exact h | with_reducible apply assembleOldest_keeps | with_reducible apply assembleReady_keeps
    | with_reducible assumption | split


theorem triggerLine_keeps (h : Keeps s t) (f : Face) (desc : LineDesc) : Keeps s (triggerLine t f desc) := by
  unfold triggerLine
  dsimp only
  repeat' first
    | with_reducible exact h | with_reducible apply onLuFace_keeps | with_reducible apply pushStream_keeps
    | with_reducible apply assembleReady_keeps | with_reducible apply sendTrigger_keeps
    | with_reducible apply makeRoom_keeps | refine foldl_keeps _ (fun u x hu => ?_) _ ?_ | with_reducible assumption


theorem activateHeads_keeps (h : Keeps s t) : Keeps s (activateHeads t) := by
  unfold activateHeads
  repeat' first
    | with_reducible exact h | with_reducible apply onHead_keeps | refine foldl_keeps _ (fun u x hu => ?_) _ ?_
    | with_reducible assumption | split | exact id


theorem readyHead_keeps (h : Keeps s t) (p : Port) : Keeps s (readyHead t p) := by
  unfold readyHead
  repeat' first
    | with_reducible exact h | with_reducible apply onHead_keeps | with_reducible apply leaveLive_keeps
    | with_reducible assumption | split | exact id


theorem mismatchHead_keeps (h : Keeps s t) (p : Port) (f : Face) (hello : Hello) :
    Keeps s (mismatchHead t p f hello) := by
  unfold mismatchHead
  dsimp only
  repeat' first
    | with_reducible exact h | with_reducible apply onHead_keeps | with_reducible apply issueFault_keeps
    | with_reducible apply leaveLive_keeps | with_reducible assumption | split | exact id


theorem takeHello_keeps (h : Keeps s t) (p : Port) (hello : Hello) : Keeps s (takeHello t p hello) := by
  unfold takeHello
  dsimp only
  repeat' first
    | with_reducible exact h | with_reducible apply onHead_keeps | with_reducible apply assembleReady_keeps
    | with_reducible apply readyHead_keeps | with_reducible apply mismatchHead_keeps | with_reducible assumption
    | split | exact id

theorem receiveHello_keeps (h : Keeps s t) (p : Port) (packet : Packet) : Keeps s (receiveHello t p packet) := by
  unfold receiveHello
  repeat' first
    | with_reducible exact h | with_reducible apply onCounters_keeps | with_reducible apply takeHello_keeps
    | with_reducible assumption | split


theorem sendRetrain_keeps (h : Keeps s t) (p : Port) : Keeps s (sendRetrain t p) := by
  unfold sendRetrain
  repeat' first
    | with_reducible exact h | with_reducible apply emit_keeps | with_reducible apply onHead_keeps
    | with_reducible assumption | split | exact id


theorem resetHead_keeps (h : Keeps s t) (p : Port) : Keeps s (resetHead t p) := by
  unfold resetHead
  dsimp only
  repeat' first
    | with_reducible exact h | with_reducible apply onHead_keeps | with_reducible apply leaveLive_keeps
    | with_reducible apply assembleReady_keeps | with_reducible apply sendRetrain_keeps | with_reducible assumption
    | split | exact id

/-- R32, R34: a packet is kept only while one of the two buffers is free. -/
theorem matchLine_keeps (h : Keeps s t) (p : Port) (packet : Packet)
    (hroom : (t.head p).buffers.length < Config.lineBuffers) : Keeps s (matchLine t p packet) := by
  unfold matchLine
  dsimp only
  split
  · exact onCounters_keeps h _ _
  · refine assembleReady_keeps (onHead_keeps (giveUp_keeps h _ _) _ _ fun _ => ?_) _
    have e : ((giveUp t p ((t.head p).outstanding.takeWhile fun n => n % 256 != lineTag packet)).head p).buffers
        = (t.head p).buffers := by
      unfold giveUp
      simp [State.head, State.onHead, State.onLuFace, State.onLu]
    simp only [List.length_append, List.length_singleton]
    rw [e]
    exact hroom

theorem receiveLine_keeps (h : Keeps s t) (p : Port) (packet : Packet) : Keeps s (receiveLine t p packet) := by
  unfold receiveLine
  split
  · split
    · exact onCounters_keeps h _ _
    · next hroom =>
      repeat' first | exact onCounters_keeps h _ _ | exact matchLine_keeps h _ _ (not_le.1 hroom) | split
  · exact h

theorem startLinks_keeps (h : Keeps s t) : Keeps s (startLinks t) := by
  refine onLu_keeps h _ fun _ p => ?_
  simp

end Sys2Proof.Machine
end

