-- ==== Sys2Proof/Laws/KeepsMotion.lean ====
section
/-! SUPPORT. The operations of the Motion Unit keep the limits: P within its bounds and never above H between two steps, eight edges
to a face, two splices. -/

namespace Sys2Proof.Machine

variable {s t : State}

theorem purgeSplices_length (entries : List SpliceEntry) : (purgeSplices entries).length ≤ entries.length :=
  List.length_filter_le _ _

/-- MotionOk looks at P, H, the edge queues and the splice queue alone. -/
theorem motionOk_splices {m : MotionUnit} (splices : List SpliceEntry) (hl : splices.length ≤ Config.spliceQueueSize)
    (hm : MotionOk m) : MotionOk { m with splices := splices } :=
  ⟨hm.1, hm.2.1, hm.2.2.1, hm.2.2.2.1, hl⟩

theorem closeSkip_keeps (h : Keeps s t) (f : Face) : Keeps s (closeSkip t f) := by
  unfold closeSkip
  repeat' first
    | with_reducible exact h | with_reducible apply onMuFace_keeps | with_reducible apply issueTally_keeps
    | with_reducible assumption | split | exact id | rfl | exact fun _ hx => hx

theorem finishFace_keeps (h : Keeps s t) (f : Face) : Keeps s (finishFace t f) := by
  unfold finishFace
  refine closeSkip_keeps (onMu_keeps (onMuFace_keeps h _ _ (by exact fun _ hx => hx)) _ fun hm => ?_) _
  refine motionOk_splices _ ((purgeSplices_length _).trans ?_) hm
  rw [List.length_map]
  exact hm.2.2.2.2

theorem makePatchEnd_keeps (h : Keeps s t) (f : Face) (stamp : Int) (flags : PatchFlags) :
    Keeps s (makePatchEnd t f stamp flags) := by
  unfold makePatchEnd
  dsimp only
  repeat' first
    | with_reducible exact h | with_reducible apply onMuFace_keeps | with_reducible apply pushStream_keeps
    | with_reducible apply finishFace_keeps | with_reducible assumption | split | exact id | rfl
    | exact fun _ hx => hx

theorem applyPending_keeps (h : Keeps s t) (f : Face) (stamp : Int) : Keeps s (applyPending t f stamp).1 := by
  unfold applyPending
  split
  · exact h
  · next part _ =>
    dsimp only
    refine issue_keeps (onMuFace_keeps (onRsFace_keeps h _ _) _ _ fun x hx => ?_) _
    dsimp only
    split
    · exact Nat.zero_le _
    · exact hx

theorem makePatchStart_keeps (h : Keeps s t) (f : Face) (stamp : Int) (flags : StartFlags) :
    Keeps s (makePatchStart t f stamp flags) := by
  unfold makePatchStart
  dsimp only
  exact pushStream_keeps (applyPending_keeps (onMuFace_keeps h _ _ (by exact fun _ hx => hx)) _ _) _ _

theorem applyEdge_keeps (h : Keeps s t) (f : Face) (edge : Edge) : Keeps s (applyEdge t f edge) := by
  unfold applyEdge
  dsimp only
  repeat' first
    | with_reducible exact h | with_reducible apply onMuFace_keeps | with_reducible apply makePatchEnd_keeps
    | with_reducible apply makePatchStart_keeps | with_reducible assumption | split | exact id | rfl
    | exact fun _ hx => hx | exact fun x hx => (List.length_tail.trans_le (Nat.sub_le _ _)).trans hx

theorem applySynthetic_keeps (h : Keeps s t) (f : Face) (stamp : Int) : Keeps s (applySynthetic t f stamp) := by
  unfold applySynthetic
  repeat' first
    | with_reducible exact h | with_reducible apply makePatchEnd_keeps | with_reducible apply makePatchStart_keeps
    | with_reducible assumption | split

theorem applySegment_keeps (h : Keeps s t) (f : Face) (stamp : Int) : Keeps s (applySegment t f stamp) := by
  unfold applySegment
  dsimp only
  repeat' first
    | with_reducible exact h | with_reducible apply makePatchEnd_keeps | with_reducible apply makePatchStart_keeps
    | with_reducible assumption | split

theorem applyBoundary_keeps (h : Keeps s t) (f : Face) (b : Boundary) : Keeps s (applyBoundary t f b) := by
  cases b
  · exact applyEdge_keeps h _ _
  · exact applySynthetic_keeps h _ _
  · exact applySegment_keeps h _ _

theorem applyBoundaries_keeps (n : Nat) (h : Keeps s t) (f : Face) (stamp : Int) :
    Keeps s (applyBoundaries n t f stamp) := by
  induction n generalizing t with
  | zero => exact h
  | succ n ih =>
    unfold applyBoundaries
    split
    · exact h
    · split
      · exact h
      · split
        · exact ih (applyBoundary_keeps h _ _)
        · exact h

theorem enterZone_keeps (h : Keeps s t) (f : Face) (stamp : Int) (e : SpliceEntry) :
    Keeps s (enterZone f stamp t e) := by
  unfold enterZone
  split
  · cases f
    · exact issue_keeps (pushStream_keeps h _ _) _
    · exact pushStream_keeps h _ _
  · exact h

theorem meetSplices_keeps (h : Keeps s t) (f : Face) (stamp : Int) : Keeps s (meetSplices t f stamp) := by
  unfold meetSplices
  refine onMu_keeps (foldl_keeps _ (fun u x hu => enterZone_keeps hu f stamp x) _ h) _ fun hm => ?_
  refine motionOk_splices _ ((purgeSplices_length _).trans ?_) hm
  rw [List.length_map]
  exact hm.2.2.2.2

theorem sendLine_keeps (h : Keeps s t) (sp : SharedPart) (f : Face) (number : Nat) (excluded : Bool) :
    Keeps s (sendLine t sp f number excluded) := by
  unfold sendLine
  dsimp only
  repeat' first
    | with_reducible exact h | with_reducible apply onMuFace_keeps | with_reducible apply triggerLine_keeps
    | with_reducible apply closeSkip_keeps | with_reducible assumption | split | exact id | rfl | exact fun _ hx => hx

theorem skipLine_keeps (h : Keeps s t) (sp : SharedPart) (f : Face) (number : Nat) (excluded : Bool) :
    Keeps s (skipLine t sp f number excluded) := by
  unfold skipLine
  repeat' first
    | with_reducible exact h | with_reducible apply onMuFace_keeps | with_reducible apply pushStream_keeps
    | with_reducible assumption | split | exact id | rfl | exact fun _ hx => hx

theorem prepareLine_keeps (h : Keeps s t) (sp : SharedPart) (f : Face) : Keeps s (prepareLine t sp f) := by
  have key := applyBoundaries_keeps (boundaryFuel t f (lineStamp t sp (t.muFace f).nextLine)) h f
    (lineStamp t sp (t.muFace f).nextLine)
  unfold prepareLine
  dsimp only
  split
  · exact key
  · refine onMuFace_keeps ?_ _ _ fun _ hx => hx
    split
    · exact sendLine_keeps (meetSplices_keeps key _ _) _ _ _ _
    · exact skipLine_keeps (meetSplices_keeps key _ _) _ _ _ _

theorem prepareIfDue_keeps (h : Keeps s t) (sp : SharedPart) (f : Face) : Keeps s (prepareIfDue t sp f) := by
  unfold prepareIfDue
  repeat' first | with_reducible exact h | with_reducible apply prepareLine_keeps | with_reducible assumption | split


/-- R10: an edge enters a queue that has room. -/
theorem queueEdge_length (part : FacePart) (m : MuFace) (edge : Edge) (h : m.edges.length ≤ Config.edgeQueueSize) :
    (queueEdge part m edge).edges.length ≤ Config.edgeQueueSize := by
  unfold queueEdge
  split
  · exact h
  · split
    · next hroom => simpa using hroom
    · exact h

theorem sampleMark_keeps (h : Keeps s t) (sp : SharedPart) (f : Face) : Keeps s (sampleMark t sp f) := by
  unfold sampleMark
  dsimp only
  split
  · exact h
  · split
    · exact onMuFace_keeps h _ _ fun _ hx => hx
    · exact onMuFace_keeps h _ _ fun x hx => queueEdge_length _ _ _ hx

/-- R20: a splice enters a queue that has room. -/
theorem acceptSplice_keeps (h : Keeps s t) (sp : SharedPart) (z : Int) : Keeps s (acceptSplice t sp z) := by
  unfold acceptSplice
  dsimp only
  split
  · next hroom =>
    have key : ∀ e : SpliceEntry,
        Keeps s (t.onMu fun m => { m with splices := purgeSplices (m.splices ++ [e]) }) := fun e =>
      onMu_keeps h _ fun hm => motionOk_splices _ ((purgeSplices_length _).trans (by simpa using hroom)) hm
    split
    · exact issue_keeps (key _) _
    · exact key _
  · exact issueFault_keeps h _ _ _ _ _

theorem sampleSplice_keeps (h : Keeps s t) (sp : SharedPart) : Keeps s (sampleSplice t sp) := by
  unfold sampleSplice
  dsimp only
  split
  · exact h
  · split
    · exact onMu_keeps h _ id
    · split
      · exact acceptSplice_keeps (onMu_keeps (onMu_keeps h _ id) _ id) _ _
      · exact onMu_keeps (onMu_keeps h _ id) _ id

theorem sendLimit_keeps (h : Keeps s t) : Keeps s (sendLimit t) := by
  unfold sendLimit
  split
  · exact onCu_keeps (onMu_keeps h _ id) _
  · exact h

theorem inspectAdvance_keeps (h : Keeps s t) : Keeps s (inspectAdvance t) := by
  unfold inspectAdvance
  split
  · exact h
  · exact prepareIfDue_keeps (prepareIfDue_keeps (sampleSplice_keeps (sampleMark_keeps (sampleMark_keeps
      (sendLimit_keeps h) _ _) _ _) _) _ _) _ _

/-- R3, R4: a forward step that goes beyond H takes H along. -/
theorem forwardStep_keeps (h : Keeps s t) : Keeps s (forwardStep t) := by
  unfold forwardStep
  dsimp only
  split
  · next hlim =>
    split
    · next hph =>
      have hph : t.mu.h < t.mu.p + 1 := hph
      have key : Keeps s (((movePosition (t.onMu fun m => { m with direction := .forward }) (t.mu.p + 1)).onMu
          fun m => { m with h := m.p })) := by
        refine { h with motion := fun hs => ?_ }
        obtain ⟨h1, h2, h3, h4, h5⟩ := h.motion hs
        refine ⟨?_, le_refl _, ?_, h4, h5⟩
        · show -Config.positionLimit ≤ t.mu.p + 1
          omega
        · show t.mu.p + 1 ≤ Config.positionLimit
          omega
      unfold advance
      dsimp only
      refine advanceMarks_keeps ?_
      split
      · exact inspectAdvance_keeps key
      · exact key
    · next hph =>
      have hph : ¬ t.mu.h < t.mu.p + 1 := hph
      refine { h with motion := fun hs => ?_ }
      obtain ⟨h1, h2, h3, h4, h5⟩ := h.motion hs
      refine ⟨?_, ?_, h3, h4, h5⟩
      · show -Config.positionLimit ≤ t.mu.p + 1
        omega
      · show t.mu.p + 1 ≤ t.mu.h
        omega
  · exact onMu_keeps h _ id

theorem reverseStep_keeps (h : Keeps s t) : Keeps s (reverseStep t) := by
  unfold reverseStep
  dsimp only
  have key : ∀ u, Keeps s u → u.mu.p = t.mu.p → u.mu.h = t.mu.h → -Config.positionLimit < t.mu.p →
      Keeps s (movePosition u (t.mu.p - 1)) := fun u hu ep eh hlim => by
    refine { hu with motion := fun hs => ?_ }
    obtain ⟨h1, h2, h3, h4, h5⟩ := hu.motion hs
    refine ⟨?_, ?_, h3, h4, h5⟩
    · show -Config.positionLimit ≤ t.mu.p - 1
      omega
    · show t.mu.p - 1 ≤ u.mu.h
      omega
  have e : ∀ u, (cutPulses u).mu = u.mu := fun u => by
    unfold cutPulses cutOutput
    repeat' first | rfl | split
  have hc := cutPulses_keeps (onMu_keeps h (fun m => { m with direction := .reverse }) id)
  split
  · next hlim =>
    split
    · exact key _ hc (by rw [e]; rfl) (by rw [e]; rfl) hlim
    · exact key _ h rfl rfl hlim
  · split
    · exact hc
    · exact h

theorem encoderJump_keeps (h : Keeps s t) : Keeps s (encoderJump t) := by
  unfold encoderJump
  split
  · exact onMu_keeps h _ id
  · exact h

theorem decodeStep_keeps (h : Keeps s t) (a b : Fin 4) : Keeps s (decodeStep t a b) := by
  unfold decodeStep
  repeat' first
    | with_reducible exact h | exact forwardStep_keeps h | exact reverseStep_keeps h | exact encoderJump_keeps h
    | split

theorem decodeLevels_keeps (h : Keeps s t) (a b : Phase) : Keeps s (decodeLevels t a b) :=
  decodeStep_keeps (onMu_keeps h _ id) _ _

theorem rawChange_keeps (h : Keeps s t) (a b : Bool) (sensors : Sensors) : Keeps s (rawChange t a b sensors) :=
  decodeLevels_keeps (onPins_keeps (onPins_keeps h _) _) _ _

theorem holdExpiry_keeps (h : Keeps s t) (phases : Phases) (sensors : Sensors) :
    Keeps s (holdExpiry t phases sensors) := by
  have key : Keeps s (setSensors t sensors) := onPins_keeps h _
  unfold holdExpiry
  dsimp only
  split
  · cases phases <;> exact decodeLevels_keeps key _ _
  · exact key

/-- R168: a start position lies well within the bounds of P. -/
theorem startMotion_keeps (h : Keeps s t) (s0 : Int) (h1 : -Config.startLimit ≤ s0) (h2 : s0 ≤ Config.startLimit) :
    Keeps s (startMotion t s0) := by
  unfold startMotion
  have e : ∀ u : State, u.mu.p = s0 → MotionOk
      { u.mu with
        h := s0
        direction := .forward
        s0 := s0
        jumps := Tally.empty
        limitSent := false
        faces :=
          { upper := startMuFace (trackerPart t .upper).mode s0 t.pins.sensors.markUpper
            lower := startMuFace (trackerPart t .lower).mode s0 t.pins.sensors.markLower }
        spliceAccepted := t.pins.sensors.splice
        spliceBegun := none
        splices := [] } := fun u hp => by
    unfold Config.startLimit at h1 h2
    refine ⟨?_, hp.le, ?_, fun f => ?_, Nat.zero_le _⟩
    · show -Config.positionLimit ≤ u.mu.p
      unfold Config.positionLimit
      omega
    · show s0 ≤ Config.positionLimit
      unfold Config.positionLimit
      omega
    · cases f <;> exact Nat.zero_le _
  split
  · next hp => exact onMu_keeps h _ fun _ => e t hp
  · refine { h with motion := fun _ => e (movePosition t s0) rfl }

end Sys2Proof.Machine
end

