-- ==== Sys2Proof/Laws/KeepsDefects.lean ====
section
/-! SUPPORT. The operations of the Track Engine, the Pairing Unit and the Spot Merger keep the limits: the pairing list within its
size and in due order, the doubt logs within theirs. -/

namespace Sys2Proof.Machine

variable {s t : State}

theorem repeatMark_keeps (h : Keeps s t) (f : Face) (i : Fin 24) (x : Track) (stamp : Int) :
    Keeps s (repeatMark t f i x stamp) := by
  unfold repeatMark
  repeat' first | with_reducible exact h | exact setTrack_keeps (requestOnly_keeps h _ _ _) _ _ _ | split

theorem countOne_keeps (h : Keeps s t) (part : FacePart) (f : Face) (item : LineItem) (claims : List Claimed)
    (x : Fin 24 × Track) : Keeps s (countOne part f item claims t x) := by
  unfold countOne
  dsimp only
  split
  · exact repeatMark_keeps (setTrack_keeps h _ _ _) _ _ _ _
  · exact setTrack_keeps h _ _ _

theorem failTrack_keeps (h : Keeps s t) (f : Face) (i : Fin 24) (x : Track) (cut : Bool) :
    Keeps s (failTrack t f i x cut) :=
  onTeFace_keeps (setTrack_keeps (issueMarked_keeps h _ _ _) _ _ _) _ _

theorem openStreak_keeps (h : Keeps s t) (f : Face) (i : Fin 24) (x : Track) (stamp : Int) :
    Keeps s (openStreak t f i x stamp) := by
  unfold openStreak
  exact onTeFace_keeps (raise_keeps (setTrack_keeps (issueMarked_keeps (onTe_keeps h _) _ _ _) _ _ _) _) _ _

theorem confirmTrack_keeps (h : Keeps s t) (f : Face) (i : Fin 24) (x : Track) (stamp : Int) :
    Keeps s (confirmTrack t f i x stamp) := by
  unfold confirmTrack
  split
  · exact failTrack_keeps h _ _ _ _
  · exact openStreak_keeps h _ _ _ _

theorem closeTrack_keeps (h : Keeps s t) (f : Face) (i : Fin 24) (x : Track) (reason : CloseReason) (survivor : Nat) :
    Keeps s (closeTrack t f i x reason survivor) :=
  onTeFace_keeps (setTrack_keeps (issue_keeps h _) _ _ _) _ _

theorem changeOne_keeps (h : Keeps s t) (part : FacePart) (f : Face) (desc : LineDesc) (i : Fin 24) :
    Keeps s (changeOne part f desc t i) := by
  unfold changeOne
  dsimp only
  repeat' first
    | with_reducible exact h | with_reducible apply confirmTrack_keeps | with_reducible apply failTrack_keeps
    | with_reducible apply setTrack_keeps | with_reducible apply closeTrack_keeps | split

theorem settleSurvivor_keeps (h : Keeps s t) (f : Face) (i : Fin 24) (x : Track) (lane : Lane) (stamp : Int) :
    Keeps s (settleSurvivor t f i x lane stamp) := by
  unfold settleSurvivor
  repeat' first
    | with_reducible exact h | with_reducible apply confirmTrack_keeps | with_reducible apply setTrack_keeps | split

theorem freeYounger_keeps (h : Keeps s t) (f : Face) (older j : Fin 24) (younger : Track) :
    Keeps s (freeYounger t f older j younger) := by
  unfold freeYounger
  repeat' first
    | with_reducible exact h | with_reducible apply closeTrack_keeps | with_reducible apply setTrack_keeps | split

theorem mergeOne_keeps (h : Keeps s t) (part : FacePart) (f : Face) (stamp : Int) (i j : Fin 24) :
    Keeps s (mergeOne part f stamp i t j) := by
  unfold mergeOne
  dsimp only
  repeat' first
    | with_reducible exact h | with_reducible apply freeYounger_keeps | with_reducible apply settleSurvivor_keeps
    | split

theorem mergeAged_keeps (part : FacePart) (f : Face) (stamp : Int) (l : List (Fin 24)) (h : Keeps s t) :
    Keeps s (mergeAged part f stamp l t) := by
  induction l generalizing t with
  | nil => exact h
  | cons i rest ih => exact ih (foldl_keeps _ (fun _ _ hu => mergeOne_keeps hu _ _ _ _ _) _ h)

theorem mergeLane_keeps (h : Keeps s t) (part : FacePart) (f : Face) (stamp : Int) (lane : Nat) :
    Keeps s (mergeLane part f stamp t lane) :=
  mergeAged_keeps _ _ _ _ h

theorem trackLine_keeps (h : Keeps s t) (f : Face) (part : FacePart) (item : LineItem) :
    Keeps s (trackLine t f part item).1 :=
  foldl_keeps _ (fun _ _ hu => mergeLane_keeps hu _ _ _ _) _
    (foldl_keeps _ (fun _ _ hu => changeOne_keeps hu _ _ _ _) _
      (foldl_keeps _ (fun _ _ hu => countOne_keeps hu _ _ _ _ _) _ h))

theorem takeHandover_keeps (h : Keeps s t) (f : Face) (part : FacePart) (desc : LineDesc) (q : Request) :
    Keeps s (takeHandover t f part desc q).1 := by
  unfold takeHandover
  dsimp only
  split
  · exact onTeFace_keeps h _ _
  · refine mergeLane_keeps ?_ _ _ _ _
    split
    · exact confirmTrack_keeps (setTrack_keeps h _ _ _) _ _ _ _
    · exact setTrack_keeps h _ _ _

theorem cutOne_keeps (h : Keeps s t) (f : Face) (reason : CloseReason) (x : Fin 24 × Track) :
    Keeps s (cutOne f reason t x) := by
  unfold cutOne
  repeat' first | with_reducible apply failTrack_keeps | with_reducible apply closeTrack_keeps | exact h | split

theorem cutTracks_keeps (h : Keeps s t) (f : Face) (reason : CloseReason) : Keeps s (cutTracks t f reason) :=
  foldl_keeps _ (fun _ _ hu => cutOne_keeps hu _ _ _) _ h

theorem trackPatchEnd_keeps (h : Keeps s t) (f : Face) (part : FacePart) : Keeps s (trackPatchEnd t f part) := by
  unfold trackPatchEnd
  split
  · exact cutTracks_keeps h _ _
  · exact h

theorem trackPatchStart_keeps (h : Keeps s t) (f : Face) (item : PatchStart) :
    Keeps s (trackPatchStart t f item) := by
  unfold trackPatchStart
  dsimp only
  split
  · exact onTeFace_keeps (cutTracks_keeps h _ _) _ _
  · exact onTeFace_keeps h _ _

theorem startTracks_keeps (h : Keeps s t) (s0 : Int) : Keeps s (startTracks t s0) := onTe_keeps h _

/-! ## The Pairing Unit -/

/-- A part of the list is within its limits where the list is. -/
theorem pairingOk_sublist {p : PairingUnit} {list : List PairEntry} (hl : list.Sublist p.list) (hp : PairingOk p) :
    PairingOk { p with list := list } :=
  ⟨hl.length_le.trans hp.1, hp.2.1.sublist hl, hp.2.2⟩

/-- R107: an insertion while the list has room. -/
theorem pairingOk_insert {p : PairingUnit} (e : PairEntry) (hroom : p.list.length < Config.pairingListSize)
    (hp : PairingOk p) : PairingOk { p with list := insertDue e p.list } :=
  ⟨by simpa [insertDue, insertBy_length] using hroom, insertBy_sorted PairEntry.due (fun _ _ => rfl) e p.list hp.2.1, hp.2.2⟩

theorem issueSingle_keeps (h : Keeps s t) (result : PinholeResult) (c : Closure) :
    Keeps s (issueSingle result t c) :=
  onPu_keeps (issueMarked_keeps h _ _ _) _ id

theorem issueThrough_keeps (h : Keeps s t) (a b : Closure) : Keeps s (issueThrough t a b) := by
  unfold issueThrough
  exact raise_keeps (onPu_keeps (issueMarked_keeps h _ _ _) _ id) _

theorem discardLog_keeps (h : Keeps s t) (g : Face) : Keeps s (discardLog t g) :=
  onPuFace_keeps h _ _ fun _ hx => (List.length_filter_le _ _).trans hx

theorem discardLogs_keeps (h : Keeps s t) : Keeps s (discardLogs t) := discardLog_keeps (discardLog_keeps h _) _

theorem extendStretch_length (kind : DoubtKind) (previous stamp : Int) (l r : List Stretch)
    (e : extendStretch kind previous stamp l = some r) : r.length = l.length := by
  induction l generalizing r with
  | nil => cases e
  | cons x rest ih =>
    unfold extendStretch at e
    split at e
    · cases e
      rfl
    · cases e2 : extendStretch kind previous stamp rest with
      | none =>
        rw [e2] at e
        cases e
      | some r2 =>
        rw [e2] at e
        cases e
        simp [ih r2 e2]

/-- R110: a doubt never makes the log longer than its size. -/
theorem logDoubt_length (stamp : Int) (p : PuFace) (kind : DoubtKind) (h : p.log.length ≤ Config.doubtLogSize) :
    (logDoubt stamp p kind).log.length ≤ Config.doubtLogSize := by
  unfold logDoubt
  split
  · next log e =>
    cases hl : p.lastLine with
    | none =>
      rw [hl] at e
      cases e
    | some previous =>
      rw [hl] at e
      exact (extendStretch_length _ _ _ _ _ e).trans_le h
  · unfold openStretch
    split
    · next hroom => simpa using hroom
    · split
      · exact Nat.succ_le_of_lt (by decide)
      · next e =>
        rw [e] at h
        simpa using h

theorem foldl_logDoubt_length (stamp : Int) (kinds : List DoubtKind) (p : PuFace)
    (h : p.log.length ≤ Config.doubtLogSize) : (kinds.foldl (logDoubt stamp) p).log.length ≤ Config.doubtLogSize := by
  induction kinds generalizing p with
  | nil => exact h
  | cons k rest ih => exact ih _ (logDoubt_length _ _ _ h)

theorem resolveEntry_keeps (h : Keeps s t) (g : Face) (e : PairEntry) : Keeps s (resolveEntry g t e) :=
  issueSingle_keeps h _ _

theorem resolvePassed_keeps (h : Keeps s t) (g : Face) : Keeps s (resolvePassed t g) := by
  unfold resolvePassed
  dsimp only
  exact foldl_keeps _ (fun _ _ hu => resolveEntry_keeps hu _ _) _
    (onPu_keeps h _ (pairingOk_sublist List.filter_sublist))

theorem removeFirst_sublist (test : PairEntry → Bool) (l : List PairEntry) (r : PairEntry × List PairEntry)
    (e : removeFirst test l = some r) : r.2.Sublist l := by
  induction l generalizing r with
  | nil => cases e
  | cons x rest ih =>
    unfold removeFirst at e
    split at e
    · cases e
      exact List.sublist_cons_self _ _
    · cases e2 : removeFirst test rest with
      | none =>
        rw [e2] at e
        cases e
      | some r2 =>
        rw [e2] at e
        cases e
        exact (ih r2 e2).cons_cons x

theorem issueSingle_list (result : PinholeResult) (s : State) (c : Closure) :
    (issueSingle result s c).pu.list = s.pu.list := by
  have e := (issueMarked_reporting s (.pinhole result c none) .pinholeOther c.first).2.2.2.2.1.2.2
  show (issueMarked s (.pinhole result c none) .pinholeOther c.first).1.pu.list = _
  rw [e]

/-- R107, R108: a full list gives up its head before an entry goes in. -/
theorem insertClosure_keeps (h : Keeps s t) (e : PairEntry) : Keeps s (insertClosure t e) := by
  unfold insertClosure
  split
  · next hroom => exact onPu_keeps h _ (pairingOk_insert e hroom)
  · split
    · exact onPu_keeps h _ fun hp => ⟨Nat.succ_le_of_lt (by decide), List.pairwise_singleton _ _, hp.2.2⟩
    · next head rest el =>
      refine discardLogs_keeps ?_
      have hs : ({ t.pu with list := rest } : PairingUnit).list.Sublist t.pu.list := by
        rw [el]
        exact List.sublist_cons_self _ _
      have key := issueSingle_keeps (onPu_keeps h (fun p => { p with list := rest }) (pairingOk_sublist hs)) .evicted
        head.closure
      refine { key with pairing := fun hp => ?_ }
      have hroom : rest.length < Config.pairingListSize := by
        have := (h.pairing hp).1
        rw [el] at this
        simpa using this
      refine pairingOk_insert e ?_ (key.pairing hp)
      rw [issueSingle_list]
      exact hroom

theorem placeClosure_keeps (h : Keeps s t) (c : Closure) : Keeps s (placeClosure t c) := by
  unfold placeClosure
  dsimp only
  split
  · exact issueSingle_keeps h _ _
  · split
    · exact resolveEntry_keeps h _ _
    · exact insertClosure_keeps h _

theorem takeClosure_keeps (h : Keeps s t) (closure : Closure) : Keeps s (takeClosure t closure) := by
  unfold takeClosure
  dsimp only
  split
  · split
    · next e rest er =>
      exact discardLogs_keeps (issueThrough_keeps (onPu_keeps h _ (pairingOk_sublist (removeFirst_sublist _ _ _ er)))
        _ _)
    · exact placeClosure_keeps h _
  · exact issueSingle_keeps h _ _

theorem settleProgress_keeps (h : Keeps s t) (f : Face) : Keeps s (settleProgress t f) :=
  discardLogs_keeps (resolvePassed_keeps h f)

theorem lineProgress_keeps (h : Keeps s t) (f : Face) (item : LineItem) (horizon : Option Int) :
    Keeps s (lineProgress t f item horizon) := by
  unfold lineProgress
  dsimp only
  refine settleProgress_keeps (onPuFace_keeps h _ _ ?_) _
  intro x hx
  exact foldl_logDoubt_length item.desc.stamp _ x hx

theorem eventProgress_keeps (h : Keeps s t) (f : Face) : Keeps s (eventProgress t f) :=
  settleProgress_keeps (onPuFace_keeps h _ _ (by exact fun _ hx => hx)) _

theorem finishPairing_keeps (h : Keeps s t) (g : Face) : Keeps s (finishPairing t g) := by
  unfold finishPairing
  dsimp only
  exact discardLogs_keeps (foldl_keeps _ (fun _ _ hu => issueSingle_keeps hu _ _) _
    (onPu_keeps (onPuFace_keeps h _ _ (by exact fun _ hx => hx)) _ (pairingOk_sublist List.filter_sublist)))

theorem unresolvedPairing_keeps (h : Keeps s t) : Keeps s (unresolvedPairing t) := by
  unfold unresolvedPairing
  dsimp only
  refine foldl_keeps _ (fun _ _ hu => issueSingle_keeps hu _ _) _ (onPu_keeps h _ fun _ => ?_)
  refine ⟨Nat.zero_le _, List.Pairwise.nil, fun f => ?_⟩
  cases f <;> exact Nat.zero_le _

theorem startPairing_keeps (h : Keeps s t) (s0 : Int) : Keeps s (startPairing t s0) := by
  unfold startPairing
  dsimp only
  refine onPu_keeps h _ fun _ => ⟨Nat.zero_le _, List.Pairwise.nil, fun f => ?_⟩
  cases f <;> exact Nat.zero_le _

/-! ## The Spot Merger -/

theorem closeSpot_keeps (part : FacePart) (f : Face) (c : Closing) (x : Fin 64 × Spot)
    (h : Keeps s c.state) : Keeps s (closeSpot part f c x).state := by
  unfold closeSpot
  dsimp only
  split
  · exact setSpot_keeps (onSmFace_keeps h _ _) _ _ _
  · exact setSpot_keeps (onSmFace_keeps h _ _) _ _ _
  · exact setSpot_keeps (onSmFace_keeps (issueMarked_keeps h _ _ _) _ _) _ _ _
  · exact setSpot_keeps (onSmFace_keeps (issueMarked_keeps h _ _ _) _ _) _ _ _

theorem foldl_closeSpot_keeps (part : FacePart) (f : Face) (l : List (Fin 64 × Spot)) (c : Closing)
    (h : Keeps s c.state) : Keeps s (l.foldl (closeSpot part f) c).state := by
  induction l generalizing c with
  | nil => exact h
  | cons x rest ih => exact ih _ (closeSpot_keeps _ _ _ _ h)

theorem closeSpots_keeps (h : Keeps s t) (f : Face) (part : FacePart) (spots : List (Fin 64 × Spot)) :
    Keeps s (closeSpots t f part spots).state :=
  foldl_closeSpot_keeps _ _ _ _ h

theorem quietStep_keeps (h : Keeps s t) (f : Face) (part : FacePart) (item : LineItem) :
    Keeps s (quietStep t f part item).state := by
  unfold quietStep
  dsimp only
  split
  · exact h
  · exact closeSpots_keeps (onSmFace_keeps h _ _) _ _ _

theorem offerSpot_keeps (h : Keeps s t) (part : FacePart) (f : Face) (desc : LineDesc) (x : Fin 64 × Spot) :
    Keeps s (offerSpot part f desc t x) := by
  have key := takeHandover_keeps h f part desc (requestFor x.2)
  unfold offerSpot
  split
  · next e =>
    rw [e] at key
    exact setSpot_keeps key _ _ _
  · next e =>
    rw [e] at key
    exact setSpot_keeps key _ _ _

theorem handoverStep_keeps (h : Keeps s t) (f : Face) (part : FacePart) (desc : LineDesc) :
    Keeps s (handoverStep t f part desc) :=
  foldl_keeps _ (fun _ _ hu => offerSpot_keeps hu _ _ _ _) _ h

theorem deliver_keeps (c : Closing) (h : Keeps s c.state) : Keeps s (deliver c) :=
  foldl_keeps _ (fun _ _ hu => takeClosure_keeps hu _) _ h

/-! ## Items -/

theorem processLine_keeps (h : Keeps s t) (f : Face) (part : FacePart) (item : LineItem) :
    Keeps s (processLine t f part item) := by
  have key := trackLine_keeps h f part item
  unfold processLine
  rcases e : trackLine t f part item with ⟨s1, unclaimed⟩
  rw [e] at key
  exact lineProgress_keeps (deliver_keeps _ (handoverStep_keeps (quietStep_keeps (onSmFace_keeps (onTeFace_keeps key _ _)
    _ _) _ _ _) _ _ _)) _ _ _

theorem cutAndDeliver_keeps (h : Keeps s t) (f : Face) : Keeps s (cutAndDeliver t f) :=
  deliver_keeps _ (closeSpots_keeps (onSmFace_keeps h _ _) _ _ _)

theorem processSplice_keeps (h : Keeps s t) (f : Face) : Keeps s (processSplice t f) :=
  eventProgress_keeps (cutAndDeliver_keeps (cutTracks_keeps h _ _) _) _

theorem processPatchStart_keeps (h : Keeps s t) (f : Face) (item : PatchStart) :
    Keeps s (processPatchStart t f item) := by
  have key := eventProgress_keeps (cutAndDeliver_keeps (trackPatchStart_keeps h f item) f) f
  unfold processPatchStart
  cases f
  · exact autoResume_keeps key
  · exact key

theorem clearPatchCounts_keeps (h : Keeps s t) (f : Face) : Keeps s (clearPatchCounts t f) :=
  onTeFace_keeps (onSmFace_keeps h _ _) _ _

theorem reportJumps_keeps (h : Keeps s t) : Keeps s (reportJumps t) := issueTally_keeps (onMu_keeps h _ id) _ _ _

theorem reportOverflow_keeps (h : Keeps s t) (f : Face) : Keeps s (reportOverflow t f) :=
  issueTally_keeps (onMuFace_keeps h _ _ (by exact fun _ hx => hx)) _ _ _

theorem reportSpotFull_keeps (h : Keeps s t) (f : Face) : Keeps s (reportSpotFull t f) :=
  issueTally_keeps (onSmFace_keeps h _ _) _ _ _

theorem reportTrackFull_keeps (h : Keeps s t) (f : Face) : Keeps s (reportTrackFull t f) :=
  issueTally_keeps (onTeFace_keeps h _ _) _ _ _

theorem reportMotion_keeps (h : Keeps s t) (f : Face) : Keeps s (reportMotion t f) := by
  cases f
  · exact reportOverflow_keeps (reportJumps_keeps h) _
  · exact reportOverflow_keeps h _

theorem reportPatch_keeps (h : Keeps s t) (f : Face) (item : PatchEnd) (runFull : Tally) :
    Keeps s (reportPatch t f item runFull) := by
  unfold reportPatch
  exact reportTrackFull_keeps (reportSpotFull_keeps (issueTally_keeps (reportMotion_keeps (onMuFace_keeps
    (clearPatchCounts_keeps (issue_keeps h _) _) _ _ (by exact fun _ hx => hx)) _) _ _ _) _) _

theorem processPatchEnd_keeps (h : Keeps s t) (f : Face) (item : PatchEnd) (runFull : Tally) (part : FacePart) :
    Keeps s (processPatchEnd t f item runFull part) := by
  have key := reportPatch_keeps (eventProgress_keeps (cutAndDeliver_keeps (trackPatchEnd_keeps h f part) f) f) f item
    runFull
  unfold processPatchEnd
  dsimp only
  split
  · exact startSample_keeps key
  · exact key

theorem startSpots_keeps (h : Keeps s t) : Keeps s (startSpots t) := onSm_keeps h _

end Sys2Proof.Machine
end

