-- ==== Sys2Proof/Laws/KeepsControl.lean ====
section
/-! SUPPORT. The operations of the Recipe Store and of the Control Unit keep the limits, and so does what every step ends with. -/

namespace Sys2Proof.Machine

variable {s t : State}

theorem activateRecipe_keeps (h : Keeps s t) (slot : BitVec 2) (bytes : List Byte) :
    Keeps s (activateRecipe t slot bytes) := by
  unfold activateRecipe
  dsimp only
  exact cutPulses_keeps (onMu_keeps (onRxFace_keeps (onRxFace_keeps (activateHeads_keeps (onRs_keeps h _)) _ _) _ _) _
    (by exact id))

theorem settleRecipe_keeps (h : Keeps s t) (slot : BitVec 2) (bytes : List Byte) :
    Keeps s (settleRecipe t slot bytes).1 := by
  unfold settleRecipe
  split
  · exact activateRecipe_keeps h _ _
  all_goals
    repeat' first | exact h | exact onRsFace_keeps (onRsFace_keeps h _ _) _ _ | split

theorem judgeRecipe_keeps (h : Keeps s t) (slot : BitVec 2) (bytes : List Byte) :
    Keeps s (judgeRecipe t slot bytes).1 := by
  unfold judgeRecipe
  split
  · exact h
  · exact settleRecipe_keeps h _ _

/-! ## Entry to CLOSING -/

theorem discardBegun_keeps (h : Keeps s t) : Keeps s (discardBegun t) :=
  onMu_keeps (onMuFace_keeps (onMuFace_keeps h _ _ (by exact fun _ hx => hx)) _ _ (by exact fun _ hx => hx)) _
    (by exact id)

theorem enterClosing_keeps (h : Keeps s t) (reason : EndReason) : Keeps s (enterClosing t reason) := by
  unfold enterClosing
  split
  · exact wantStatus_keeps (onRs_keeps (assembleAll_keeps (assembleAll_keeps (discardBegun_keeps (closeSkip_keeps
      (closeSkip_keeps (onCu_keeps h _) _) _)) _) _) _) _
  · exact h

theorem stopIfFinished_keeps (h : Keeps s t) : Keeps s (stopIfFinished t) := by
  unfold stopIfFinished
  split
  · exact enterClosing_keeps h _
  · exact h

theorem finishNotice_keeps (h : Keeps s t) (f : Face) : Keeps s (finishNotice t f) :=
  stopIfFinished_keeps (finishPairing_keeps h f)

theorem endCloseout_keeps (h : Keeps s t) : Keeps s (endCloseout t) := by
  unfold endCloseout
  dsimp only
  split
  · exact wantStatus_keeps (onCu_keeps h _) _
  · exact wantStatus_keeps (onXu_keeps (onCu_keeps h _) _ rfl (by exact id)) _

theorem closeoutCheck_keeps (h : Keeps s t) : Keeps s (closeoutCheck t) := by
  unfold closeoutCheck
  split
  · split
    · exact onCu_keeps (beginPost_keeps h _) _
    · exact endCloseout_keeps h
  · exact h

theorem actAbandon_keeps (h : Keeps s t) : Keeps s (actAbandon t) := by
  have key : Keeps s (t.onRu fun r => { r with queue := [], abandoned := true }) :=
    onRu_keeps h _ fun hr => holdingOk_nil rfl hr.2.2.2
  have k2 := closeoutCheck_keeps (loseRecords_keeps key t.ru.queue)
  unfold actAbandon
  dsimp only
  with_reducible exact k2

theorem issueRollEnd_keeps (h : Keeps s t) : Keeps s (issueRollEnd t) := by
  unfold issueRollEnd
  exact onRu_keeps (issue_keeps h _) _ (by exact id)

theorem closeoutSteps_keeps (h : Keeps s t) : Keeps s (closeoutSteps t) := by
  have h1 : Keeps s (closeAllSpots t) := cutAndDeliver_keeps (cutAndDeliver_keeps h _) _
  have h2 : Keeps s (closeAllTracks (closeAllSpots t)) :=
    clearPatchCounts_keeps (clearPatchCounts_keeps (cutTracks_keeps (cutTracks_keeps h1 _ _) _ _) _) _
  have h3 := unresolvedPairing_keeps h2
  have h4 : Keeps s (missAllMarks (unresolvedPairing (closeAllTracks (closeAllSpots t)))) :=
    foldl_keeps _ (fun _ _ hu => issueMissed_keeps hu _ _) _ (onKu_keeps h3 _ fun _ => marksOk_nil _ rfl)
  have tallies : ∀ u f, Keeps s u → Keeps s (reportTallies u f) := fun u f hu =>
    reportTrackFull_keeps (reportSpotFull_keeps (issueTally_keeps (onRxFace_keeps (reportOverflow_keeps hu _) _ _) _ _ _)
      _) _
  have h5 : Keeps s (reportAllTallies (missAllMarks (unresolvedPairing (closeAllTracks (closeAllSpots t))))) :=
    tallies _ _ (tallies _ _ (reportJumps_keeps h4))
  exact issueRollEnd_keeps h5

theorem beginCloseout_keeps (h : Keeps s t) : Keeps s (beginCloseout t) := by
  have key := onCu_keeps (closeoutSteps_keeps h) fun c => { c with phase := .drain }
  unfold beginCloseout
  dsimp only
  split
  · split
    · exact actAbandon_keeps key
    · exact closeoutCheck_keeps key
  · exact h

/-! ## Batches and orders -/

theorem finishBatch_keeps (h : Keeps s t) (generation : Word) (results : Vector OrderResult 16) :
    Keeps s (finishBatch t generation results) :=
  wantStatus_keeps (onXu_keeps (onCu_keeps h _) _ rfl (by exact id)) _

theorem handBatch_keeps (h : Keeps s t) (generation count : Word) (entries : OrderListBytes) :
    Keeps s (handBatch t generation count entries) := by
  unfold handBatch
  split
  · exact onCu_keeps h _
  · exact finishBatch_keeps h _ _

theorem endOrder_keeps (h : Keeps s t) (result : OrderResult) : Keeps s (endOrder t result) := by
  unfold endOrder
  split
  · exact h
  · dsimp only
    split
    · exact onCu_keeps h _
    · exact finishBatch_keeps h _ _

theorem executeOrder_keeps (h : Keeps s t) (order : Instr) (effect : State → State × OrderResult)
    (he : Keeps s (effect t).1) : Keeps s (executeOrder t order effect) := by
  unfold executeOrder
  split
  · exact endOrder_keeps he _
  · exact h

theorem startRecords_keeps (h : Keeps s t) : Keeps s (startRecords t) :=
  onRu_keeps h _ fun _ => holdingOk_nil rfl runsOk_nil
theorem startExtract_keeps (h : Keeps s t) : Keeps s (startExtract t) := onRx_keeps h _

theorem startRoll_keeps (h : Keeps s t) (rollId : Word) (s0 : Int) (h1 : -Config.startLimit ≤ s0)
    (h2 : s0 ≤ Config.startLimit) : Keeps s (startRoll t rollId s0) := by
  have key : Keeps s (startBlocks t s0) :=
    startRecords_keeps (startMarks_keeps (startPairing_keeps (startTracks_keeps (startSpots_keeps (startExtract_keeps
      (startLinks_keeps (startMotion_keeps h s0 h1 h2)))) _) _))
  have pages : ∀ x : ExchangeUnit, PagesOk { x with filling := none, posting := none } := fun x => by
    refine ⟨fun p e => ?_, fun p e => ?_⟩
    · cases e
    · cases e
  have key2 := onXu_keeps (onCu_keeps key fun c =>
    { c with state := .running, rollId := rollId, endReason := none, abandon := false, phase := .notClosing })
    (fun x => { x with filling := none, posting := none }) rfl fun _ => pages _
  refine wantStatus_keeps (t := issueRollStart _ _ _) ?_ _
  unfold issueRollStart
  split
  · exact key2
  · exact issue_keeps key2 _

theorem orderStart_keeps (h : Keeps s t) (rollId : Word) (s0 : Int) : Keeps s (orderStart t rollId s0).1 := by
  unfold orderStart
  split
  · exact h
  · split
    · exact h
    · split
      · exact h
      · next hb =>
        rw [not_or, not_lt, not_lt] at hb
        exact startRoll_keeps h _ _ hb.1 hb.2

theorem requestFinish_keeps (h : Keeps s t) (f : Face) : Keeps s (requestFinish t f) := by
  have key := onMuFace_keeps h f (fun m => { m with finishRequest := true }) fun _ hx => hx
  unfold requestFinish
  dsimp only
  split
  · exact finishPairing_keeps (finishFace_keeps key _) _
  · exact key

theorem orderStop_keeps (h : Keeps s t) : Keeps s (orderStop t).1 := by
  unfold orderStop
  split
  · exact stopIfFinished_keeps (requestFinish_keeps (requestFinish_keeps (wantStatus_keeps (onCu_keeps h _) _) _) _)
  all_goals exact h

theorem haltClosing_keeps (h : Keeps s t) : Keeps s (haltClosing t) := by
  have key := onCu_keeps h fun c => { c with abandon := true }
  unfold haltClosing
  dsimp only
  split
  · exact h
  · split
    · exact actAbandon_keeps key
    · exact actAbandon_keeps key
    all_goals exact key

theorem orderHalt_keeps (h : Keeps s t) : Keeps s (orderHalt t).1 := by
  unfold orderHalt
  split
  · exact enterClosing_keeps h _
  · exact enterClosing_keeps h _
  · exact haltClosing_keeps h
  all_goals exact h

theorem orderFlush_keeps (h : Keeps s t) : Keeps s (orderFlush t).1 := by
  unfold orderFlush
  split
  · exact beginPost_keeps h _
  · split <;> exact h

theorem orderNote_keeps (h : Keeps s t) (value : BitVec 64) : Keeps s (orderNote t value).1 := by
  unfold orderNote
  split
  · dsimp only
    exact issue_keeps h _
  · exact h

theorem orderMarkon_keeps (h : Keeps s t) : Keeps s (orderMarkon t).1 := by
  unfold orderMarkon
  split
  · exact h
  · split
    · exact clearBreak_keeps h
    · exact h

theorem orderClear_keeps (h : Keeps s t) : Keeps s (orderClear t).1 := by
  unfold orderClear
  dsimp only
  refine onLu_keeps (onCu_keeps h _) _ fun hl p => ?_
  simpa using hl p

theorem orderLevels_keeps (h : Keeps s t) (levels : Vector Byte 8) : Keeps s (orderLevels t levels).1 := by
  unfold orderLevels
  split
  · dsimp only
    exact onXu_keeps h _ rfl (by exact id)
  · exact h

theorem orderHeadreset_keeps (h : Keeps s t) (head : Word) : Keeps s (orderHeadreset t head).1 := by
  unfold orderHeadreset
  split
  · split
    · exact resetHead_keeps h _
    · exact h
  · exact h

/-! ## The end of every step -/

theorem takeLimit_keeps (h : Keeps s t) : Keeps s (takeLimit t) := by
  unfold takeLimit
  split
  · exact onCu_keeps (enterClosing_keeps h _) _
  · exact h

theorem markChanged_keeps (h : Keeps s t) (before : State) : Keeps s (markChanged before t) := by
  unfold markChanged
  split
  · exact h
  · exact onXu_keeps h _ rfl (by exact id)

theorem settle_keeps (h : Keeps s t) (before : State) : Keeps s (settle before t) :=
  markChanged_keeps (takeLimit_keeps h) _

theorem comeUp_keeps (h : Keeps s t) : Keeps s (comeUp t) := by
  have key : Keeps s (retrainAll t) :=
    foldl_keeps _ (fun u p hu => by
      split
      · exact sendRetrain_keeps hu _
      · exact hu) _ h
  unfold comeUp
  dsimp only
  refine markChanged_keeps ?_ _
  split
  · exact breakActivated_keeps key
  · exact key

end Sys2Proof.Machine
end

