-- ==== Sys2Proof/Laws/KeepsStep.lean ====
section
/-! SUPPORT. Every command, and every reference cycle, keeps the limits of Safety.lean. -/

namespace Sys2Proof.Machine

variable {s t : State}

/-! ## The bus and the ms ticks -/

theorem drainQueue_keeps (h : Keeps s t) : Keeps s (drainQueue t) := by
  unfold drainQueue
  split
  · next page rec rest ef eq =>
    refine closeoutCheck_keeps ?_
    unfold drainInto
    split
    · next hroom => exact postWhenFull_keeps (testLoss_keeps (writeRecord_keeps h page rec rest ef eq hroom))
    · exact beginPost_keeps h _
  all_goals exact h

theorem takeFromStock_keeps (h : Keeps s t) (hp : t.xu.posting = none) : Keeps s (takeFromStock t) := by
  have key := skipInvalid_keeps (Config.listEntries + 1) h
  unfold takeFromStock
  dsimp only
  split
  · exact stockEmpty_keeps key
  · exact takePage_keeps key ((skipInvalid_posting _ _).trans hp)

theorem postDone_keeps (h : Keeps s t) (p : Posting) : Keeps s (postDone t p) := by
  unfold postDone
  refine wantStatus_keeps (onXu_keeps h _ rfl fun hx => ⟨fun q e => ?_, fun q e => ?_⟩) _
  · exact hx.1 q e
  · cases e

theorem afterPost_keeps (h : Keeps s t) (written : Bool) : Keeps s (afterPost t written) := by
  unfold afterPost
  split
  · split
    · exact endCloseout_keeps h
    · exact closeoutCheck_keeps (onCu_keeps h _)
  · exact closeoutCheck_keeps h

theorem completePost_keeps (h : Keeps s t) : Keeps s (completePost t) := by
  unfold completePost
  split
  · exact h
  · exact afterPost_keeps (postDone_keeps h _) _

theorem failPost_keeps (h : Keeps s t) (p : Posting) : Keeps s (failPost t p) := by
  have key : Keeps s (t.onXu fun x => { x with posting := none }) :=
    onXu_keeps h _ rfl fun hx => ⟨fun q e => hx.1 q e, fun q e => by cases e⟩
  unfold failPost
  exact afterPost_keeps (wantStatus_keeps (abandonPage_keeps key _) _) _

theorem failFilling_keeps (h : Keeps s t) (page : Page) : Keeps s (failFilling t page) := by
  have key : Keeps s (t.onXu fun x => { x with filling := none }) := by
    refine onXu_keeps h _ rfl fun hx => ⟨fun q e => ?_, fun q e => ⟨(hx.2 q e).1, rfl⟩⟩
    cases e
  unfold failFilling
  exact closeoutCheck_keeps (abandonPage_keeps key _)

theorem failPage_keeps (h : Keeps s t) : Keeps s (failPage t) := by
  unfold failPage
  split
  · exact failPost_keeps h _
  · split
    · exact h
    · exact failFilling_keeps h _
  · exact h

theorem startCopy_keeps (h : Keeps s t) (generation count : Word) : Keeps s (startCopy t generation count) :=
  emit_keeps (onXu_keeps h _ rfl (by exact id)) _

theorem startReread_keeps (h : Keeps s t) (written : Word) : Keeps s (startReread t written) :=
  emit_keeps (onXu_keeps h _ rfl (by exact id)) _

theorem completeSample_keeps (h : Keeps s t) (generation count written : Word) :
    Keeps s (completeSample t generation count written) := by
  unfold completeSample
  dsimp only
  split
  · refine endSample_keeps ?_
    repeat' first
      | with_reducible exact h | with_reducible apply startReread_keeps | with_reducible apply startCopy_keeps | split
  · exact h

theorem completeCopy_keeps (h : Keeps s t) (entries : OrderListBytes) : Keeps s (completeCopy t entries) := by
  have key : Keeps s (t.onXu fun x => { x with copy := none }) := onXu_keeps h _ rfl (by exact id)
  unfold completeCopy
  split
  · exact h
  · dsimp only
    split
    · exact key
    · exact handBatch_keeps key _ _ _

theorem completeReread_keeps (h : Keeps s t) (bytes : StockBytes) : Keeps s (completeReread t bytes) := by
  unfold completeReread
  split
  · exact h
  · next r _ =>
    have key : Keeps s (t.onXu fun x =>
        { x with reread := none, seenWritten := r.written, descriptors := newDescriptors x bytes }) :=
      onXu_keeps h _ rfl (by exact id)
    dsimp only
    split
    · exact onXu_keeps key _ rfl (by exact id)
    · split
      · exact key
      · exact captureFault_keeps (onXu_keeps key _ rfl (by exact id)) _

theorem failLoad_keeps (h : Keeps s t) : Keeps s (failLoad t) :=
  endOrder_keeps (captureFault_keeps (onRs_keeps h _) _) _

theorem failRead_keeps (h : Keeps s t) (read : ReadKind) : Keeps s (failRead t read) := by
  unfold failRead
  split
  · exact endSample_keeps (captureFault_keeps h _)
  · exact captureFault_keeps (onXu_keeps h _ rfl (by exact id)) _
  · exact captureFault_keeps (onXu_keeps h _ rfl (by exact id)) _
  · exact failLoad_keeps h
  · split
    · exact h
    · exact failPost_keeps h _
  · exact failStatus_keeps h

theorem pollTick_keeps (h : Keeps s t) : Keeps s (pollTick t) := by
  have key : Keeps s (startSample (t.onXu fun x => { x with pollCount := 0, pollDue := false })) :=
    startSample_keeps (onXu_keeps h _ rfl (by exact id))
  unfold pollTick
  dsimp only
  split
  · split
    · exact wantStatus_keeps key _
    · exact key
  · exact h

theorem stallEvent_keeps (h : Keeps s t) : Keeps s (stallEvent t) := by
  unfold stallEvent
  split
  · exact beginPost_keeps (onMu_keeps h _ (by exact id)) _
  · exact h

theorem enterIdle_keeps (h : Keeps s t) : Keeps s (enterIdle t) := by
  unfold enterIdle
  split
  · exact wantStatus_keeps (startSample_keeps (onCu_keeps h _)) _
  · exact h

/-! ## Items -/

theorem popHanded_keeps (h : Keeps s t) (f : Face) : Keeps s (popHanded t f) := onRxFace_keeps h _ _

theorem takeItem_keeps (h : Keeps s t) (f : Face) : Keeps s (takeItem t f) := by
  unfold takeItem
  split
  · exact h
  · exact onRxFace_keeps (onLuFace_keeps h _ _) _ _

theorem takeLineItem_keeps (h : Keeps s t) (f : Face) : Keeps s (takeLineItem t f) := by
  unfold takeLineItem
  repeat' first | with_reducible exact h | exact processLine_keeps (popHanded_keeps h _) _ _ _ | split

theorem takePatchEndItem_keeps (h : Keeps s t) (f : Face) : Keeps s (takePatchEndItem t f) := by
  unfold takePatchEndItem
  split
  · exact h
  · split
    · next item runFull _ =>
      have key := fun part => processPatchEnd_keeps (popHanded_keeps h f) f item runFull part
      dsimp only
      split
      · exact finishNotice_keeps (key _) _
      · exact key _
    all_goals exact h

theorem takePatchStartItem_keeps (h : Keeps s t) (f : Face) : Keeps s (takePatchStartItem t f) := by
  unfold takePatchStartItem
  repeat' first | with_reducible exact h | exact processPatchStart_keeps (popHanded_keeps h _) _ _ | split

theorem takeSpliceItem_keeps (h : Keeps s t) (f : Face) : Keeps s (takeSpliceItem t f) := by
  unfold takeSpliceItem
  repeat' first | with_reducible exact h | exact processSplice_keeps (popHanded_keeps h _) _ | split

/-! ## Commands -/

/-- The bytes, levels and counts a meaning may change without touching a limit. -/
theorem onXu_settle_keeps (s : State) (g : ExchangeUnit → ExchangeUnit) (hm : (g s.xu).message = s.xu.message)
    (hg : PagesOk s.xu → PagesOk (g s.xu)) : Keeps s (settle s (s.onXu g)) :=
  settle_keeps (onXu_keeps (Keeps.refl s) g hm hg) s

/-- What every command but power-on and part reset does with the limits. -/
theorem exec_keeps (c : Instr) (hp : ∀ x, c ≠ .powerOn x) (hr : c ≠ .partReset) :
    ∃ t, exec c s = .next t ∧ Keeps s t := by
  have r := Keeps.refl s
  cases c with
  | powerOn x => exact absurd rfl (hp x)
  | partReset => exact absurd rfl hr
  | xbaseWrite half value =>
    refine ⟨_, rfl, settle_keeps ?_ s⟩
    split
    · exact enterIdle_keeps (onXu_keeps r _ rfl (by exact id))
    · exact r
  | enableSet => exact ⟨_, rfl, settle_keeps (enterIdle_keeps (onXu_keeps r _ rfl (by exact id))) s⟩
  | enableClear =>
    have key : Keeps s (s.onXu fun x => { x with enable := false }) := onXu_keeps r _ rfl (by exact id)
    refine ⟨_, rfl, settle_keeps ?_ s⟩
    split
    · exact wantStatus_keeps (onXu_keeps (onCu_keeps key _) _ rfl (by exact id)) _
    · exact enterClosing_keeps key _
    · exact enterClosing_keeps key _
    all_goals exact key
  | pollIntervalWrite value =>
    refine ⟨_, rfl, settle_keeps ?_ s⟩
    split
    · exact r
    · exact onXu_keeps r _ rfl (by exact id)
  | attnWrite value => exact ⟨_, rfl, settle_keeps (clearFlags_keeps r _) s⟩
  | registerWriteIgnored offset value => exact ⟨_, rfl, settle_keeps r s⟩
  | encoderRawChange a b sensors => exact ⟨_, rfl, settle_keeps (rawChange_keeps r _ _ _) s⟩
  | encoderHoldExpiry phases sensors => exact ⟨_, rfl, settle_keeps (holdExpiry_keeps r _ _) s⟩
  | breakInputActive =>
    refine ⟨_, rfl, settle_keeps ?_ s⟩
    split
    · exact r
    · exact breakActivated_keeps (onPins_keeps r _)
  | breakInputInactive => exact ⟨_, rfl, settle_keeps (onPins_keeps r _) s⟩
  | helloReceived port packet => exact ⟨_, rfl, settle_keeps (receiveHello_keeps r _ _) s⟩
  | linePacketReceived port packet => exact ⟨_, rfl, settle_keeps (receiveLine_keeps r _ _) s⟩
  | lineDeadlineExpiry face => exact ⟨_, rfl, settle_keeps (assembleOverdue_keeps _ r _) s⟩
  | rxTakeItem face => exact ⟨_, rfl, settle_keeps (takeItem_keeps r _) s⟩
  | teLineItem face => exact ⟨_, rfl, settle_keeps (takeLineItem_keeps r _) s⟩
  | tePatchEndItem face => exact ⟨_, rfl, settle_keeps (takePatchEndItem_keeps r _) s⟩
  | tePatchStartItem face => exact ⟨_, rfl, settle_keeps (takePatchStartItem_keeps r _) s⟩
  | teSpliceClosureItem face => exact ⟨_, rfl, settle_keeps (takeSpliceItem_keeps r _) s⟩
  | holdingQueueDrain => exact ⟨_, rfl, settle_keeps (drainQueue_keeps r) s⟩
  | pageTake =>
    refine ⟨_, rfl, settle_keeps ?_ s⟩
    split
    · next hw =>
      unfold pageWanted at hw
      simp only [Bool.and_eq_true, Option.isNone_iff_eq_none] at hw
      exact takeFromStock_keeps r hw.2
    · exact r
  | postComplete => exact ⟨_, rfl, settle_keeps (completePost_keeps r) s⟩
  | pageWriteFailure => exact ⟨_, rfl, settle_keeps (failPage_keeps r) s⟩
  | statusWriteComplete => exact ⟨_, rfl, settle_keeps (endStatus_keeps r) s⟩
  | statusWriteFailure => exact ⟨_, rfl, settle_keeps (failStatus_keeps r) s⟩
  | pollTick => exact ⟨_, rfl, settle_keeps (pollTick_keeps r) s⟩
  | pageAgeExpiry =>
    refine ⟨_, rfl, settle_keeps ?_ s⟩
    unfold agePost
    split
    · exact beginPost_keeps r _
    · exact r
  | stallExpiry => exact ⟨_, rfl, settle_keeps (stallEvent_keeps r) s⟩
  | readTimeout read =>
    refine ⟨_, rfl, settle_keeps ?_ s⟩
    repeat' first | with_reducible exact r | exact failRead_keeps r _ | split
  | readErrorCompletion read =>
    refine ⟨_, rfl, settle_keeps ?_ s⟩
    split
    · exact failRead_keeps r _
    · exact r
  | sampleReadComplete generation count written =>
    exact ⟨_, rfl, settle_keeps (completeSample_keeps r _ _ _) s⟩
  | batchCopyComplete entries => exact ⟨_, rfl, settle_keeps (completeCopy_keeps r _) s⟩
  | stockRereadComplete descriptors => exact ⟨_, rfl, settle_keeps (completeReread_keeps r _) s⟩
  | start rollId s0 => exact ⟨_, rfl, settle_keeps (executeOrder_keeps r _ _ (orderStart_keeps r _ _)) s⟩
  | stop => exact ⟨_, rfl, settle_keeps (executeOrder_keeps r _ _ (orderStop_keeps r)) s⟩
  | halt => exact ⟨_, rfl, settle_keeps (executeOrder_keeps r _ _ (orderHalt_keeps r)) s⟩
  | recipe slot =>
    refine ⟨_, rfl, settle_keeps ?_ s⟩
    split
    · split
      · exact endOrder_keeps r _
      · exact emit_keeps (onRs_keeps r _) _
    · exact r
  | recipeLoadComplete slot =>
    refine ⟨_, rfl, settle_keeps ?_ s⟩
    split
    · exact r
    · exact endOrder_keeps (judgeRecipe_keeps (onRs_keeps r _) _ _) _
  | flush => exact ⟨_, rfl, settle_keeps (executeOrder_keeps r _ _ (orderFlush_keeps r)) s⟩
  | note value => exact ⟨_, rfl, settle_keeps (executeOrder_keeps r _ _ (orderNote_keeps r _)) s⟩
  | markon => exact ⟨_, rfl, settle_keeps (executeOrder_keeps r _ _ (orderMarkon_keeps r)) s⟩
  | clear => exact ⟨_, rfl, settle_keeps (executeOrder_keeps r _ _ (orderClear_keeps r)) s⟩
  | levels levels => exact ⟨_, rfl, settle_keeps (executeOrder_keeps r _ _ (orderLevels_keeps r _)) s⟩
  | headreset head => exact ⟨_, rfl, settle_keeps (executeOrder_keeps r _ _ (orderHeadreset_keeps r _)) s⟩
  | unknownOrder code => exact ⟨_, rfl, settle_keeps (executeOrder_keeps r _ _ (by exact r)) s⟩
  | closeoutBegin => exact ⟨_, rfl, settle_keeps (beginCloseout_keeps r) s⟩

/-! ## Power-on and part reset -/

/-- Every limit of Safety.lean that Keeps speaks of. -/
structure Limits (s : State) : Prop where
  motion  : MotionOk s.mu
  links   : LinksOk s.lu
  pairing : PairingOk s.pu
  marks   : MarksOk s.ku
  holding : HoldingOk s.ru
  pages   : PagesOk s.xu

theorem Keeps.limits (h : Keeps s t) (l : Limits s) : Limits t :=
  ⟨h.motion l.motion, h.links l.links, h.pairing l.pairing, h.marks l.marks, h.holding l.holding, h.pages l.pages⟩

theorem linksOk_powerOn (straps : Straps) : LinksOk (LinkUnit.powerOn straps) := by
  intro p
  fin_cases p <;> exact Nat.zero_le _

/-- Every limit holds at the power-on values. -/
theorem powerOn_limits (straps : Straps) (pins : Pins) (message : MessageConfig) :
    Limits (State.powerOn straps pins message) where
  motion := by
    refine ⟨?_, le_refl (0 : Int), ?_, fun f => ?_, Nat.zero_le _⟩
    · show -Config.positionLimit ≤ 0
      decide
    · show (0 : Int) ≤ Config.positionLimit
      decide
    · cases f <;> exact Nat.zero_le _
  links := linksOk_powerOn straps
  pairing := by
    refine ⟨Nat.zero_le _, List.Pairwise.nil, fun f => ?_⟩
    cases f <;> exact Nat.zero_le _
  marks := marksOk_nil _ rfl
  holding := holdingOk_nil rfl runsOk_nil
  pages := by
    refine ⟨fun p e => ?_, fun p e => ?_⟩
    · cases e
    · cases e

/-- No command breaks a limit; power-on and part reset establish them all. -/
theorem exec_limits (c : Instr) (l : Limits s) : ∃ t, exec c s = .next t ∧ Limits t ∧ t.pending = s.pending := by
  by_cases hp : ∃ x, c = .powerOn x
  · obtain ⟨x, rfl⟩ := hp
    have key := comeUp_keeps (Keeps.refl
      { State.powerOn x s.pins s.xu.message with pending := s.pending, out := s.out, free := s.free })
    have base := powerOn_limits x s.pins s.xu.message
    exact ⟨_, rfl, key.limits ⟨base.motion, base.links, base.pairing, base.marks, base.holding, base.pages⟩, key.pending⟩
  · by_cases hr : c = .partReset
    · subst hr
      have base := powerOn_limits s.straps s.pins s.xu.message
      refine ⟨_, rfl, (comeUp_keeps (Keeps.refl _)).limits ?_, (comeUp_keeps (Keeps.refl _)).pending⟩
      exact ⟨base.motion, base.links, base.pairing, base.marks, base.holding, base.pages⟩
    · obtain ⟨t, e, k⟩ := exec_keeps c (fun x e => hp ⟨x, e⟩) hr
      exact ⟨t, e, k.limits l, k.pending⟩

/-! ## The clock -/

theorem pageOlder_ok (p : Page) (h : p.ok) : p.older.ok := by
  unfold Page.older
  split <;> exact h

theorem msTick_keeps (h : Keeps s t) : Keeps s (msTick t) := by
  have h1 : Keeps s (countPoll t) := by
    unfold countPoll
    split
    · exact h
    · exact onXu_keeps h _ rfl (by exact id)
  have h2 : Keeps s (countStall (countPoll t)) := by
    unfold countStall
    split
    · exact h1
    · exact onMu_keeps h1 _ (by exact id)
  unfold msTick countReads
  refine onRs_keeps (onXu_keeps h2 _ rfl fun hx => ⟨fun p e => ?_, fun p e => ?_⟩) _
  · obtain ⟨q, eq, rfl⟩ := Option.map_eq_some_iff.1 e
    exact pageOlder_ok q (hx.1 q eq)
  · obtain ⟨q, eq, rfl⟩ := Option.map_eq_some_iff.1 e
    obtain ⟨a, b⟩ := hx.2 q eq
    exact ⟨a, by dsimp only; rw [b]; rfl⟩

theorem tick_keeps (h : Keeps s t) : Keeps s (tick t) := by
  have h1 : Keeps s (t.onMu fun m => { m with phaseA := m.phaseA.age, phaseB := m.phaseB.age }) :=
    onMu_keeps h _ (by exact id)
  unfold tick
  dsimp only
  split
  · exact onMu_keeps h1 _ (by exact id)
  · unfold countMicrosecond
    dsimp only
    have h2 : Keeps s (((t.onMu fun m => { m with phaseA := m.phaseA.age, phaseB := m.phaseB.age }).onMu
        fun m => { m with refPhase := 0 }).onMu fun m => { m with us := m.us + 1 }) :=
      onMu_keeps (onMu_keeps h1 _ (by exact id)) _ (by exact id)
    split
    · exact onMu_keeps h2 _ (by exact id)
    · exact msTick_keeps (onMu_keeps h2 _ (by exact id))

end Sys2Proof.Machine
end

