-- ==== Sys2Proof/Laws/Settle.lean ====
section
/-! SUPPORT. What every step ends with, and what asking for a status block write leaves alone, said once. -/

namespace Sys2Proof.Machine

variable {s t u : State}

theorem OnlyStatus.refl (s : State) : OnlyStatus s s := .inl rfl

theorem markChanged_onlyStatus (before s : State) : OnlyStatus s (markChanged before s) := by
  unfold markChanged
  split
  · exact .inl rfl
  · exact .inr rfl

theorem takeLimit_none (h : s.cu.limitEvent = false) : takeLimit s = s := by
  unfold takeLimit
  rw [h]
  rfl

/-- What a step ends with, when no limit event has been sent in it. -/
theorem settle_onlyStatus (before : State) (hl : s.cu.limitEvent = false) : OnlyStatus s (settle before s) := by
  unfold settle
  rw [takeLimit_none hl]
  exact markChanged_onlyStatus before s

/-- R191: all that raising a cause does. -/
theorem raise_eq (s : State) (c : Cause) :
    raise s c =
      { s with
        xu :=
          { s.xu with
            flags := setFlag s.xu.flags c
            outstanding :=
              if s.xu.outstanding < s.xu.levels[causeIndex c] then s.xu.levels[causeIndex c] else s.xu.outstanding }
        out :=
          if s.xu.outstanding < s.xu.levels[causeIndex c] ∧ s.xu.message.enabled then
            s.out ++ [.message s.xu.message.address (messageData s.xu.message.data s.xu.levels[causeIndex c])]
          else s.out } := by
  unfold raise sendMessage
  by_cases h : s.xu.outstanding < s.xu.levels[causeIndex c] <;> by_cases e : s.xu.message.enabled = true <;>
    simp only [State.onXu, State.emit, h, e, and_self, and_true, if_true, if_false, and_false,
      Bool.false_eq_true]

theorem raise_cu (s : State) (c : Cause) : (raise s c).cu = s.cu := by rw [raise_eq]

/-- R182, R187: all that paying owed causes does is raise them. -/
theorem payOwed_eq (s : State) (posted orders : Bool) :
    payOwed s { posted := posted, orders := orders } =
      match posted, orders with
      | false, false => s
      | true, false => raise s .posted
      | false, true => raise s .orders
      | true, true => raise (raise s .posted) .orders := by
  cases posted <;> cases orders <;> rfl

theorem payOwed_cu (s : State) (owed : Owed) : (payOwed s owed).cu = s.cu := by
  obtain ⟨posted, orders⟩ := owed
  rw [payOwed_eq]
  cases posted <;> cases orders
  · rfl
  · exact raise_cu s _
  · exact raise_cu s _
  · exact (raise_cu _ _).trans (raise_cu s _)

/-- R189: asking for a status block write leaves every block but the Exchange Unit alone. -/
theorem payOwed_reporting (s : State) (owed : Owed) : OnlyReporting s (payOwed s owed) := by
  obtain ⟨posted, orders⟩ := owed
  rw [payOwed_eq]
  cases posted <;> cases orders
  · exact OnlyReporting.refl s
  · exact raise_reporting s _
  · exact raise_reporting s _
  · exact (raise_reporting s _).trans (raise_reporting _ _)

theorem onXu_cu (s : State) (g : ExchangeUnit → ExchangeUnit) : (s.onXu g).cu = s.cu := rfl
theorem emit_cu (s : State) (o : Output) : (s.emit o).cu = s.cu := rfl

theorem writeStatus_cu (s : State) (owed : Owed) : (writeStatus s owed).cu = s.cu := by
  unfold writeStatus
  simp only [emit_cu, onXu_cu]

theorem writeStatus_reporting (s : State) (owed : Owed) : OnlyReporting s (writeStatus s owed) := by
  unfold writeStatus
  simp only []
  exact (onXu_reporting s _).trans ((emit_reporting _ _).trans ((emit_reporting _ _).trans
    ((emit_reporting _ _).trans (emit_reporting _ _))))

theorem beginStatus_cu (s : State) (owed : Owed) : (beginStatus s owed).cu = s.cu := by
  unfold beginStatus
  split
  · exact payOwed_cu s owed
  · exact writeStatus_cu s owed

theorem beginStatus_reporting (s : State) (owed : Owed) : OnlyReporting s (beginStatus s owed) := by
  unfold beginStatus
  split
  · exact payOwed_reporting s owed
  · exact writeStatus_reporting s owed

theorem wantStatus_cu (s : State) (owed : Owed) : (wantStatus s owed).cu = s.cu := by
  unfold wantStatus
  split
  · rfl
  · exact beginStatus_cu s owed

theorem wantStatus_reporting (s : State) (owed : Owed) : OnlyReporting s (wantStatus s owed) := by
  unfold wantStatus
  split
  · exact OnlyReporting.refl s
  · exact beginStatus_reporting s owed

/-- R167, R182: the end of an order. -/
theorem settle_endOrder (before : State) (result : OrderResult) (hb : u.cu.batch.isSome) (hl : u.cu.limitEvent = false) :
    OrderEnded u result (settle before (endOrder u result)) := by
  obtain ⟨b, e⟩ := Option.isSome_iff_exists.1 hb
  unfold OrderEnded endOrder
  rw [e]
  dsimp only
  split
  · exact settle_onlyStatus before hl
  · exact settle_onlyStatus before ((congrArg ControlUnit.limitEvent (wantStatus_cu _ _)).trans hl)

end Sys2Proof.Machine
end

