-- ==== Sys2Proof/Tests/Slice0.lean ====
section
/-! SUPPORT. Ill-formed terms that each check refuses, small effects of commands, and for every statement with hypotheses a state
and operands that meet them. -/

namespace Sys2Proof.Tests

open Sys2Proof Sys2Proof.Machine

/-! ## Ill-formed terms -/

theorem test_illFormed_hello : (Instr.helloReceived 0 { bytes := [0x04], closed := true }).wellFormed = false := by decide

theorem test_illFormed_line : (Instr.linePacketReceived 0 { bytes := [0x03], closed := true }).wellFormed = false := by
  decide

theorem test_illFormed_ignoredWrite :
    (Instr.registerWriteIgnored 0x0F 0).wellFormed = false ∧ (Instr.registerWriteIgnored 0x10 0).wellFormed = true := by
  decide

theorem test_illFormed_unknownOrder :
    (Instr.unknownOrder 0x01).wellFormed = false ∧ (Instr.unknownOrder 0x0A).wellFormed = false ∧
      (Instr.unknownOrder 0x00).wellFormed = true ∧ (Instr.unknownOrder 0x0B).wellFormed = true := by
  decide

/-! ## Small states -/

/-- The state after a command. -/
def after (c : Instr) (s : State) : State :=
  match exec c s with
  | .next t => t
  | .fault _ => s
  | .refused _ => s

def quiet : Sensors := { markUpper := false, markLower := false, splice := false }

def inState (x : Inspection) (s : State) : State := { s with cu := { s.cu with state := x } }

/-- An exchange area is set and the part is enabled, in IDLE. -/
def idle : State :=
  inState .idle { State.reset with xu := { State.reset.xu with xbase := 0x10000, enable := true } }

def off : State := inState .off idle

def oneHead : HeadEntry := { present := true, faceCode := 0, origin := 0, width := 256, missLimit := 1 }

def marker : Marker := { offset := 0, length := 3, activeHigh := true }

def policy : MarkPolicy := { pinholeOther := .a, pinholeThrough := .a, spot := .a, large := .a, streak := .a }

/-- A shared part with one head, on port 0. -/
def sharedPart : SharedPart :=
  { pitch := 4, lighting := .rt, filter := 4, markFilter := 0, minPeriod := 20, deadline := 50, d := 0, qU := 0, qL := 0,
    qS := 0, eb := 1, ea := 1, pairing := false, mirror := false, cdTolerance := 1, columnOffset := 0, mdWindow := 2,
    autoResume := true, postAge := 5, stallTime := 10, repeatInterval := 0, policy := policy, markerA := marker,
    markerB := marker, heads := emptyHeads.set 0 oneHead }

def facePart : FacePart :=
  { FacePart.empty with
    nominal := 10, maxGap := 10, reach := 2, pinholeCd := 2, pinholeMd := 2, spotCd := 4, spotMd := 4, streakStart := 8,
    minPixels := 2 }

def recipeFace : RsFace := { active := some { part := facePart, slot := 0, id := 7 }, pending := none }

def lane : Lane :=
  { first := 0, last := 15, kind := .coated, minWidth := 1, bridge := 1, streakLighting := .either, maskCoatedR := 1,
    maskCoatedT := 1, maskGapR := 1, maskGapT := 1, window := 2, maxWidth := 3, tentativeLimit := 3, confirmHits := 4,
    fadeMisses := 2, endMisses := 4 }

/-- Values 8 and above are of class 1 under both lightings. -/
def lanePart : FacePart :=
  { facePart with
    lanes := [lane]
    classR := List.replicate 8 0 ++ List.replicate 248 1
    classT := List.replicate 8 0 ++ List.replicate 248 1 }

def withRecipe (s : State) : State :=
  { s with
    rs := { shared := some { part := sharedPart, slot := 0, id := 7 }, faces := PerFace.both recipeFace, load := none } }

/-- A roll is running. -/
def rolling : State := inState .running (withRecipe idle)

/-- The one order of a batch, its first bytes given. -/
def orderList (code op0 op1 op2 op3 : Byte) : OrderListBytes :=
  (((((Vector.replicate 512 0).set 0 code).set 8 op0).set 9 op1).set 10 op2).set 11 op3

/-- A batch of one order. -/
def batchOf (entries : OrderListBytes) : Batch :=
  { generation := 1, count := 1, entries := entries, next := 0, results := Vector.replicate 16 OrderResult.notRun }

def ordered (code : Byte) (s : State) (op : Byte := 0) : State :=
  { s with cu := { s.cu with batch := some (batchOf (orderList code op 0 0 0)) } }

def aNote (seq : Nat) : Record := { seq := seq, mark := .none, body := .note 0 0 }

/-- A page with so many one-slot records. -/
def pageWith (used : Nat) : Page :=
  { address := 0x20000, used := used, records := (List.range used).map fun i => aNote (i + 1), age := 5 }

def filling (page : Page) (s : State) : State := { s with xu := { s.xu with filling := some page } }

def posting (page : Page) : Posting := { page := page, reason := .full, waited := 0 }

def queued (records : List Record) (s : State) : State :=
  { s with ru := { s.ru with queue := records, nextSeq := records.length + 1 } }

def desc : LineDesc :=
  { number := 1, stamp := 4, lighting := .t, sect := .coated, patchIndex := 1, offset := 4, excluded := false,
    skipped := false }

def openLine : OpenLine := { desc := desc, expected := [], givenUp := [], triggerTime := 0 }

def streamOf (items : List StreamItem) (s : State) : State :=
  { s with lu := { s.lu with faces := PerFace.both { stream := items, assembled := 0, lastTriggered := none } } }

def handedOf (kind : HandedKind) (s : State) (part : FacePart := facePart) : State :=
  { s with
    rx := PerFace.both { inForce := some part, runFull := Tally.empty, handed := [{ kind := kind, part := some part }] } }

def patchEnd (finishing : Bool) : PatchEnd :=
  { index := 1, first := 0, last := 9, finishing := finishing,
    flags := { synthStart := false, synthEnd := false, short := false, long := false, segment := false } }

def patchStart : PatchStart := { index := 1, stamp := 4, part := none }

def lineOf (runs : List Run) : LineItem := { desc := desc, blind := [], runs := runs, runFull := false }

def helloPacket (head count : Byte) : Packet := { bytes := [0x03, head, count, 0], closed := true }

/-- A LINE of one pixel for line 1 of port 0. -/
def linePacket (echo : Byte) : Packet := { bytes := withCheck [0x04, 0, 1, echo, 0, 1, 9], closed := true }

def onHead0 (g : Head → Head) (s : State) : State := s.onHead 0 g

def closure (f : Face) : Closure :=
  { face := f, first := 4, last := 4, cdMin := 5, cdMax := 6, patchIndex := 1, offset := 4, pixels := 2, classBits := 1,
    lights := { r := false, t := true }, minValue := 1, maxValue := 2, cut := false, blind := false }

def aTrack : Track :=
  { state := .confirmed, lane := 0, centre2 := 20, widthNow := 1, maxWidth := 1, columnMin := 10, columnMax := 10,
    widened := false, firstStamp := 0, patchIndex := 1, offset := 0, lastHit := 4, hits := 4, observed := 4,
    held := Tally.empty, missRun := 0, pixels := 4, classBits := 1, lights := { r := true, t := true }, blind := false,
    number := 1, confirmStamp := 4, patches := 1, nextRepeat := 4, openSource := 1 }

def aSpot : Spot :=
  { lane := 0, columnMin := 5, columnMax := 6, firstLine := 1, firstStamp := 4, lastLine := 2, lastStamp := 8, joined := 2,
    quiet := 0, pixels := 2, classBits := 1, lights := { r := false, t := true }, minValue := 1, maxValue := 2,
    blind := false, cut := false, patchIndex := 1, offset := 4, sect := .coated, refused := false }

def aRun : Run :=
  { lane := 0, first := 10, last := 11, pixels := 2, classBits := 1, minValue := 1, maxValue := 2, blindEdge := false }

/-! ## Limits: a state that stands at every one of them -/

def fullMotion : MotionUnit :=
  { idle.mu with
    p := Config.positionLimit
    h := Config.positionLimit
    faces := PerFace.both { MuFace.powerOn with edges := List.replicate 8 { stamp := 0, rise := true } }
    splices := List.replicate 2
      { stamp := 0, first := -1, last := 1, entered := PerFace.both false, done := PerFace.both false } }

def fullPairing : PairingUnit :=
  { idle.pu with
    active := true
    list := List.replicate 127 { closure := closure .upper, due := 6 } ++ [{ closure := closure .lower, due := 7 }]
    faces := PerFace.both { PuFace.powerOn with log := List.replicate 64 { kind := .whole, first := 0, last := 0 } } }

def fullMarks : MarkUnit :=
  { idle.ku with queue := List.replicate 32 { out := .a, fire := 9, length := 3, source := 1 } }

def aLossRun : LossRun := { LossRun.empty with first := 9, count := 1 }

/-- The greatest number of runs, each entered before the one below it. -/
def lossRuns : List LossRun := (List.range 64).map fun i => { aLossRun with first := 9 + 2 * i, entered := 63 - i }

/-- Every limited store full, one streak open on each face, a command waiting. -/
def full : State :=
  { filling (pageWith 126) (queued (pageWith 64).records idle) with
    pending := [.markon]
    mu := fullMotion
    lu := (idle.onHead 0 fun h => { h with buffers := List.replicate 2 { line := 1, pixels := [] } }).lu
    te :=
      { nextStreak := 2
        faces := PerFace.both { TeFace.powerOn with tracks := TeFace.powerOn.tracks.set 0 (some aTrack), openStreaks := 1 } }
    pu := fullPairing
    ku := fullMarks
    ru := { (queued (pageWith 64).records idle).ru with tallyOpen := true, runs := lossRuns } }

theorem test_witness_StepKeepsMotion : MotionOk full.mu ∧ ∃ t, step full = .next t :=
  ⟨⟨by decide, by decide, by decide, fun f => by cases f <;> decide, by decide⟩, _, rfl⟩

/-- A roll in which one line of the upper face stands unassembled and waits for the one head of the recipe. -/
def oneLine : State :=
  (streamOf [.opened { openLine with expected := [0] }] rolling).onLuFace .lower fun l => { l with stream := [] }

theorem headsEntered_oneLine : HeadsEntered oneLine := by
  intro f line h
  cases f
  · obtain rfl := List.mem_singleton.1 h
    exact ⟨by decide, fun p hp => by obtain rfl := List.mem_singleton.1 hp; exact ⟨oneHead, by decide +kernel, by decide⟩⟩
  · cases h

theorem test_witness_StepKeepsLineBuffers :
    (LinksOk full.lu ∧ ∃ t, step full = .next t) ∧ LinesOk oneLine ∧ ∃ t, step oneLine = .next t :=
  ⟨⟨by unfold LinksOk; decide, _, rfl⟩, ⟨headsEntered_oneLine, nofun, fun _ => rfl⟩, _, rfl⟩

theorem test_witness_StepKeepsPairingList : PairingOk full.pu ∧ ∃ t, step full = .next t :=
  ⟨⟨by decide +kernel, by decide +kernel, fun f => by cases f <;> decide +kernel⟩, _, rfl⟩

theorem test_witness_StepKeepsMarkQueue : MarksOk full.ku ∧ ∃ t, step full = .next t :=
  ⟨⟨by decide, by decide +kernel⟩, _, rfl⟩

theorem test_witness_StepKeepsHoldingQueue : HoldingOk full.ru ∧ ∃ t, step full = .next t :=
  ⟨⟨by decide +kernel, by decide +kernel, by decide +kernel, by unfold RunsOk; decide +kernel⟩, _, rfl⟩

theorem pageWith_ok : (pageWith 126).ok := ⟨by decide +kernel, by decide⟩

theorem test_witness_StepKeepsPages : PagesOk full.xu ∧ ∃ t, step full = .next t :=
  ⟨⟨fun _ h => Option.some.inj h ▸ pageWith_ok, fun _ h => nomatch h⟩, _, rfl⟩

theorem test_witness_StepKeepsStreakCounts : (∀ f, StreaksOk (full.teFace f)) ∧ ∃ t, step full = .next t :=
  ⟨fun f => by cases f <;> (unfold StreaksOk; decide), _, rfl⟩

theorem test_witness_StepStaysQuiescent : Quiescent full ∧ ∃ t, step full = .next t := ⟨⟨rfl, .inl rfl⟩, _, rfl⟩

/-- The last cycle before the µs counter steps, that step, and the one that brings a ms tick. -/
theorem test_witness_StepTakesFrontCommand :
    full.pending = [.markon] ∧ idle.pending = [] ∧ idle.mu.refPhase = 0 ∧ idle.mu.msPhase = 0 ∧ 23 + 1 < 25 ∧
      25 ≤ 24 + 1 ∧ 998 + 1 < 1000 ∧ 1000 ≤ 999 + 1 := ⟨rfl, rfl, rfl, rfl, by decide, by decide, by decide, by decide⟩

/-! ## Registers, encoder, break input -/

/-- Both halves, at the boundary of the low 12 bits; a part that is not in OFF, one that stays there, one that leaves it. -/
theorem test_witness_XbaseWritten :
    Quiescent off ∧ (0x10000#64).extractLsb' 0 32 = 0x00010FFF#32 &&& 0xFFFFF000#32 ∧
      (0x10000#64).extractLsb' 32 32 = off.xu.xbase.extractLsb' 32 32 ∧
      (0x100010000#64).extractLsb' 0 32 = off.xu.xbase.extractLsb' 0 32 ∧ (0x100010000#64).extractLsb' 32 32 = 1#32 ∧
      idle.cu.state ≠ .off ∧ State.reset.cu.state = .off ∧ State.reset.xu.enable = false ∧ off.cu.state = .off ∧
      off.xu.enable = true ∧ (0x10000#64) ≠ 0 :=
  ⟨⟨rfl, .inl rfl⟩, by decide, by decide, by decide, by decide, by decide, rfl, rfl, rfl, rfl, by decide⟩

theorem test_witness_EnableWritten :
    off.cu.state = .off ∧ off.xu.xbase ≠ 0 ∧ State.reset.cu.state = .off ∧ State.reset.xu.xbase = 0 ∧
      Quiescent State.reset ∧ ∀ x : Inspection, Quiescent (inState x idle) ∧ (inState x idle).cu.state = x :=
  ⟨rfl, by decide, rfl, rfl, ⟨rfl, .inl rfl⟩, fun _ => ⟨⟨rfl, .inl rfl⟩, rfl⟩⟩

/-- The lowest and the highest interval that is taken, words that set RESET or not, and the first offset after ATTN. -/
theorem test_witness_RegisterWindow :
    Quiescent idle ∧ (1 : Byte) ≠ 0 ∧ (255 : Byte) ≠ 0 ∧ (2#32).getLsbD 1 = true ∧ (0xFFFFFFFD#32).getLsbD 1 = false ∧
      16 ≤ (0x10#5).toNat ∧ (0x0F#5).toNat < 16 ∧ 1 % 4 ≠ 0 ∧ 3 % 4 ≠ 0 :=
  ⟨⟨rfl, .inl rfl⟩, by decide, by decide, by decide, by decide, by decide, by decide, by decide, by decide⟩

def broken (s : State) : State := { s with ku := { s.ku with breakFlag := true, a := .forced, b := .forced } }

/-- The encoder as power-on leaves it, with P and H set. -/
def at' (p h : Int) (s : State) : State := { s with mu := { s.mu with p := p, h := h } }

/-- The part with P and H at these positions, all phases low and settled: a forward step, one at the bound of P, a reverse step
to the bound below, a jump. -/
theorem test_witness_EncoderStepped :
    (∀ p h, Quiescent (at' p h idle) ∧ encoderFilter (at' p h idle) = 0 ∧
      (at' p h idle).mu.phaseA = { accepted := (at' p h idle).pins.encA, hold := none } ∧
      (at' p h idle).mu.phaseB = { accepted := (at' p h idle).pins.encB, hold := none }) ∧
      cyclePlace true false = cyclePlace false false + 1 ∧ (1999999999 : Int) < Config.positionLimit ∧
      (1999999999 : Int) < 2000000000 ∧ (2000000000 : Int) = Config.positionLimit ∧
      cyclePlace false true + 1 = cyclePlace false false ∧ -Config.positionLimit < (-1999999999 : Int) :=
  ⟨fun _ _ => ⟨⟨rfl, .inl rfl⟩, rfl, rfl, rfl⟩, by decide, by decide, by decide, by decide, by decide, by decide⟩

/-- The filter of the encoder at 0. -/
def unfiltered (s : State) : State :=
  { s with
    rs := { s.rs with shared := some { part := { sharedPart with filter := 0 }, slot := 0, id := 7 } } }

def marked (queue : List MarkEntry) (s : State) : State := { s with ku := { s.ku with queue := queue } }

def aMark (out : MarkOut) (fire : Int) : MarkEntry := { out := out, fire := fire, length := 1, source := 1 }

/-- An advance onto the position limit outside a roll: no mark due, one due at that position on an output idle or active, two due and
one not, and the same while the break flag stands with the last numbers before the sequence limit. -/
theorem test_witness_AdvanceFiresMarks :
    let s := at' 1999999999 1999999999 idle
    let one := aMark .b 2000000000
    let two := [aMark .a 1999999999, one]
    let later := aMark .a 2000000001
    (∀ queue, Quiescent (marked queue s) ∧ Quiescent (broken (marked queue s)) ∧ EncoderSettled (marked queue s)) ∧
      cyclePlace true false = cyclePlace s.pins.encA s.pins.encB + 1 ∧ s.mu.p = s.mu.h ∧
      s.mu.h < Config.positionLimit ∧ s.inspecting = false ∧ (∀ e ∈ s.ku.queue, s.mu.h + 1 < e.fire) ∧
      s.ku.breakFlag = false ∧ one.fire ≤ s.mu.h + 1 ∧ s.mu.h + 1 < one.fire + one.length ∧
      s.ku.output .b = .idle ∧ { s.ku with b := .active 2000000005 }.output .b = .active 2000000005 ∧
      (marked (two ++ [later]) s).ku.queue = two ++ [later] ∧ (∀ e ∈ two, e.fire ≤ s.mu.h + 1) ∧
      (∀ e ∈ [later], s.mu.h + 1 < e.fire) ∧ (broken (marked (two ++ [later]) s)).ku.breakFlag = true ∧
      4294963198 + two.length ≤ Config.sequenceLimit := by
  refine ⟨fun _ => ⟨⟨rfl, .inl rfl⟩, ⟨rfl, .inl rfl⟩, rfl, rfl, rfl⟩, ?_⟩
  decide

/-- In a roll: an advance onto the trigger point of line 1; one below it, with every input at its accepted level; one onto the
position limit. -/
theorem test_witness_InspectingAdvance :
    let s := fun p : Int => unfiltered (at' p p rolling)
    let sp : SharedPart := { sharedPart with filter := 0 }
    let prepared := fun u : State =>
      let moved := ontoFreshWeb true false quiet u
      prepareIfDue (prepareIfDue (sampleSplice (sampleMark (sampleMark moved sp .upper) sp .lower) sp) sp .upper) sp .lower
    (∀ p, Quiescent (s p) ∧ EncoderSettled (s p) ∧ (s p).mu.p = (s p).mu.h ∧ (s p).inspecting = true ∧
      (s p).shared = some sp ∧ (s p).mu.limitSent = false) ∧
      cyclePlace true false = cyclePlace (s 3).pins.encA (s 3).pins.encB + 1 ∧
      (s 3).mu.h + 1 < Config.positionLimit ∧ (advanceMarks (prepared (s 3))).cu.limitEvent = false ∧
      lineDue (ontoFreshWeb true false quiet (s 3)) sp .upper = true ∧
      (∀ f, ((s 2).muFace f).begun = none ∧
        ((s 2).muFace f).acceptedLevel = markLevel (ontoFreshWeb true false quiet (s 2)) f) ∧
      (s 2).mu.spliceBegun = none ∧ (s 2).mu.spliceAccepted = quiet.splice ∧
      (∀ f, lineDue (ontoFreshWeb true false quiet (s 2)) sp f = false) ∧ (∀ e ∈ (s 2).ku.queue, (3 : Int) < e.fire) ∧
      (s 1999999999).mu.h + 1 = Config.positionLimit := by
  refine ⟨fun _ => ⟨⟨rfl, .inl rfl⟩, ⟨rfl, rfl, rfl⟩, rfl, rfl, rfl, rfl⟩, rfl, by decide, by decide +kernel,
    by decide +kernel, fun f => by cases f <;> exact ⟨rfl, rfl⟩, rfl, rfl, fun f => by cases f <;> decide +kernel, nofun,
    rfl⟩

/-- A skip stretch of two lines. -/
def twoSkipped : Tally := { count := 2, first := 4, last := 8 }

/-- H one below the trigger point of line 1 and at it; a face that is finished; a period that has passed exactly, and one that lacks
1 µs; a ready head and no packet. -/
theorem test_witness_LineScheduled :
    let s := onHead0 (fun h => { h with link := .ready }) (at' 4 4 rolling)
    let timed := fun now : Word =>
      { s with
        mu :=
          { s.mu with us := now, faces := PerFace.both { MuFace.powerOn with prevTrigger := some 0, skip := twoSkipped } } }
    let line : OpenLine :=
      { desc := { desc with sect := .wait, patchIndex := 0 }, expected := [0], givenUp := [], triggerTime := 0 }
    (at' 3 3 s).mu.h < s.mu.s0 + ((s.muFace .upper).nextLine : Nat) * sharedPart.pitch ∧
      { s.muFace .upper with finished := true }.finished = true ∧ ((timed 0).muFace .upper).skip.count ≠ 0 ∧
      (s.muFace .upper).finished = false ∧ s.mu.s0 + ((s.muFace .upper).nextLine : Nat) * sharedPart.pitch ≤ s.mu.h ∧
      s.mu.splices = [] ∧ nextBoundary s .upper = none ∧ nextBoundary (timed 20) .upper = none ∧
      sharedPart.minPeriod ≤ ((timed 20).mu.us - 0).toNat ∧ ¬ sharedPart.minPeriod ≤ ((timed 19).mu.us - 0).toNat ∧
      (s.muFace .upper).prevTrigger = none ∧ (s.muFace .upper).skip = Tally.empty ∧
      (openLines (s.luFace .upper).stream).length < 2 ∧ triggerSet s .upper = [0] ∧
      (∀ p ∈ triggerSet s .upper, (s.head p).recovering = false) ∧
      (∀ x ∈ (openLines (s.luFace .upper).stream ++ [line]).head?, lineComplete s x = false) := by
  decide +kernel

/-- A face of the Motion Unit in some section, with some edges queued. -/
def sectioned (sect : Sect) (edges : List Edge) : MuFace :=
  { MuFace.powerOn with sect := sect, edges := edges, patchIndex := 1, startStamp := 4, lastEnd := 4 }

def onFaces (m : MuFace) (s : State) : State := { s with mu := { s.mu with faces := PerFace.both m } }

def modeOf (part : FacePart) (s : State) : State :=
  { s with rs := { s.rs with faces := PerFace.both { recipeFace with active := some { part := part, slot := 0, id := 7 } } } }

/-- Every section with an edge before, at and after the synthetic boundary; a segment boundary; each edge and each boundary that
acts; a finish request; a pending part. -/
theorem test_witness_BoundariesMade :
    let rise : Edge := { stamp := 14, rise := true }
    let fall : Edge := { stamp := 14, rise := false }
    let s := fun m => onFaces m rolling
    let cont : FacePart := { facePart with mode := .continuous, segment := 5 }
    (∀ m, (s m).activePart .upper = some facePart ∧ (modeOf cont (s m)).activePart .lower = some cont) ∧
      facePart.mode = .intermittent ∧ (sectioned .wait []).sect = .wait ∧ (sectioned .gap []).edges = [] ∧
      (sectioned .coated [rise]).edges = [rise] ∧ (sectioned .coated [rise]).sect ≠ .wait ∧
      nextBoundary (s (sectioned .coated [rise])) .upper = some (.edge rise) ∧
      nextBoundary (s (sectioned .coated [{ rise with stamp := 15 }])) .upper = some (.synthetic 14) ∧
      cont.mode = .continuous ∧ cont.segment ≠ 0 ∧
      (modeOf cont (s (sectioned .coated []))).mu.s0 ≤ (sectioned .coated []).startStamp ∧
      (sectioned .coated []).finished = false ∧ Boundary.stamp (.synthetic 14) ≤ 16 ∧
      { sectioned .coated [] with finished := true }.finished = true ∧ (12 : Int) < Boundary.stamp (.synthetic 14) ∧
      (rise.rise = true ↔ (sectioned .coated [rise]).sect = .coated) ∧
      (fall.rise = true ↔ (sectioned .gap [fall]).sect = .coated) ∧ (sectioned .gap [rise]).sect ≠ .coated ∧
      (rolling.rsFace .upper).pending = none ∧ fall.rise = false ∧ (sectioned .coated [fall]).sect = .coated ∧
      (sectioned .coated [fall]).finishRequest = false ∧ (sectioned .gap []).sect = .gap ∧
      { sectioned .coated [] with finishRequest := true }.finishRequest = true ∧
      { sectioned .coated [] with finishRequest := true }.sect = .coated ∧
      { sectioned .coated [fall] with finishRequest := true }.edges = [fall] ∧ (sectioned .wait [rise]).sect ≠ .coated ∧
      (sectioned .gap [rise]).edges = [rise] ∧ rise.rise = true ∧
      { rolling.rsFace .upper with pending := some { part := cont, slot := 1, id := 8 } }.pending
        = some { part := cont, slot := 1, id := 8 } := by
  refine ⟨fun _ => ⟨rfl, rfl⟩, ?_⟩
  decide +kernel

/-- Samples with filters of 0 and 1 and with 1 and 2 samples left; queues of seven and of eight edges, of one and of two splices;
lines before a zone, at both its bounds and beyond it. -/
theorem test_witness_EdgesAndSplicesAccepted :
    let e : SpliceEntry := { stamp := 5, first := 4, last := 6, entered := PerFace.both false, done := PerFace.both false }
    let rise : Edge := { stamp := 0, rise := true }
    let s := { rolling with pins := { rolling.pins with sensors := { markUpper := true, markLower := true, splice := true } } }
    let sampled := fun filter : Nat => sampleInput none false true 9 filter
    rolling.activePart .upper = some facePart ∧ facePart.mode = .intermittent ∧ (1 : Nat) ≠ 0 ∧
      ({ stamp := 1, left := 1 } : BegunEdge).left ≤ 1 ∧ 1 < ({ stamp := 1, left := 2 } : BegunEdge).left ∧
      { MuFace.powerOn with finished := true }.finished = true ∧ (s.muFace .upper).finished = false ∧
      (s.muFace .lower).finished = false ∧ (sampled 1).accepted = none ∧ (sampled 0).accepted = some 9 ∧
      (modeOf { facePart with mode := .continuous } s).activePart .upper = some { facePart with mode := .continuous } ∧
      (List.replicate 7 rise).length < 8 ∧ 8 ≤ (List.replicate 8 rise).length ∧ 2 ≤ [e, e].length ∧ [e].length < 2 ∧
      (∀ x ∈ [e], x.done.upper = false ∨ x.done.lower = false) ∧ (s.muFace .upper).nextLine ≤ 1 ∧
      (s.muFace .lower).nextLine ≤ 1 ∧ (e.done.upper && e.done.lower) = false ∧ e.first ≤ 4 ∧ (4 : Int) ≤ e.last ∧
      e.entered.get .upper = false ∧ (3 : Int) < e.first ∧ (6 : Int) ≤ e.last ∧ e.last < 7 ∧
      { e with entered := PerFace.both true }.entered.get .lower = true ∧
      (let d : SpliceEntry := { e with stamp := 7, first := 6, last := 8 }
       { rolling.mu with splices := [e, d] }.splices = [e, d] ∧ ∀ x ∈ [e, d],
        (x.done.upper && x.done.lower) = false ∧ x.first ≤ 6 ∧ (6 : Int) ≤ x.last ∧ x.entered.get .upper = false ∧
          x.entered.get .lower = false) ∧
      { e with done := { upper := false, lower := true } }.done.get (otherFace .upper) = true ∧
      e.done.get (otherFace .upper) = false := by
  decide +kernel

def heldAs (a b : Option Nat) : State :=
  { withRecipe idle with
    mu :=
      { idle.mu with p := -1, phaseA := { accepted := false, hold := a }, phaseB := { accepted := false, hold := b } } }

def held (na nb : Nat) : State := heldAs (some na) (some nb)

/-- A filter of 4 is reached by 10 cycles of 40 ns: one phase held alone or the longer of two, as a forward or a reverse step; both
held alike. -/
theorem test_witness_EncoderHoldRunsOut :
    (∀ a b, Quiescent (heldAs a b) ∧ encoderFilter (heldAs a b) = 4 ∧ (heldAs a b).mu.phaseA.hold = a ∧
      (heldAs a b).mu.phaseB.hold = b) ∧
      2 * 9 < 5 * 4 ∧ 5 * 4 ≤ 2 * 10 ∧ 9 < 10 ∧
      (let s := heldAs (some 10) none
       { s.mu with phaseA := { accepted := true, hold := none } }.place = s.mu.place + 1) ∧
      (let s := heldAs none (some 10)
       { s.mu with phaseB := { accepted := true, hold := none } }.place + 1 = s.mu.place) ∧
      (held 10 9).mu.p < (held 10 9).mu.h ∧ (held 10 9).mu.p < Config.positionLimit ∧
      -Config.positionLimit < (held 9 10).mu.p ∧ (held 10 10).mu.phaseA.hold = (held 10 10).mu.phaseB.hold :=
  ⟨fun _ _ => ⟨⟨rfl, .inl rfl⟩, rfl, rfl, rfl⟩, by decide, by decide, by decide, rfl, rfl, by decide, by decide, by decide,
    rfl⟩

theorem test_witness_BreakInput :
    Quiescent idle ∧ idle.pins.breakInput = false ∧ idle.ku.breakFlag = false ∧ Quiescent (broken idle) ∧
      (broken idle).pins.breakInput = false ∧ (broken idle).ku.breakFlag = true :=
  ⟨⟨rfl, .inl rfl⟩, rfl, rfl, ⟨rfl, .inl rfl⟩, rfl, rfl⟩

/-! ## Scan links and items -/

def fourPorts (s : State) : State := { s with straps := { s.straps with eightPorts := false } }

/-- Port 4 of a part with four ports; a HELLO cut short; no recipe; a head that is ABSENT; a match; a wrong head id; a wrong pixel
count. -/
theorem test_witness_HelloReceived :
    Quiescent (fourPorts idle) ∧ (fourPorts idle).straps.fitted 4 = false ∧ (fourPorts idle).straps.fitted 3 = true ∧
      helloFramed { bytes := [0x03, 0, 1], closed := true } = false ∧ helloFramed (helloPacket 0 1) = true ∧
      idle.entry 0 = none ∧
      ((onHead0 (fun h => { h with link := .absent }) idle).head 0).link = .absent ∧ Quiescent rolling ∧
      rolling.straps.fitted 0 = true ∧ rolling.entry 0 = some oneHead ∧ (rolling.head 0).link ≠ .absent ∧
      openLines (rolling.luFace oneHead.face).stream = [] ∧ (helloFields (helloPacket 0 1)).headId.toNat = (0 : Port).val ∧
      (helloFields (helloPacket 0 1)).count.toNat = oneHead.width ∧
      (helloFields (helloPacket 1 1)).headId.toNat ≠ (0 : Port).val ∧
      (helloFields (helloPacket 0 2)).count.toNat ≠ oneHead.width ∧ rolling.ru.nextSeq ≠ Config.sequenceLimit := by
  refine ⟨⟨rfl, .inl rfl⟩, ?_⟩
  refine ⟨rfl, rfl, rfl, rfl, rfl, rfl, ⟨rfl, .inl rfl⟩, rfl, rfl, ?_, rfl, ?_⟩ <;> decide

def twoBuffers : Head → Head := fun h => { h with buffers := List.replicate 2 { line := 1, pixels := [] } }

/-- Line 1 was triggered on head 0 and is outstanding, as the unassembled line of its face. -/
def waiting : State :=
  let headless : Sourced SharedPart := { part := { sharedPart with heads := emptyHeads }, slot := 0, id := 7 }
  streamOf [.opened { openLine with expected := [0, 1] }]
    (onHead0 (fun h => { h with outstanding := [1] }) { rolling with rs := { rolling.rs with shared := some headless } })

theorem test_witness_LinePacketReceived :
    Quiescent waiting ∧ (fourPorts waiting).straps.fitted 4 = false ∧ waiting.straps.fitted 0 = true ∧
      ¬ ((onHead0 twoBuffers waiting).head 0).buffers.length < Config.lineBuffers ∧
      (waiting.head 0).buffers.length < Config.lineBuffers ∧
      lineFramed { linePacket 1 with closed := false } 0 none = false ∧
      lineFramed (linePacket 1) 0 ((waiting.entry 0).map HeadEntry.width) = true ∧
      lineChecked { bytes := [0x04, 0, 1, 1, 0, 1, 9, 0, 0], closed := true } = false ∧
      lineFramed { bytes := [0x04, 0, 1, 1, 0, 1, 9, 0, 0], closed := true } 0 none = true ∧
      lineChecked (linePacket 1) = true ∧ lineChecked (linePacket 0) = true ∧ echoRight waiting (linePacket 0) = false ∧
      echoRight waiting (linePacket 1) = true ∧ (∀ n ∈ (rolling.head 0).outstanding, n % 256 ≠ lineTag (linePacket 1)) ∧
      (waiting.head 0).outstanding = [1] ∧ 1 % 256 = lineTag (linePacket 1) ∧ 1 ∉ ([] : List Nat) ∧
      (∀ x ∈ (openLines (waiting.luFace .upper).stream).head?, lineComplete waiting x = false) := by
  refine ⟨⟨rfl, .inl rfl⟩, ?_⟩
  decide +kernel

/-- The deadline of a line with head 0 expected has passed or lacks 1 µs; the head supplied a packet, is not LIVE, misses below its
limit or reaches it. -/
theorem test_witness_LineDeadline :
    let line := { openLine with expected := [0] }
    let s := oneLine
    let live := onHead0 (fun h => { h with link := .live }) s
    Quiescent s ∧ HeadsEntered s ∧ openLines (s.luFace .lower).stream = [] ∧
      openLines (s.luFace .upper).stream = [line] ∧
      deadlinePassed { s with mu := { s.mu with us := 50 } } line = true ∧
      deadlinePassed { s with mu := { s.mu with us := 49 } } line = false ∧
      (goodPacket { s.head 0 with buffers := [{ line := 1, pixels := [9] }] } line.desc.number).isSome = true ∧
      (goodPacket (live.head 0) line.desc.number).isSome = false ∧ (s.head 0).link ≠ .live ∧
      (live.head 0).link = .live ∧ live.entry 0 = some oneHead ∧
      (live.head 0).misses + 1 < { oneHead with missLimit := 2 }.missLimit ∧
      oneHead.missLimit ≤ (live.head 0).misses + 1 ∧ live.inspecting = true ∧
      live.ru.nextSeq ≠ Config.sequenceLimit := by
  refine ⟨⟨rfl, .inl rfl⟩, headsEntered_oneLine, ?_⟩
  decide +kernel

/-- Lines 1 and 2 of the upper face stand unassembled, both owed by head 0, which is LIVE; the lower face has none. -/
def twoLines (sp : SharedPart) : State :=
  let line := fun n : Nat =>
    StreamItem.opened
      { desc := { desc with number := n, stamp := 4 * n }, expected := [0], givenUp := [], triggerTime := BitVec.ofNat 32 (30 * (n - 1)) }
  (streamOf [line 1, line 2]
    (onHead0 (fun h => { h with link := .live, outstanding := [1, 2] })
      { rolling with rs := { rolling.rs with shared := some { part := sp, slot := 0, id := 7 } } })).onLuFace .lower fun l =>
    { l with stream := [] }

/-- A LINE of one pixel for line 2 of port 0. -/
def packet2 : Packet := { bytes := withCheck [0x04, 0, 2, 0, 0, 1, 9], closed := true }

/-- The tag of the later of two outstanding triggers: the line of the earlier one is given up, both are complete and are assembled. Then a
line whose head has delivered. -/
theorem test_witness_LinePacketReceived_lines :
    let s := twoLines { sharedPart with heads := emptyHeads }
    let kept := s.onHead 0 fun h =>
      { h with
        outstanding := []
        buffers := h.buffers ++ [{ line := 2, pixels := linePixels packet2 }]
        counters := { h.counters with received := bump16 h.counters.received } }
    let u := givenUpIn kept .upper 0 [1]
    let v := assembleReady u .upper
    let has := onHead0 (fun h => { h with buffers := [{ line := 1, pixels := [9] }] }) oneLine
    Quiescent s ∧ ReadyAssembled .upper u v ∧ s.straps.fitted 0 = true ∧ (s.head 0).buffers.length < Config.lineBuffers ∧
      lineFramed packet2 0 ((s.entry 0).map HeadEntry.width) = true ∧ lineChecked packet2 = true ∧
      echoRight s packet2 = true ∧ (s.head 0).outstanding = [1] ++ 2 :: [] ∧ 1 % 256 ≠ lineTag packet2 ∧
      2 % 256 = lineTag packet2 ∧ headFace s 0 = .upper ∧ v.cu.limitEvent = false ∧ openLines (v.luFace .upper).stream = [] ∧
      (v.luFace .upper).assembled = 2 ∧ (∀ q ∈ [(0 : Port)], ∃ b ∈ (has.head q).buffers, b.line = 1) ∧
      (has.luFace .upper).stream = [] ++ .opened { openLine with expected := [0] } :: [] := by
  refine ⟨⟨rfl, .inl rfl⟩, readyAssembled_ready _ _, ?_⟩
  decide +kernel

/-- A HELLO from, and a `headreset` of, a LIVE head that owes two lines; and of an ABSENT one. -/
theorem test_witness_HelloReceived_lines :
    let s := twoLines sharedPart
    let u := givenUpIn (s.onHead 0 fun h => { h with link := .ready, outstanding := [] }) .upper 0 [1, 2]
    let v := assembleReady u .upper
    Quiescent s ∧ ReadyAssembled .upper u v ∧ (s.head 0).link = .live ∧ (s.head 0).outstanding = [1, 2] ∧
      headFace s 0 = oneHead.face ∧ v.cu.limitEvent = false ∧ (v.luFace .upper).assembled = 2 ∧
      (s.head 0).link ≠ .absent ∧ ((onHead0 (fun h => { h with link := .absent }) s).head 0).link = .absent ∧
      orderDue (ordered 10 s 0) = some (.headreset 0) := by
  refine ⟨⟨rfl, .inl rfl⟩, readyAssembled_ready _ _, ?_⟩
  decide +kernel

/-- A trigger with fewer than two lines unassembled and with two, the older owed by a head that has sent nothing; a head that recovers
in a roll and outside one, with and without a line at which it failed. -/
theorem test_witness_LineScheduled_lines :
    let s := twoLines sharedPart
    let a := assembleLine s .upper ((openLines (s.luFace .upper).stream).headD openLine)
    let recovering := onHead0 (fun h => { h with link := .ready, recovering := true }) rolling
    ReadyAssembled .upper a (assembleReady a .upper) ∧ (openLines (oneLine.luFace .upper).stream).length < 2 ∧
      (openLines (s.luFace .upper).stream).length = 2 ∧ (recovering.head 0).link = .ready ∧
      (recovering.head 0).recovering = true ∧ (rolling.head 0).recovering = false ∧ recovering.inspecting = true ∧
      (inState .closing recovering).inspecting = false ∧ (recovering.head 0).failedLine = none ∧
      ((onHead0 (fun h => { h with failedLine := some { number := 1, stamp := 4 } }) recovering).head 0).failedLine
        = some { number := 1, stamp := 4 } := by
  refine ⟨readyAssembled_ready _ _, ?_⟩
  decide +kernel

theorem headsEntered_twoLines (limit : Nat) :
    HeadsEntered (twoLines { sharedPart with heads := emptyHeads.set 0 { oneHead with missLimit := limit } }) := by
  intro f line h
  cases f
  · have e : line.expected = [0] := by
      rcases List.mem_cons.1 h with rfl | h
      · rfl
      · obtain rfl := List.mem_singleton.1 h
        rfl
    rw [e]
    exact ⟨by decide, fun p hp => by obtain rfl := List.mem_singleton.1 hp; exact ⟨{ oneHead with missLimit := limit }, rfl, rfl⟩⟩
  · cases h

/-- Two unassembled lines, the deadline of the older passed. A miss limit of 1 fails the head, which completes the younger; one of 2 does
not, with the younger's deadline 1 µs off and passed. -/
theorem test_witness_LineDeadline_lines :
    let s := fun (limit : Nat) (now : Word) =>
      let t := twoLines { sharedPart with heads := emptyHeads.set 0 { oneHead with missLimit := limit } }
      { t with mu := { t.mu with us := now } }
    let older := fun t : State => (openLines (t.luFace .upper).stream).headD openLine
    let younger := fun t : State => (openLines (t.luFace .upper).stream).getLastD openLine
    let a := fun (limit : Nat) (now : Word) => assembleLine (s limit now) .upper (older (s limit now))
    (∀ limit now, Quiescent (s limit now) ∧ HeadsEntered (s limit now)) ∧
      openLines ((s 1 79).luFace .upper).stream = [older (s 1 79), younger (s 1 79)] ∧
      deadlinePassed (s 1 79) (older (s 1 79)) = true ∧ (younger (s 1 79)).desc.number ≠ (older (s 1 79)).desc.number ∧
      (a 1 79).cu.limitEvent = false ∧ (assembleLine (a 1 79) .upper (older (a 1 79))).cu.limitEvent = false ∧
      lineComplete (a 1 79) (older (a 1 79)) = true ∧ lineComplete (a 2 79) (older (a 2 79)) = false ∧
      deadlinePassed (s 2 79) (younger (s 2 79)) = false ∧ deadlinePassed (s 2 80) (younger (s 2 80)) = true ∧
      (assembleLine (a 2 80) .upper (older (a 2 80))).cu.limitEvent = false := by
  refine ⟨fun limit _ => ⟨⟨rfl, .inl rfl⟩, headsEntered_twoLines limit⟩, ?_⟩
  decide +kernel

/-- Two heads of a face that own columns, one with a packet for the line and one without; no other head does. -/
theorem test_witness_LineDeadline_built :
    let heads := (emptyHeads.set 0 oneHead).set 1 { oneHead with origin := 200 }
    let s :=
      onHead0 (fun h => { h with buffers := [{ line := 1, pixels := [9] }] })
        { rolling with rs := { rolling.rs with shared := some { part := { sharedPart with heads := heads }, slot := 0, id := 7 } } }
    goodPacket (s.head 0) 1 = some { line := 1, pixels := [9] } ∧ goodPacket (s.head 1) 1 = none ∧
      ownedRange s.headTable 0 = some { lo := 0, hi := 255 } ∧ ownedRange s.headTable 1 = some { lo := 256, hi := 455 } ∧
      (s.entry 0).map HeadEntry.face = some .upper ∧ (s.entry 1).map HeadEntry.face = some .upper ∧
      ∀ p : Port, p ≠ 0 → p ≠ 1 → s.entry p = none := by
  decide +kernel

/-- Every item; a line that is excluded, in WAIT, or neither; a column before, in and behind the pixels of a span. -/
theorem test_witness_RunExtractorTakesItem :
    (∀ item : StreamItem, Quiescent (streamOf [item] rolling) ∧ ((streamOf [item] rolling).luFace .upper).stream = [item]) ∧
      nextItem [] = none ∧ nextItem [.opened openLine] = none ∧ { desc with excluded := true }.excluded = true ∧
      { desc with sect := .wait }.sect = .wait ∧ desc.excluded = false ∧ desc.sect ≠ .wait ∧
      (let x : PixelSpan := { first := 3, values := [9] }
       x.first ≤ 3 ∧ 3 < x.first + x.values.length ∧ ¬x.first ≤ 2 ∧ ¬4 < x.first + x.values.length) :=
  ⟨fun _ => ⟨⟨rfl, .inl rfl⟩, rfl⟩, rfl, rfl, rfl, rfl, rfl, nofun, by decide, by decide, by decide, by decide⟩

theorem tablesFree_rolling (f : Face) : TablesFree rolling f := by
  cases f <;> exact ⟨by decide, by decide⟩

def onTrack (s : State) : State := { s with te := full.te }

/-- An entry of the other face that comes due just after the line's stamp. -/
def waitingPair (f : Face) (due : Int) (s : State) : State :=
  { s with pu := { s.pu with active := true, list := [{ closure := closure (otherFace f), due := due }] } }

/-- A line without runs on an empty face; one whose one run opens a spot; one whose run the one track claims. -/
theorem test_witness_LineItemProcessed :
    let items := fun runs => waitingPair .lower 5 (handedOf (.line (lineOf runs)) rolling)
    let tracked := onTrack (waitingPair .lower 5 (handedOf (.line (lineOf [aRun])) rolling lanePart))
    (∀ runs, Quiescent (items runs) ∧
      ((items runs).rxFace .lower).handed = [{ kind := .line (lineOf runs), part := some facePart }] ∧
      TablesFree (items runs) .lower) ∧
      NoneDue (items []) .lower desc.stamp ∧ NoneDue (items []) .lower (desc.stamp - 1) ∧ desc.skipped = false ∧
      1 < facePart.streakStart ∧ (tracked.teFace .lower).tracks[(0 : Fin 24)] = some aTrack ∧
      (∀ j : Fin 24, j ≠ 0 → (tracked.teFace .lower).tracks[j] = none) ∧
      (∀ j : Fin 64, (tracked.smFace .lower).spots[j] = none) ∧ candidateFor lanePart desc aRun aTrack = true ∧
      (tracked.rxFace .lower).handed = [{ kind := .line (lineOf [aRun]), part := some lanePart }] ∧
      (lanePart.lane aRun.lane).kind = .coated ∧ desc.sect = .coated ∧
      (changeOne lanePart .lower desc
        (countOne lanePart .lower (lineOf [aRun]) [{ run := aRun, track := some 0 }] tracked (0, aTrack)) 0).cu.limitEvent
        = false ∧
      (let claimed := trackLine tracked .lower lanePart (lineOf [aRun])
       let offered := claimed.1.onSmFace .lower fun m => claimed.2.foldl (offerRun lanePart desc) m
       let quieted := quietStep offered .lower lanePart (lineOf [aRun])
       let grown := handoverStep quieted.state .lower lanePart desc
       (lineProgress (quieted.closures.foldl takeClosure grown) .lower (lineOf [aRun])
        (horizon grown .lower)).cu.limitEvent = false) := by
  refine ⟨fun _ => ⟨⟨rfl, .inl rfl⟩, rfl, tablesFree_rolling .lower⟩, ?_, ?_, rfl, by decide, rfl, by decide, by decide,
    by decide, rfl, by decide, rfl, by decide +kernel, by decide +kernel⟩ <;> exact fun e h _ => by rw [List.mem_singleton.mp h]; decide

/-- A patch end in a roll that runs, one slot short of a full holding queue, and one that finishes its face in CLOSING; one that
finishes the second face in STOPPING. -/
theorem test_witness_PatchEndProcessed :
    let s := queued (List.replicate 63 (aNote 1)) (handedOf (.patchEnd (patchEnd false) Tally.empty) rolling)
    let last := waitingPair .lower 5 (inState .stopping s)
    Quiescent s ∧ (s.rxFace .upper).handed = [{ kind := .patchEnd (patchEnd false) Tally.empty, part := some facePart }] ∧
      ((patchEnd false).finishing = false ∨ s.cu.state ≠ .stopping) ∧
      ((patchEnd true).finishing = false ∨ (inState .closing s).cu.state ≠ .stopping) ∧ TablesFree s .upper ∧
      NoneDue (waitingPair .upper 1 s) .upper ((s.puFace .upper).lastLine.getD (s.puFace .upper).processed) ∧
      (∀ e ∈ s.pu.list, e.closure.face = .upper) ∧ s.mu.jumps = Tally.empty ∧
      (s.muFace .upper).overflow = Tally.empty ∧ (s.smFace .upper).full = Tally.empty ∧
      (s.teFace .upper).full = Tally.empty ∧ s.xu.sample = none ∧ s.ru.nextSeq ≠ Config.sequenceLimit ∧
      s.ru.nextSeq ≤ Config.lastSequence ∧ s.ru.tallyOpen = false ∧ slotsOf s.ru.queue < Config.holdingSlots ∧
      Quiescent last ∧ (patchEnd true).finishing = true ∧ last.cu.state = .stopping ∧
      ({ last.puFace (otherFace .upper) with finished := true }).finished = true := by
  refine ⟨⟨rfl, .inl rfl⟩, rfl, .inl rfl, .inr (by decide), tablesFree_rolling .upper, ?_, nofun, rfl, rfl, rfl, rfl, rfl,
    by decide, by decide, rfl, by decide, ⟨rfl, .inl rfl⟩, rfl, rfl, rfl⟩
  exact fun e h _ => by rw [List.mem_singleton.mp h]; decide

theorem test_witness_PatchStartProcessed :
    let s := waitingPair .upper 1 (handedOf (.patchStart patchStart) rolling)
    Quiescent s ∧ (s.rxFace .upper).handed = [{ kind := .patchStart patchStart, part := some facePart }] ∧
      { patchStart with part := some facePart }.part.isSome = true ∧ TablesFree s .upper ∧
      NoneDue s .upper ((s.puFace .upper).lastLine.getD (s.puFace .upper).processed) ∧
      (broken s).ku.breakFlag = true ∧ (broken s).pins.breakInput = false ∧ (broken s).shared = some sharedPart ∧
      sharedPart.autoResume = true ∧ s.ku.breakFlag = false ∧ Face.lower ≠ .upper := by
  refine ⟨⟨rfl, .inl rfl⟩, rfl, rfl, tablesFree_rolling .upper, ?_, rfl, rfl, rfl, rfl, rfl, by decide⟩
  exact fun e h _ => by rw [List.mem_singleton.mp h]; decide

theorem test_witness_SpliceClosureCuts :
    let s := handedOf .spliceClosure rolling
    Quiescent s ∧ (s.rxFace .upper).handed = [{ kind := .spliceClosure, part := some facePart }] :=
  ⟨⟨rfl, .inl rfl⟩, rfl⟩

def closingIn (phase : ClosePhase) (s : State) : State := { s with cu := { s.cu with state := .closing, phase := phase } }

theorem test_witness_CloseoutRuns :
    let s := closingIn .waiting { rolling with te := full.te, pu := full.pu, ku := full.ku }
    Quiescent s ∧ s.cu.state = .closing ∧ s.cu.phase = .waiting ∧ streamsPassed s = true ∧ s.xu.posting = none ∧
      s.xu.filling = none ∧ { s with cu := { s.cu with abandon := true } }.cu.abandon = true :=
  ⟨⟨rfl, .inl rfl⟩, rfl, rfl, rfl, rfl, rfl, rfl⟩

/-! ## The holding queue, pages, the status block -/

/-- Two slots. -/
def twoSlots : Record := { seq := 1, mark := .none, body := .pinhole .through (closure .upper) (some (closure .lower)) }

def openTally (runs : List LossRun) (scattered : LossRun) (s : State) : State :=
  { s with ru := { s.ru with tallyOpen := true, runs := runs, scattered := scattered } }

/-- The last record that leaves the page one slot, fills it, or does not fit; the tally closed or open; the drain of close-out. -/
theorem test_witness_HoldingQueueDrains :
    let s := fun used : Nat => filling (pageWith used) (queued [twoSlots] rolling)
    let last := closingIn .drain (s 123)
    (∀ used, Quiescent (s used) ∧ (s used).xu.filling = some (pageWith used) ∧ (s used).ru.queue = [twoSlots] ∧
      (s used).ru.tallyOpen = false ∧ (s used).cu.state ≠ .closing ∧ (pageWith used).used = used) ∧
      123 + twoSlots.body.slots < Config.pageSlots ∧ 124 + twoSlots.body.slots = Config.pageSlots ∧
      Config.pageSlots < 125 + twoSlots.body.slots ∧ (pageWith 125).records ≠ [] ∧ rolling.xu.filling = none ∧
      rolling.ru.queue = [] ∧ (openTally [aLossRun] LossRun.empty (s 123)).ru.tallyOpen = true ∧
      (testLoss (openTally [aLossRun] LossRun.empty { s 123 with ru := { (s 123).ru with queue := [] } })).cu.limitEvent
        = false ∧
      Quiescent last ∧ last.cu.state = .closing ∧ last.cu.phase = .drain ∧ last.ru.abandoned = false ∧
      last.xu.posting = none ∧ (closingIn .waiting (s 123)).cu.phase ≠ .drain :=
  ⟨fun _ => ⟨⟨rfl, .inl rfl⟩, rfl, rfl, rfl, nofun, rfl⟩, by decide, by decide, by decide, by decide, rfl, rfl, rfl,
    by decide +kernel, ⟨rfl, .inl rfl⟩, rfl, rfl, rfl, rfl, nofun⟩

/-- Seven and eight free slots, eight entries and nine runs, and the last numbers; the runs stand against their order of entry. -/
theorem test_witness_LossTallyCloses :
    let runs := fun n : Nat => lossRuns.drop (64 - n)
    let s := fun n k : Nat => openTally (runs k) aLossRun (queued (List.replicate n (aNote 1)) rolling)
    (∀ k, k = 7 ∨ k = 9 → (runs k).reverse.Perm (s 56 k).ru.runs ∧
      (runs k).reverse.Pairwise fun a b => a.entered < b.entered) ∧
      (s 56 7).ru.tallyOpen = true ∧ slotsOf (s 56 7).ru.queue ≤ 56 ∧ 56 < slotsOf (s 57 7).ru.queue ∧
      (s 56 7).ru.abandoned = false ∧ 4294967288 ≤ 4294967295 ∧ rolling.ru.tallyOpen = false ∧
      ((runs 7).reverse ++ [(s 56 7).ru.scattered]).length ≤ 8 ∧ 4294967288 + 8 ≤ 4294967296 ∧
      4294967295 < 4294967296 ∧ 8 < (runs 9).reverse.length ∧ 48 < slotsOf (s 56 9).ru.queue ∧
      { (s 56 7).ru with abandoned := true }.abandoned = true := by
  refine ⟨fun k hk => ⟨List.reverse_perm _, ?_⟩, ?_⟩
  · rcases hk with rfl | rfl <;> decide +kernel
  · decide +kernel

/-- Stock at its first descriptor, with a written count and a consumed count. -/
def stocked (written : Word) (d : Descriptor) (s : State) : State :=
  { s with xu := { s.xu with seenWritten := written, descriptors := s.xu.descriptors.set 0 d } }

/-- The first page of a valid descriptor; one skipped before it; all of them invalid; no stock and too much of it. -/
theorem test_witness_PageTaken :
    let d : Descriptor := { address := 0x20000, pages := 1 }
    let valid : Descriptor → Prop := fun d => d.pages ≠ 0 ∧ d.address &&& 0xFFF#64 = 0
    let s := fun (written : Word) (first : Descriptor) => stocked written first (queued [aNote 1] rolling)
    let second : State → State := fun u => { u with xu := { u.xu with descriptors := u.xu.descriptors.set 1 d } }
    (∀ written first, Quiescent (s written first) ∧ (s written first).ru.queue ≠ [] ∧
      (s written first).xu.filling = none ∧ (s written first).xu.posting = none ∧
      (s written first).xu.seenWritten - (s written first).xu.consumed = written - 0) ∧
      (1 - 0 : Word).toNat = 1 ∧ (16 - 0 : Word).toNat = 16 ∧ (17 - 0 : Word).toNat = 17 ∧ (0 - 0 : Word).toNat = 0 ∧
      cursorDescriptor (s 1 d).xu = d ∧ valid d ∧ ¬valid { d with pages := 0 } ∧ ¬valid { d with address := 0x20800 } ∧
      (second (s 2 { d with pages := 0 })).xu.descriptors[0] = { d with pages := 0 } ∧
      (second (s 2 { d with pages := 0 })).xu.descriptors[1] = d ∧
      (∀ j : Fin 16, ¬valid rolling.xu.descriptors[j]) ∧ rolling.ru.queue = [] := by
  refine ⟨fun _ _ => ⟨⟨rfl, .inl rfl⟩, nofun, rfl, rfl, rfl⟩, ?_⟩
  decide +kernel

def postingOf (page : Page) (s : State) : State := { s with xu := { s.xu with posting := some (posting page) } }

def writeOf (owed : Owed) (waited : Nat) : StatusWrite := { owed := owed, contents := statusFields State.reset, waited := waited }

def writing (owed : Owed) (s : State) : State := { s with xu := { s.xu with statusWrite := some (writeOf owed 0) } }

def bothOwed : Owed := { posted := true, orders := true }

/-- A post in a roll, with and without a write in progress; in the drain, which is done or goes on; the final one. -/
theorem test_witness_PostSucceeds :
    let s := postingOf (pageWith 1) rolling
    (∀ phase, Quiescent (closingIn phase s) ∧ (closingIn phase s).xu.posting = some (posting (pageWith 1)) ∧
      (closingIn phase s).cu.state = .closing ∧ (closingIn phase s).cu.phase = phase) ∧
      (s.ru.queue = [] ∧ s.ru.tallyOpen = false ∧ s.ru.abandoned = false ∧ (queued [aNote 1] s).ru.queue ≠ [] ∧
        s.xu.filling = none ∧ (filling (pageWith 1) s).xu.filling = some (pageWith 1) ∧ (pageWith 1).records ≠ []) ∧
      Quiescent s ∧ s.xu.posting = some (posting (pageWith 1)) ∧ s.cu.state ≠ .closing ∧ s.cu.phase ≠ .final ∧
      s.xu.xbase ≠ 0 ∧ s.xu.statusWrite = none ∧ Quiescent (writing bothOwed s) ∧
      (writing bothOwed s).xu.statusWrite.isSome = true ∧ rolling.xu.posting = none :=
  ⟨fun _ => ⟨⟨rfl, .inl rfl⟩, rfl, rfl, rfl⟩, ⟨rfl, rfl, rfl, nofun, rfl, rfl, by decide⟩, ⟨rfl, .inl rfl⟩, rfl, nofun, nofun,
    by decide, rfl, ⟨rfl, .inl rfl⟩, rfl, rfl⟩

/-- The page being posted, full; a filling page with records, and one without; in a roll, in the drain and the final post, the records
given up or not, and once ROLL_END has been taken. -/
theorem test_witness_PageWriteFails :
    let s := postingOf (pageWith 126) rolling
    let lost := fun ended : Bool =>
      let u := { rolling with ru := { rolling.ru with rollEndTaken := ended } }
      let v := testLoss ([aNote 1].foldl loseRecord u)
      if ended then captureFault v .pageWrite else issueFault v .pageWrite .none 0 0 1
    (∀ phase, Quiescent (closingIn phase s) ∧ (closingIn phase s).cu.state = .closing ∧
      (closingIn phase s).cu.phase = phase ∧ (closingIn phase s).xu.filling = none) ∧ (pageWith 126).records ≠ [] ∧
      s.ru.abandoned = false ∧ { s.ru with abandoned := true }.abandoned = true ∧
      (let v := testLoss (loseRecord { rolling with ru := { rolling.ru with abandoned := true } } (aNote 1))
       (captureFault v .pageWrite).cu.limitEvent = false) ∧ Quiescent s ∧ PagesOk s.xu ∧ s.xu.posting = some (posting (pageWith 126)) ∧
      (s.muFace .upper).skip = Tally.empty ∧ (s.muFace .lower).skip = Tally.empty ∧ s.cu.state ≠ .closing ∧
      s.cu.phase ≠ .final ∧ (∀ ended, (lost ended).cu.limitEvent = false) ∧
      (∀ n, Quiescent (filling (pageWith n) rolling) ∧ (filling (pageWith n) rolling).xu.posting = none ∧
        (filling (pageWith n) rolling).xu.filling = some (pageWith n)) ∧
      (pageWith 1).records ≠ [] ∧ (pageWith 0).records = [] ∧ rolling.xu.filling = none ∧ rolling.xu.posting = none :=
  ⟨fun _ => ⟨⟨rfl, .inl rfl⟩, rfl, rfl, rfl⟩, by decide, rfl, rfl, by decide +kernel, ⟨rfl, .inl rfl⟩,
    ⟨nofun, fun _ h => by obtain rfl := Option.some.inj h; exact ⟨pageWith_ok, rfl⟩⟩, rfl, rfl, rfl, nofun, nofun, by decide +kernel, fun _ => ⟨⟨rfl, .inl rfl⟩, rfl, rfl⟩, by decide, rfl, rfl, rfl⟩

theorem test_witness_StatusWriteEnds :
    let s := writing bothOwed rolling
    let again := { s with xu := { s.xu with statusWanted := some Owed.none } }
    Quiescent s ∧ s.xu.statusWrite = some (writeOf bothOwed 0) ∧ s.xu.statusWanted = none ∧
      Quiescent again ∧ again.xu.statusWanted = some Owed.none ∧ rolling.xu.statusWrite = none :=
  ⟨⟨rfl, .inl rfl⟩, rfl, rfl, ⟨rfl, .inr rfl⟩, rfl, rfl⟩

/-- No write in progress, with XBASE set or 0; one in progress; fields as before and other ones; an active and a pending part. -/
theorem test_witness_StatusBlockWritten :
    let part : Sourced FacePart := { part := facePart, slot := 0, id := 7 }
    rolling.xu.statusWrite = none ∧ rolling.xu.xbase ≠ 0 ∧ State.reset.xu.statusWrite = none ∧ State.reset.xu.xbase = 0 ∧
      (writing Owed.none rolling).xu.statusWrite.isSome = true ∧ statusFields idle ≠ statusFields rolling ∧
      (rolling.rsFace .upper).active = some part ∧ (idle.rsFace .upper).active = none ∧
      (rolling.rsFace .upper).pending = none ∧ { rolling.rsFace .upper with pending := some part }.pending = some part ∧
      (statusFields rolling).results.length = 16 ∧ (statusFields rolling).heads.length = 8 ∧
      (statusFields rolling).results[15]? = some OrderResult.notRun ∧
      (statusFields rolling).heads[7]? = some { link := .waiting, counters := HeadCounters.zero } ∧
      (statusFields rolling).capture = none := by
  decide +kernel

/-! ## Ticks and reads -/

theorem test_witness_TicksComeDue :
    let due := { rolling with xu := { rolling.xu with pollDue := true, changed := true } }
    let page := filling (pageWith 1) rolling
    let young := filling { pageWith 1 with age := 4 } rolling
    let still := { page with mu := { page.mu with stallCount := 10 } }
    Quiescent due ∧ due.cu.state ≠ .off ∧ due.xu.pollDue = true ∧ due.xu.sample = none ∧ due.xu.xbase ≠ 0 ∧
      due.xu.changed = true ∧ { due.xu with sample := some 0 }.sample.isSome = true ∧ off.cu.state = .off ∧
      rolling.xu.pollDue = false ∧
      page.xu.filling = some (pageWith 1) ∧ (pageWith 1).records ≠ [] ∧ page.shared = some sharedPart ∧
      sharedPart.postAge ≤ (pageWith 1).age ∧ { pageWith 1 with age := 4 }.age < sharedPart.postAge ∧
      young.xu.filling = some { pageWith 1 with age := 4 } ∧ still.cu.state ≠ .off ∧ still.mu.stallRaised = false ∧
      sharedPart.stallTime ≤ still.mu.stallCount ∧
      { still with mu := { still.mu with stallRaised := true } }.mu.stallRaised = true ∧
      (filling (pageWith 0) rolling).xu.filling = some (pageWith 0) ∧ (pageWith 0).records = [] ∧
      rolling.xu.filling = none ∧ idle.shared = none ∧ 9 < sharedPart.stallTime := by
  refine ⟨⟨rfl, .inl rfl⟩, nofun, rfl, rfl, ?_⟩
  refine ⟨by decide, rfl, rfl, rfl, rfl, rfl, by decide, rfl, ?_, ?_, rfl, nofun, rfl, ?_, rfl, rfl, rfl, rfl, rfl, ?_⟩ <;>
    decide

def readsInFlight (waited : Nat) (s : State) : State :=
  { ordered 4 s with
    xu :=
      { s.xu with
        sample := some waited
        copy := some { generation := 2, count := 1, waited := waited }
        reread := some { written := 1, waited := waited }
        posting := some { posting (pageWith 1) with waited := waited }
        statusWrite := some (writeOf bothOwed waited) }
    rs := { s.rs with load := some { slot := 0, copy := [], waited := waited } } }

theorem test_witness_ReadsFail :
    (∀ (waited : Nat) (read : ReadKind), Quiescent (readsInFlight waited rolling) ∧
      readWaited (readsInFlight waited rolling) read = some waited ∧ readWaited rolling read = none) ∧
      (let s := readsInFlight 2 rolling
       s.xu.sample.isSome = true ∧ s.xu.resample = false ∧ s.xu.copy.isSome = true ∧ s.xu.reread.isSome = true ∧
        s.rs.load.isSome = true ∧ s.cu.batch.isSome = true ∧ s.xu.posting.isSome = true ∧
        s.xu.statusWrite.isSome = true) ∧
      (let again := fun s : State => { s with xu := { s.xu with sample := some 0, resample := true } }
       Quiescent (again rolling) ∧ (again rolling).xu.sample.isSome = true ∧ (again rolling).xu.resample = true ∧
        (again rolling).cu.state ≠ .off ∧ Quiescent (again off) ∧ (again off).xu.resample = true ∧
        (again off).cu.state = .off) :=
  ⟨fun _ r => by cases r <;> exact ⟨⟨rfl, .inl rfl⟩, rfl, rfl⟩, ⟨rfl, rfl, rfl, rfl, rfl, rfl, rfl, rfl⟩,
    ⟨rfl, .inl rfl⟩, rfl, rfl, nofun, ⟨rfl, .inl rfl⟩, rfl, rfl⟩

theorem test_witness_SampleCompletes :
    let s := { rolling with xu := { rolling.xu with sample := some 0 } }
    Quiescent s ∧ s.xu.sample.isSome = true ∧ rolling.xu.sample = none :=
  ⟨⟨rfl, .inl rfl⟩, rfl, rfl⟩

theorem test_witness_BatchCopyCompletes :
    let s := fun (count : Word) (x : Inspection) =>
      inState x { rolling with xu := { rolling.xu with copy := some { generation := 2, count := count, waited := 0 } } }
    (∀ count x, Quiescent (s count x) ∧ (s count x).xu.copy = some { generation := 2, count := count, waited := 0 } ∧
      (s count x).cu.state = x ∧ (s count x).xu.xbase ≠ 0) ∧
      1 ≤ (1 : Word).toNat ∧ (16 : Word).toNat ≤ 16 ∧ (0 : Word).toNat = 0 ∧ 16 < (17 : Word).toNat ∧
      rolling.xu.copy = none :=
  ⟨fun _ _ => ⟨⟨rfl, .inl rfl⟩, rfl, rfl, by show (0x10000 : BitVec 64) ≠ 0; decide⟩, by decide, by decide,
    by decide, by decide, rfl⟩

theorem test_witness_StockRereadCompletes :
    let s := { rolling with xu := { rolling.xu with reread := some { written := 16, waited := 0 } } }
    Quiescent s ∧ s.xu.reread = some { written := 16, waited := 0 } ∧ (16 - s.xu.consumed : Word).toNat ≤ 16 ∧
      ¬ (17 - s.xu.consumed : Word).toNat ≤ 16 ∧ s.xu.pagesTaken = 0 ∧
      (∀ i : Fin 16, (Vector.replicate 16 { address := 0, pages := 0 } : Vector Descriptor 16)[i]
        = descriptorAt (Vector.replicate 256 0) i.val) ∧ rolling.xu.reread = none := by
  refine ⟨⟨rfl, .inl rfl⟩, rfl, by decide, by decide, rfl, ?_, rfl⟩
  decide +kernel

/-! ## Orders -/

theorem quiescent_ordered (code : Byte) (x : Inspection) : Quiescent (ordered code (inState x rolling)) := ⟨rfl, .inl rfl⟩

theorem test_witness_StartOpensRoll :
    let s := fun x => ordered 1 (inState x rolling)
    (∀ x, Quiescent (s x) ∧ (s x).cu.state = x) ∧ orderDue (s .idle) = some (.start 0 0) ∧
      orderDue (s .running) = some (.start 0 0) ∧ orderDue rolling ≠ some (.start 0 0) ∧
      orderDue (ordered 1 idle) = some (.start 0 0) ∧ (ordered 1 idle).rs.shared = none ∧
      (s .idle).rs.shared = some { part := sharedPart, slot := 0, id := 7 } ∧
      (s .idle).cu.batch = some (batchOf (orderList 1 0 0 0 0)) ∧ (-1000000001#32).toInt < -1000000000 ∧
      1000000000 < (1000000001#32).toInt ∧ -1000000000 ≤ (-1000000000#32).toInt ∧ (1000000000#32).toInt ≤ 1000000000 ∧
      (s .idle).xu.xbase ≠ 0 ∧ (s .idle).xu.statusWrite = none := by
  refine ⟨fun x => ⟨quiescent_ordered 1 x, rfl⟩, ?_⟩
  decide +kernel

theorem test_witness_StopFinishesFaces :
    let s := fun x => ordered 2 (inState x rolling)
    let coated := { s .running with mu := { rolling.mu with faces := PerFace.both { MuFace.powerOn with sect := .coated } } }
    (∀ x, Quiescent (s x) ∧ (s x).cu.state = x ∧ orderDue (s x) = some .stop) ∧ Quiescent coated ∧
      orderDue coated = some .stop ∧ bothFinished coated = false ∧ (∀ f, (coated.muFace f).sect ≠ .wait) ∧
      (s .running).cu.batch = some (batchOf (orderList 2 0 0 0 0)) ∧ (s .running).xu.xbase ≠ 0 ∧
      (s .running).xu.statusWrite = none ∧ ∀ f, ((s .running).muFace f).sect = .wait := by
  refine ⟨fun x => ⟨quiescent_ordered 2 x, rfl, ?_⟩, ⟨rfl, .inl rfl⟩, ?_, rfl, fun f => ?_, rfl, by decide, rfl, fun f => ?_⟩
  · cases x <;> decide +kernel
  · decide +kernel
  · cases f <;> nofun
  · cases f <;> rfl

theorem test_witness_HaltEndsRoll :
    let s := fun x => ordered 3 (inState x rolling)
    let closing := fun phase => closingIn phase (s .closing)
    let abandoned := { s .closing with cu := { (s .closing).cu with abandon := true } }
    (∀ x, Quiescent (s x) ∧ (s x).cu.state = x ∧ orderDue (s x) = some .halt ∧
      (s x).cu.batch = some (batchOf (orderList 3 0 0 0 0))) ∧
      (∀ phase, Quiescent (closing phase) ∧ (closing phase).cu.state = .closing ∧ (closing phase).cu.phase = phase ∧
        (closing phase).cu.abandon = false ∧ orderDue (closing phase) = some .halt ∧ (closing phase).xu.posting = none ∧
        (closing phase).xu.filling = none ∧ (filling (pageWith 1) (closing phase)).xu.filling = some (pageWith 1) ∧
        (postingOf (pageWith 1) (closing phase)).xu.posting.isSome = true) ∧
      (pageWith 1).records ≠ [] ∧ Quiescent abandoned ∧ abandoned.cu.state = .closing ∧ abandoned.cu.abandon = true ∧ orderDue abandoned = some .halt := by
  refine ⟨fun x => ⟨quiescent_ordered 3 x, rfl, ?_, rfl⟩, fun x => ⟨⟨rfl, .inl rfl⟩, rfl, rfl, rfl, ?_, rfl, rfl, rfl, rfl⟩,
    by decide, ⟨rfl, .inl rfl⟩, rfl, rfl, ?_⟩
  · cases x <;> decide +kernel
  · cases x <;> decide +kernel
  · decide +kernel

theorem test_witness_RecipeLoadBegins :
    Quiescent (ordered 4 idle 4) ∧ orderDue (ordered 4 idle 4) = some (.recipe 4) ∧ 3 < (4 : Word).toNat ∧
      Quiescent (ordered 4 off 3) ∧ orderDue (ordered 4 off 3) = some (.recipe 3) ∧ (3 : Word).toNat ≤ 3 ∧
      (ordered 4 off 3).cu.state = .off ∧ orderDue (ordered 4 idle 3) = some (.recipe 3) ∧
      (ordered 4 idle 3).cu.state ≠ .off := by
  refine ⟨⟨rfl, .inl rfl⟩, ?_, by decide, ⟨rfl, .inl rfl⟩, ?_⟩ <;> decide +kernel

/-- A face part without lanes, every field at a value R151 admits. -/
def slotFace : List Byte :=
  padTo 0x400
    (padTo 0x00C [0, 0, 0, 0, 10] ++ [10, 0, 0, 0, 0, 0, 0, 0, 1, 0, 2, 2, 4, 4, 8, 0, 1])

/-- A recipe slot that passes every check: no head, no lane. -/
def slotBytes0 : List Byte :=
  padTo 0x200
    (padTo 0x084
      (padTo 0x06C (padTo 0x040 [7, 0, 0, 0, 1] ++ [4, 0, 4, 0, 20, 0, 50]) ++ [5, 0, 10])
      ++ [3, 0, 1, 0, 0, 0, 0, 0, 3, 0, 1])
    ++ slotFace ++ slotFace.take 960

def slot0 : SlotBytes := Vector.mk slotBytes0.toArray (by decide +kernel)

def blankSlot : SlotBytes := Vector.replicate 2496 0

def loading (x : Inspection) : State :=
  let s := ordered 4 (inState x rolling)
  { s with rs := { s.rs with load := some { slot := 0, copy := [], waited := 0 } } }

theorem slot0_valid : validate resetStraps slot0.toList = none := by decide +kernel

theorem test_witness_RecipeLoadCompletes :
    let same := fun x =>
      { loading x with
        rs :=
          { (loading x).rs with
            shared := some { part := readShared slot0.toList, slot := 0, id := 7 } } }
    (∀ x, Quiescent (loading x) ∧ (loading x).rs.load = some { slot := 0, copy := [], waited := 0 } ∧
      (loading x).cu.batch = some (batchOf (orderList 4 0 0 0 0)) ∧ (loading x).cu.state = x ∧
      (loading x).straps = resetStraps) ∧
      validate resetStraps blankSlot.toList = some { code := 1, offset := 0x004 } ∧
      validate resetStraps slot0.toList = none ∧
      (∀ x, Quiescent (same x) ∧ (same x).shared = some (readShared slot0.toList) ∧ (same x).cu.state = x) ∧
      (loading .running).shared ≠ some (readShared slot0.toList) ∧
      (readShared slot0.toList).heads[(0 : Port)].present = false ∧ oneHead.present = true ∧
      (loading .idle).straps.fitted 0 = true ∧ ((loading .idle).head 0).hello = none ∧
      (helloFields (helloPacket 0 1)).headId.toNat = (0 : Port).val ∧
      (helloFields (helloPacket 0 1)).count.toNat = oneHead.width ∧
      (helloFields (helloPacket 0 2)).count.toNat ≠ oneHead.width := by
  refine ⟨fun x => ⟨⟨rfl, .inl rfl⟩, rfl, rfl, rfl, rfl⟩, ?_, slot0_valid, fun x => ⟨⟨rfl, .inl rfl⟩, rfl, rfl⟩, ?_⟩ <;>
    decide +kernel

/-- The blank slot fails the first test of the first check; the other slot passes every one. -/
theorem test_witness_RecipeChecked :
    (∃ test rest checks, checkTests resetStraps blankSlot.toList = [] ++ (1, [] ++ test :: rest) :: checks ∧
      test.fails = true ∧ test.offset = 0x004) ∧
      validate resetStraps slot0.toList = none ∧
      validate resetStraps blankSlot.toList = some { code := 1, offset := 0x004 } :=
  ⟨⟨_, _, _, rfl, by decide +kernel, rfl⟩, slot0_valid, by decide +kernel⟩

theorem test_witness_FlushNoteMarkonUnknown :
    let flush := ordered 5 rolling
    let note := ordered 6 rolling 9
    let markon := ordered 7 rolling
    let active := { markon with pins := { markon.pins with breakInput := true } }
    (∀ code op, Quiescent (ordered code rolling op)) ∧ orderDue flush = some .flush ∧
      (filling (pageWith 1) flush).xu.filling = some (pageWith 1) ∧ (pageWith 1).records ≠ [] ∧ flush.xu.filling = none ∧
      flush.ru.queue = [] ∧ (queued [aNote 1] flush).ru.queue ≠ [] ∧ orderDue note = some (.note 9) ∧
      note.inspecting = true ∧ note.ru.nextSeq ≠ Config.sequenceLimit ∧
      orderDue (inState .closing note) = some (.note 9) ∧ (inState .closing note).inspecting = false ∧
      orderDue active = some .markon ∧ active.pins.breakInput = true ∧ markon.pins.breakInput = false ∧
      (broken markon).ku.breakFlag = true ∧ orderDue (broken markon) = some .markon ∧ markon.ku.breakFlag = false ∧
      orderDue (ordered 0x0B rolling) = some (.unknownOrder 0x0B) ∧
      orderDue (ordered 0 rolling) = some (.unknownOrder 0) := by
  refine ⟨fun _ _ => ⟨rfl, .inl rfl⟩, ?_⟩
  decide +kernel

def levelsOf (l : Byte) : Vector Byte 8 := (Vector.replicate 8 0).set 0 l

theorem test_witness_ClearLevelsHeadreset :
    let reset := fun h : Byte => ordered 10 rolling h
    (∀ code op, Quiescent (ordered code rolling op)) ∧ orderDue (ordered 8 rolling) = some .clear ∧
      orderDue (ordered 9 rolling 3) = some (.levels (levelsOf 3)) ∧ (∀ i : Fin 8, (levelsOf 3)[i].toNat ≤ 3) ∧
      orderDue (ordered 9 rolling 4) = some (.levels (levelsOf 4)) ∧ 3 < (levelsOf 4)[(0 : Fin 8)].toNat ∧
      orderDue (reset 8) = some (.headreset 8) ∧ 7 < (8 : Word).toNat ∧ orderDue (reset 7) = some (.headreset 7) ∧
      (7 : Word).toNat = (7 : Port).val ∧ (fourPorts (reset 7)).straps.fitted 7 = false ∧
      (reset 7).straps.fitted 7 = true ∧ openLines ((reset 7).luFace (headFace (reset 7) 7)).stream = [] := by
  refine ⟨fun _ _ => ⟨rfl, .inl rfl⟩, ?_⟩
  decide +kernel

/-! ## Shared operations -/

/-- Where the tests of a decision meet; a policy entry of each target; requests of each outcome, on an IDLE and on an ACTIVE output,
with the break flag set and clear; a queue split at a fire position; the last number and the one past it. -/
theorem test_witness_MarkRequestDecided :
    let e : MarkEntry := { out := .a, fire := 0, length := 3, source := 1 }
    (32 ≤ 32 ∧ (5 : Int) ≤ 5 ∧ (5 : Int) < 6 ∧ (5 : Int) = 5 ∧ (4 : Int) < 5) ∧
      (rolling.shared = some sharedPart ∧ rolling.straps.twoMarkers = true ∧ sharedPart.policy.spot = .a ∧
        { sharedPart.policy with spot := .b }.spot = .b ∧ { sharedPart.policy with spot := .none }.spot = .none ∧
        idle.shared = none) ∧
      [markOutcome 0 0 31 1 3, markOutcome 0 0 32 1 3, markOutcome 0 0 32 0 3, markOutcome 0 0 0 (-3) 3,
          markOutcome (-1) 0 31 0 3, markOutcome (-1) 0 32 0 3, markOutcome (-1) 0 0 (-2) 3] =
        [.queued, .full, .partly, .late, .partly, .full, .late] ∧
      ((takeRequest rolling e).2.mark = .partly ∧ rolling.mu.p = rolling.mu.h ∧ rolling.ku.breakFlag = false ∧
        { rolling.ku with breakFlag := true }.breakFlag = true ∧ rolling.ku.a = .idle ∧
        { rolling.ku with a := .active 2 }.a = .active 2) ∧
      ([e] ++ [{ e with fire := 1 }] = [e, { e with fire := 1 }] ∧ e.fire ≤ e.fire ∧ e.fire < { e with fire := 1 }.fire) ∧
      (aNote 1).body.kind ≠ 0x40 ∧ 4294967295 ≤ 4294967295 ∧ 4294967295 < 4294967296 := by
  decide +kernel

/-- A page that holds a record has a first and a last one. -/
theorem test_witness_RecordFillsSlots :
    (pageWith 2).records.head? = some (aNote 1) ∧ (pageWith 2).records.getLast? = some (aNote 2) ∧
      twoSlots.body.slots = 2 := by
  decide +kernel

/-- The numbers at the sequence limit, the last one and past it; one and two slots that fit or not; records of each group; a run whose
next number it is, none, and 64 runs. -/
theorem test_witness_IssueTakesRecord :
    let s := fun (next slots : Nat) => { rolling with ru := { rolling.ru with nextSeq := next, queue := (pageWith slots).records } }
    let run : LossRun := { aLossRun with count := 2 }
    (s 4294963200 0).ru.nextSeq = 4294963200 ∧ (s 4294967295 0).ru.nextSeq ≤ 4294967295 ∧
      4294967295 < (s 4294967296 0).ru.nextSeq ∧ (s 1 63).ru.tallyOpen = false ∧
      slotsOf (s 1 62).ru.queue + twoSlots.body.slots ≤ 64 ∧ 64 < slotsOf (s 1 63).ru.queue + twoSlots.body.slots ∧
      slotsOf (s 1 63).ru.queue + (aNote 1).body.slots ≤ 64 ∧ (openTally [] aLossRun rolling).ru.tallyOpen = true ∧
      twoSlots.body.kind ≠ 0x40 ∧ (RecordBody.fault .memoryRead .none 0 0 1).kind = 0x40 ∧
      run.first + run.count = 11 ∧ run.first + run.count ≠ 12 ∧ run.first ≤ 12 ∧
      (∀ x ∈ lossRuns, x.entered < 64) ∧ (lossRuns.take 63).length < 64 ∧ 64 ≤ lossRuns.length := by
  decide +kernel

/-- A table of spots with these entries first and every other entry taken by a spot of another lane. -/
def spotTable (x y z : Option Spot) : SmFace :=
  { SmFace.powerOn with
    spots := (((Vector.replicate 64 (some { aSpot with lane := 9 })).set 0 x).set 1 y).set 2 z }

/-- Spots at the limits of each class, of joining, of age and of handover, and tables in which a run joins none, one and two. -/
theorem test_witness_SpotsGrowAndClose :
    let joined := fun m : SmFace => (List.finRange 64).filter fun i => m.spots[i].any (joins facePart aRun)
    let near := { aSpot with columnMax := 10, lastLine := 0 }
    let older := { near with columnMin := 4 }
    { aSpot with pixels := 1 }.pixels < facePart.minPixels ∧ ¬ aSpot.pixels < facePart.minPixels ∧
      (aSpot.lights.t = true ∧ aSpot.cdExtent ≤ facePart.pinholeCd ∧ aSpot.mdExtent ≤ facePart.pinholeMd) ∧
      (let x := { aSpot with columnMax := 8 }
       ¬ x.cdExtent ≤ facePart.pinholeCd ∧ x.cdExtent ≤ facePart.spotCd ∧ x.mdExtent ≤ facePart.spotMd) ∧
      (let x := { aSpot with columnMax := 9 }
       ¬ x.cdExtent ≤ facePart.pinholeCd ∧ ¬ x.cdExtent ≤ facePart.spotCd) ∧
      joined (spotTable (some aSpot) (some aSpot) (some aSpot)) = [] ∧
      joined (spotTable (some aSpot) none (some aSpot)) = [] ∧ (spotTable (some aSpot) none none).spots[1] = none ∧
      joined (spotTable none (some near) none) = [1] ∧ joined (spotTable (some near) none (some older)) = [0, 2] ∧
      older.firstLine = near.firstLine ∧ older.columnMin < near.columnMin ∧ aSpot.firstLine < { near with firstLine := 2 }.firstLine ∧
      { aSpot with lastLine := 1 }.lastLine = desc.number ∧ aSpot.lastLine ≠ desc.number := by
  decide +kernel

/-- Face tables with one open spot and with two. -/
def spotFace (x y : Option Spot) : PerFace SmFace :=
  PerFace.both { SmFace.powerOn with spots := (SmFace.powerOn.spots.set 0 x).set 5 y }

/-- A spot alone on its face that is old enough to close or not, on a skipped line and on others; one and two spots that ask for a
handover; two spots to be cut, apart in their stamps or in their columns alone. -/
theorem test_witness_SpotsGrowAndClose_tables :
    let one := { rolling with sm := spotFace (some aSpot) none }
    let long := { aSpot with lastLine := 8 }
    let other := { long with columnMin := 9, columnMax := 10 }
    let two := { rolling with sm := spotFace (some long) (some other) }
    let asks := fun x : Spot => decide (x.lastLine = 8) && qualifies lanePart x
    let open1 := fun (s : State) => (List.finRange 64).filter fun j => (s.smFace .upper).spots[j].isSome
    (one.smFace .upper).spots[0] = some aSpot ∧ open1 one = [0] ∧ open1 two = [0, 5] ∧
      { desc with skipped := true }.skipped = true ∧ desc.skipped = false ∧ aSpot.lastLine ≠ desc.number ∧
      facePart.reach ≤ (quietSpot facePart (lineOf []) { aSpot with quiet := 1 }).quiet ∧
      ¬ facePart.reach ≤ (quietSpot facePart (lineOf []) aSpot).quiet ∧ asks long = true ∧ asks other = true ∧
      asks aSpot = false ∧ (two.smFace .upper).spots[0] = some long ∧ (two.smFace .upper).spots[5] = some other ∧
      long.columnMin < other.columnMin ∧ long.firstStamp = other.firstStamp ∧
      long.firstStamp < { other with firstStamp := 5 }.firstStamp := by
  decide +kernel

/-- Lines observed and held; a claim by none, either and both of two tracks; tracks of each state at their counts; two tracks as near
as a window reaches and farther. -/
theorem test_witness_TracksLive :
    let t : Track := { aTrack with state := .tentative, centre2 := 24 }
    let s := rolling.setTrack .upper 0 (some aTrack)
    isHeld facePart desc [] aTrack = false ∧ isHeld facePart { desc with skipped := true } [] aTrack = true ∧
      (0 : Fin 24) < 1 ∧ (lanePart.lane 0).kind = .coated ∧ desc.sect = .coated ∧ { desc with sect := .gap }.sect ≠ .coated ∧
      candidateFor lanePart desc aRun t = true ∧ candidateFor lanePart desc aRun { t with centre2 := 27 } = false ∧
      s.track .upper 0 = some aTrack ∧ t.state = .tentative ∧ (lanePart.lane 0).confirmHits ≤ t.hits ∧
      { t with hits := 3 }.hits < (lanePart.lane 0).confirmHits ∧ (lanePart.lane 0).tentativeLimit < 4 ∧
      t.missRun ≤ (lanePart.lane 0).tentativeLimit ∧ rolling.te.nextStreak ≤ 16777215 ∧ 16777215 < 16777216 ∧
      aTrack.state = .confirmed ∧ (lanePart.lane 0).fadeMisses ≤ 2 ∧ aTrack.missRun < (lanePart.lane 0).fadeMisses ∧
      { t with state := .fading }.state = .fading ∧ (lanePart.lane 0).endMisses ≤ 4 ∧
      aTrack.missRun < (lanePart.lane 0).endMisses ∧ (1 : Fin 24) ≠ 0 ∧
      (s.setTrack .upper 1 (some t)).track .upper 1 = some t ∧
      distance aTrack.centre2 t.centre2 ≤ 2 * (lanePart.lane 0).window ∧
      2 * (lanePart.lane 0).window < distance aTrack.centre2 { t with centre2 := 25 }.centre2 := by
  decide +kernel

/-- A full table; a lowest free entry above a track of another lane; two tracks of a lane, apart in age or in their index alone; a
hit at and below the next repeat stamp and one that moves it by two intervals; a TENTATIVE survivor below its confirm hits and at them,
with numbers left and with none. -/
theorem test_witness_TracksLive_handover :
    let other : Track := { aTrack with lane := 1 }
    let table := fun l : List (Option Track) =>
      { rolling with te := { rolling.te with faces := PerFace.both { TeFace.powerOn with tracks := Vector.ofFn fun i => l.getD i.val none } } }
    let s := table [some other]
    let y : Track := { aTrack with state := .tentative, hits := 1 }
    let claim : Claimed := { run := aRun, track := some 0 }
    let u := countTrack lanePart desc [] [aRun] aTrack
    (∀ i : Fin 24, ((table (List.replicate 24 (some other))).teFace .upper).tracks[i] ≠ none) ∧
      (s.teFace .upper).tracks[1] = none ∧ (∀ j : Fin 24, j < 1 → (s.teFace .upper).tracks[j] ≠ none) ∧
      (∀ j : Fin 24, j ≠ 1 → ∀ z ∈ (s.teFace .upper).tracks[j], z.lane ≠ 0) ∧
      ((table [some aTrack, some y]).track .upper 0 = some aTrack ∧ (table [some aTrack, some y]).track .upper 1 = some y) ∧
      aTrack.firstStamp = y.firstStamp ∧ aTrack.firstStamp < { y with firstStamp := 1 }.firstStamp ∧
      ([claim].filter fun c => decide (c.track = some (0 : Fin 24))).map Claimed.run = [aRun] ∧
      u.state = .confirmed ∧ [aRun] ≠ [] ∧ isHeld lanePart desc [] aTrack = false ∧
      { sharedPart with repeatInterval := 1 }.repeatInterval ≠ 0 ∧ sharedPart.repeatInterval = 0 ∧
      desc.stamp < { u with nextRepeat := 5 }.nextRepeat ∧ u.nextRepeat + (1 - 1 : Nat) * 1 ≤ desc.stamp ∧
      desc.stamp < u.nextRepeat + (1 : Nat) * 1 ∧ (1 : Int) + (2 - 1 : Nat) * 2 ≤ desc.stamp ∧ desc.stamp < 1 + (2 : Nat) * 2 ∧
      y.state = .tentative ∧ (y.takeIn { y with hits := 2 }).hits < (lanePart.lane y.lane).confirmHits ∧
      (lanePart.lane y.lane).confirmHits ≤ (y.takeIn { y with hits := 3 }).hits ∧ rolling.te.nextStreak ≤ 16777215 ∧
      16777215 < 16777216 := by
  decide +kernel

/-- A list whose second entry matches; faces finished, past the due stamp and before it; lists of 127 and of 128 entries; windows that
reach the floor or a stretch or neither; stretches up to the previous line; logs of 63 and of 64. -/
theorem test_witness_ClosuresPairedAndResolved :
    let e : PairEntry := { closure := closure .lower, due := 6 }
    let far : PairEntry := { closure := { closure .lower with cdMin := 8, cdMax := 9 }, due := 6 }
    let withList := fun list => { withRecipe idle with pu := { idle.pu with active := true, list := list } }
    let s := withList ([far] ++ e :: [])
    let c := mapClosure s (closure .upper)
    let stretch : Stretch := { kind := .whole, first := 1, last := 2 }
    s.pu.active = true ∧ rolling.pu.active = false ∧ s.pu.list = [far] ++ e :: [] ∧
      ¬ far.closure.cdMin ≤ c.cdMax + cdTolerance s ∧ e.closure.face = otherFace c.face ∧
      c.cdMin ≤ e.closure.cdMax + cdTolerance s ∧ e.closure.cdMin ≤ c.cdMax + cdTolerance s ∧
      c.first ≤ e.closure.last + mdWindow s ∧ e.closure.first ≤ c.last + mdWindow s ∧
      (∀ x ∈ (withList (List.replicate 128 far)).pu.list, entryMatches (withList (List.replicate 128 far)) c x = false) ∧
      { s.puFace .lower with finished := true }.finished = true ∧ (s.puFace .lower).finished = false ∧
      c.last + mdWindow s ≤ { s.puFace .lower with processed := 6 }.processed ∧
      (s.puFace .lower).processed < c.last + mdWindow s ∧ (List.replicate 127 far).length < 128 ∧
      128 ≤ (List.replicate 128 far).length ∧ far.due ≤ c.last + mdWindow s ∧
      c.last + mdWindow s < { far with due := 7 }.due ∧
      c.first - mdWindow s ≤ { s.puFace .lower with floor := 2 }.floor ∧ ¬ c.first - mdWindow s ≤ (s.puFace .lower).floor ∧
      stretch.first ≤ e.due ∧ c.first - mdWindow s ≤ stretch.last ∧ ¬ c.first - mdWindow s ≤ { stretch with last := 1 }.last ∧
      { s.puFace .lower with lastLine := some 2 }.lastLine = some stretch.last ∧ (s.puFace .lower).lastLine = none ∧
      (List.replicate 63 stretch).length < 64 ∧ 64 ≤ (List.replicate 64 stretch).length ∧
      (closure .upper).face = .upper ∧ (closure .lower).face = .lower ∧ rolling.shared = some sharedPart ∧
      sharedPart.mirror = false ∧ { sharedPart with mirror := true }.mirror = true := by
  decide +kernel

theorem test_witness_CheckWord : (linePacket 1).bytes = ([0x04, 0, 1, 1, 0, 1, 9] : List Byte) ++
    [(checkWord [0x04, 0, 1, 1, 0, 1, 9] >>> 8).setWidth 8, (checkWord [0x04, 0, 1, 1, 0, 1, 9]).setWidth 8] := by
  decide +kernel

/-! ## Small effects -/

/-- R26: the check word over the digits 1 to 9. -/
theorem test_checkWord : checkWord [0x31, 0x32, 0x33, 0x34, 0x35, 0x36, 0x37, 0x38, 0x39] = 0x29B1#16 := by decide +kernel

/-- R195: every order code, with its operands where the entry table puts them. -/
theorem test_orderCodes :
    let entry := fun code : Byte => [code, 0, 0, 0, 0, 0, 0, 0, 1, 2, 3, 4, 5, 6, 7, 8]
    (List.range 12).map (fun n => orderOf (entry (BitVec.ofNat 8 n))) =
      [.unknownOrder 0, .start 0x04030201 0x08070605, .stop, .halt, .recipe 0x04030201, .flush, .note 0x0807060504030201,
        .markon, .clear, .levels #v[1, 2, 3, 4, 5, 6, 7, 8], .headreset 0x04030201, .unknownOrder 11] := by
  decide +kernel

/-- R24: of two heads that overlap, the lower-numbered one owns the columns they share. -/
theorem test_ownedRange :
    let heads := (emptyHeads.set 0 { oneHead with origin := 200 }).set 1 oneHead
    ownedRange heads 0 = some { lo := 200, hi := 455 } ∧ ownedRange heads 1 = some { lo := 0, hi := 199 } := by
  decide

/-- R161: ENABLE leaves OFF, starts a sample and writes the status block. -/
theorem test_enableSet :
    let t := after .enableSet { off with xu := { off.xu with enable := false } }
    t.cu.state = .idle ∧ t.xu.sample = some 0 ∧ t.xu.statusStamp = 1 ∧ t.xu.statusWrite.isSome = true := by
  decide +kernel

/-- R178: the low 12 bits of XBASE stay 0, and nothing is taken outside OFF. -/
theorem test_xbaseWrite :
    (after (.xbaseWrite .lo 0x12345FFF) State.reset).xu.xbase = 0x12345000 ∧
      (after (.xbaseWrite .lo 0x12345FFF) idle).xu.xbase = 0x10000 := by
  decide +kernel

/-- R2, R6, R27: an accepted step onto line 1 of a roll triggers its ready head, and in WAIT the line holds no patch. -/
theorem test_lineTriggered :
    let s := onHead0 (fun h => { h with link := .ready }) { held 10 9 with cu := rolling.cu }
    let t := after (.encoderHoldExpiry .a quiet) { s with mu := { s.mu with p := 3, h := 3 } }
    t.mu.h = 4 ∧ (t.head 0).link = .live ∧ (t.head 0).outstanding = [1] ∧ (t.muFace .upper).nextLine = 2 ∧
      (openLines (t.luFace .upper).stream).map (fun x => (x.desc.number, x.desc.patchIndex, x.expected)) = [(1, 0, [0])] ∧
      t.out.contains (.link 0 (triggerPacket 1 .t)) = true := by
  decide +kernel

/-- R36, R39: the deadline of a line whose head has sent nothing leaves its columns blind and fails the head. -/
theorem test_lineDeadline :
    let s := streamOf [.opened { openLine with expected := [0] }] (onHead0 (fun h => { h with link := .live }) rolling)
    let t := after (.lineDeadlineExpiry .upper) { s with mu := { s.mu with us := 50 } }
    (t.luFace .upper).stream = [.line { desc := desc, pixels := [], blind := [{ lo := 0, hi := 255 }] }] ∧
      (t.head 0).link = .failed ∧ (t.head 0).counters.missing = 1 ∧ t.cu.capture = some { code := .headFailed, stamp := 0 } := by
  decide +kernel

/-- R49, R51: a gap of one column is bridged, one of two is not, and a blind column next to a run marks it. -/
theorem test_lineRuns :
    (lineRuns lanePart
      { desc := desc, pixels := [{ first := 0, values := [0, 9, 0, 12, 0, 0, 8, 0, 0] }], blind := [{ lo := 9, hi := 15 }] }).map
        (fun r => (r.first, r.last, r.pixels, r.minValue, r.maxValue, r.blindEdge)) =
      [(1, 3, 2, 9, 12, false), (6, 6, 1, 8, 8, false)] ∧
    (lineRuns lanePart
      { desc := desc, pixels := [{ first := 0, values := [0, 0, 0, 0, 0, 0, 0, 8, 0] }], blind := [{ lo := 9, hi := 15 }] }).map
        (fun r => r.blindEdge) = [true] := by
  decide +kernel

/-- R61 to R64: a run joins the spots it comes near and merges them into the older one; a run far from all opens a spot. -/
theorem test_spotsMerge :
    let younger := { aSpot with columnMin := 12, columnMax := 13, firstLine := 2 }
    let m := { SmFace.powerOn with spots := (SmFace.powerOn.spots.set 3 (some younger)).set 5 (some aSpot) }
    let t := offerRun { lanePart with link := 1 } { desc with number := 3 } m { aRun with first := 7, last := 11, pixels := 5 }
    (taken t.spots).map (fun x => (x.1.val, x.2.columnMin, x.2.columnMax, x.2.pixels, x.2.lastLine)) = [(5, 5, 13, 9, 3)] ∧
      (taken (offerRun lanePart desc m { aRun with first := 0, last := 1 }).spots).length = 3 := by
  decide +kernel

/-- R80, R82, R83: a track takes the run in its window, and without one the line is a miss. -/
theorem test_trackCounts :
    let s := { rolling with te := full.te }
    (taken ((trackLine s .upper lanePart (lineOf [aRun])).1.teFace .upper).tracks).map (fun x => (x.2.hits, x.2.missRun)) = [(5, 0)] ∧
      (taken ((trackLine s .upper lanePart (lineOf [])).1.teFace .upper).tracks).map (fun x => (x.2.hits, x.2.missRun)) =
        [(4, 1)] := by
  decide +kernel

/-- R106: a closure on the other face, within the tolerance, pairs: one THROUGH record, its mark queued at the earlier stamp. -/
theorem test_through :
    let s := { rolling with pu := { rolling.pu with active := true, list := [{ closure := closure .lower, due := 6 }] } }
    let t := takeClosure s (closure .upper)
    t.pu.list = [] ∧ t.pu.throughs = 1 ∧ t.ru.queue.map (fun r => (r.seq, r.mark)) = [(1, .queued)] ∧
      t.ku.queue.map MarkEntry.fire = [4] := by
  decide +kernel

/-- R140, R142: with 64 slots used a record is lost; a drain to eight free slots lets LOSS be reported. -/
theorem test_loss :
    let t := issue (queued (pageWith 64).records rolling) (.note 0 0)
    t.ru.tallyOpen = true ∧ t.ru.lostTotal = 1 ∧
      (let u := testLoss { t with ru := { t.ru with queue := t.ru.queue.drop 8 } }
       u.ru.tallyOpen = false ∧ u.ru.queue.length = 57 ∧ u.ru.queue.getLast?.map Record.seq = some 66 ∧
        u.xu.flags = 0x40) := by
  decide +kernel

/-- R142: a run that joins late with a lower first number is reported after the older one. -/
theorem test_lossOrder :
    let r := joinLoss (joinLoss rolling.ru 20 0 (.note 0 0)) 5 0 (.note 0 0)
    r.runs.map LossRun.first = [5, 20] ∧
      ((testLoss { rolling with ru := r }).ru.queue.map fun x =>
        match x.body with
        | .loss first _ _ _ _ _ => first
        | _ => 0) = [20, 5] := by
  decide +kernel

/-- R168, R133: `start` opens the roll; its first record names the recipe. -/
theorem test_start :
    let t := after (.start 0 0) (ordered 1 (inState .idle rolling))
    t.cu.state = .running ∧ t.ru.queue = [{ seq := 1, mark := .none, body := .rollStart 0 0 0 7 }] ∧ t.xu.taken = 1 ∧
      t.xu.results[0] = plainResult .done := by
  decide +kernel

/-- R164, R165: a roll with nothing to report is closed with ROLL_END, which waits for a page. -/
theorem test_closeout :
    let t := after .closeoutBegin (closingIn .waiting rolling)
    t.ru.queue.map Record.body = [.rollEnd 0 .halt 0 0 0 0 0] ∧ t.cu.phase = .drain ∧ t.cu.state = .closing := by
  decide +kernel

/-- R196, R197: the lengths of the status block up to its closing stamp and of the longest record. -/
theorem test_lengths :
    (statusBytes 1 (statusFields rolling)).length = 0xFFC ∧ (recordBytes twoSlots).length = 64 ∧
      (statusBytes 1 (statusFields rolling)).getD 0x200 9 = 1 := by
  decide +kernel

/-- R189: a start that ends its batch writes the status block in RUNNING, and once more with the results when that write ends. -/
theorem test_statusWrites :
    let t := after (.start 0 0) (ordered 1 (inState .idle rolling))
    let u := after .statusWriteComplete t
    (t.xu.statusWrite.map fun w => (w.contents.state, w.contents.taken, w.owed)) = some (.running, 0, Owed.none) ∧
      t.xu.statusWanted = some owesOrders ∧
      (u.xu.statusWrite.map fun w => (w.contents.taken, w.owed)) = some (1, owesOrders) ∧ u.xu.statusWanted = none ∧
      u.xu.statusStamp = 2 := by
  decide +kernel

/-- R179, R194: PCTL written with interval 5 and ENABLE, and with RESET beside them. -/
theorem test_hostWrite :
    (idle.hostWrite 0x08 0x00000501).pending = [.pollIntervalWrite 5, .enableSet] ∧
      (idle.hostWrite 0x08 0x00000503).pending = [.partReset] ∧
      (idle.hostWrite 0x10 7).pending = [.registerWriteIgnored 0x10 7] := by
  decide

/-- R147: the completed load judges its copy: a blank slot is refused, and nothing of it stays. -/
theorem test_loadJudged :
    let t := after (.recipeLoadComplete blankSlot) (loading .idle)
    t.rs.load = none ∧ t.rs.shared = (loading .idle).rs.shared ∧
      t.xu.results[0] = { code := .refusedRecipe, check := 1, offset := 4 } := by
  decide +kernel

/-- No word of the table spells a command. -/
theorem test_decode : decodeTableWord 32 0 = none ∧ State.reset.withFetchWord 8 0 = State.reset := ⟨rfl, rfl⟩

end Sys2Proof.Tests
end

section
/-! SUPPORT. A step is a reference cycle or the command at the front; the statements about single steps, about the bounds of the
Motion Unit and about the values after power-on. -/

namespace Sys2Proof.Machine

variable {s t : State}

/-! ## Steps -/

theorem step_nil (h : s.pending = []) : step s = .next (tick s) := by
  unfold step
  rw [h]

theorem step_cons {c : Instr} {rest : List Instr} (h : s.pending = c :: rest) :
    step s = exec c { s with pending := rest } := by
  unfold step
  rw [h]

/-- A step is a reference cycle or the command at the front. -/
theorem step_cases (h : step s = .next t) :
    t = tick s ∨ ∃ c rest, s.pending = c :: rest ∧ exec c { s with pending := rest } = .next t := by
  cases hp : s.pending with
  | nil => exact .inl (Host.Outcome.next.inj ((step_nil hp).symm.trans h)).symm
  | cons c rest => exact .inr ⟨c, rest, rfl, (step_cons hp).symm.trans h⟩

/-! ## The bounds of the Motion Unit -/

/-- R3, R4, R10, R20: no command takes P, H or the queues of edges and splices out of their bounds. -/
theorem exec_motionOk (c : Instr) (hm : MotionOk s.mu) (he : exec c s = .next t) : MotionOk t.mu := by
  have fresh : ∀ (straps : Straps) (u : State), u.mu = (State.powerOn straps s.pins s.xu.message).mu →
      MotionOk (comeUp u).mu := fun straps u e =>
    (comeUp_keeps (Keeps.refl u)).motion (e ▸ (powerOn_limits straps s.pins s.xu.message).motion)
  by_cases hp : ∃ x, c = .powerOn x
  · obtain ⟨straps, rfl⟩ := hp
    obtain rfl := Host.Outcome.next.inj he
    exact fresh straps _ rfl
  · by_cases hr : c = .partReset
    · subst hr
      obtain rfl := Host.Outcome.next.inj he
      exact fresh s.straps _ rfl
    · obtain ⟨u, hu, keeps⟩ := exec_keeps c (fun x e => hp ⟨x, e⟩) hr (s := s)
      obtain rfl := Host.Outcome.next.inj (hu.symm.trans he)
      exact keeps.motion hm

/-- Settles O5: the clock and every command keep the bounds of the Motion Unit. -/
theorem stepKeepsMotion : Obligations.StepKeepsMotion := by
  intro s t hm h
  obtain rfl | ⟨c, rest, _, he⟩ := step_cases h
  · exact (tick_keeps (Keeps.refl s)).motion hm
  · exact exec_motionOk (s := { s with pending := rest }) c hm he

/-! ## The clock -/

/-- R181: the poll count at a ms tick, in one equation. -/
theorem countPoll_eq (s : State) :
    countPoll s =
      { s with
        xu :=
          { s.xu with
            pollCount := if s.cu.state = .off then s.xu.pollCount else s.xu.pollCount + 1
            pollDue :=
              if s.cu.state = .off then s.xu.pollDue
              else s.xu.pollDue || decide (s.xu.pollInterval.toNat ≤ s.xu.pollCount + 1) } } := by
  unfold countPoll
  split <;> rfl

/-- R22: the stall count at a ms tick, in one equation. -/
theorem countStall_eq (s : State) :
    countStall s =
      { s with
        mu :=
          { s.mu with
            stallCount :=
              if s.cu.state = .off ∨ s.shared = none ∨ s.mu.stallRaised = true then s.mu.stallCount
              else s.mu.stallCount + 1 } } := by
  have hs : s.shared = none ↔ s.rs.shared.isNone = true := by simp [State.shared]
  unfold countStall
  simp only [hs]
  split <;> rfl

theorem Page.older_eq (page : Page) :
    page.older = if page.records = [] then page else { page with age := page.age + 1 } := by
  simp only [Page.older, List.isEmpty_iff]

/-- Settles O1, along the branches of `tick`. -/
theorem stepTakesFrontCommand : Obligations.StepTakesFrontCommand := by
  refine ⟨fun c rest s h => step_cons h, fun s h => ?_⟩
  rw [step_nil h]
  refine ⟨fun h1 => ?_, fun h1 h2 => ?_, fun h1 h2 => ?_⟩
  · simp only [tick, Config.cyclesPerMicrosecond, h1, if_true]
    rfl
  · simp only [tick, Config.cyclesPerMicrosecond, Nat.not_lt.2 h1, if_false]
    simp only [countMicrosecond, Config.microsecondsPerTick, State.onMu_mu, h2, if_true]
    rfl
  · simp only [tick, Config.cyclesPerMicrosecond, Nat.not_lt.2 h1, if_false]
    simp only [countMicrosecond, Config.microsecondsPerTick, State.onMu_mu, Nat.not_lt.2 h2, if_false]
    simp only [msTick, countPoll_eq, countStall_eq, countReads, funext Page.older_eq]
    rfl


/-! ### The values after power-on, face by face and head by head -/

theorem reset_head (p : Port) : State.reset.head p = Head.powerOn true := by fin_cases p <;> rfl
theorem reset_muFace (f : Face) : State.reset.muFace f = MuFace.powerOn := by cases f <;> rfl
theorem reset_luFace (f : Face) : State.reset.luFace f = LuFace.powerOn := by cases f <;> rfl
theorem reset_rxFace (f : Face) : State.reset.rxFace f = RxFace.powerOn := by cases f <;> rfl
theorem reset_teFace (f : Face) : State.reset.teFace f = TeFace.powerOn := by cases f <;> rfl
theorem reset_smFace (f : Face) : State.reset.smFace f = SmFace.powerOn := by cases f <;> rfl
theorem reset_puFace (f : Face) : State.reset.puFace f = PuFace.powerOn := by cases f <;> rfl
theorem reset_rsFace (f : Face) : State.reset.rsFace f = { active := none, pending := none } := by cases f <;> rfl

theorem tablesFree_reset (f : Face) : TablesFree State.reset f := by
  unfold TablesFree
  rw [reset_teFace, reset_smFace]
  exact ⟨fun _ => Vector.getElem_replicate _, fun _ => Vector.getElem_replicate _⟩

theorem linesOk_reset : LinesOk State.reset := by
  have none_open : ∀ f, openLines (State.reset.luFace f).stream = [] := fun f => by rw [reset_luFace]; rfl
  refine ⟨fun f line h => ?_, fun _ => none_open, nofun⟩
  rw [none_open] at h
  cases h

theorem streaksOk_reset (f : Face) : StreaksOk (State.reset.teFace f) := by
  rw [reset_teFace]
  unfold StreaksOk
  decide

/-- Settles O3: each value is read off `State.reset`, and the limits are those of `powerOn_limits`. -/
theorem resetValuesAndLimits : Obligations.ResetValuesAndLimits := by
  have limits : Limits State.reset := powerOn_limits resetStraps resetPins resetMessage
  unfold Obligations.ResetValuesAndLimits
  exact ⟨rfl, rfl, rfl, rfl, rfl, rfl, rfl, rfl, rfl, fun f => congrArg MuFace.edges (reset_muFace f),
    fun p => by rw [reset_head]; exact ⟨rfl, rfl, rfl, rfl, rfl, rfl⟩, fun f => congrArg RxFace.runFull (reset_rxFace f),
    tablesFree_reset, rfl, fun f => congrArg TeFace.openStreaks (reset_teFace f), rfl,
    fun f => by rw [reset_puFace]; exact ⟨rfl, rfl⟩, rfl, rfl, rfl, rfl, rfl, rfl, rfl, rfl, rfl, rfl,
    fun f => by rw [reset_rsFace]; exact ⟨rfl, rfl⟩, rfl, rfl, rfl, rfl, rfl, rfl, rfl, rfl, rfl, rfl, rfl, rfl,
    fun _ => Vector.getElem_replicate _, rfl, rfl, rfl, rfl, rfl, rfl, rfl, rfl, rfl, rfl, rfl, rfl, rfl, rfl, rfl, rfl,
    limits.motion, limits.links, linesOk_reset, limits.pairing, limits.marks, limits.holding, limits.pages,
    streaksOk_reset, rfl, .inl rfl⟩

end Sys2Proof.Machine
end

section
/-! SUPPORT. What the passage of records, marks, packets, lines and items leaves as it stood: the status block write, the inspection
state, P and H, the finish notices; and that a limit event once sent stays sent. One lemma for each operation, each citing those of
the operations it is made of. -/

namespace Sys2Proof.Machine

/-- From `s` to `t` the status block write, the inspection state with the roll's end reason, P, H and the faces' finish notices stand,
and a limit event that waits still waits. -/
structure Steady (s t : State) : Prop where
  wanted    : t.xu.statusWanted = s.xu.statusWanted
  write     : t.xu.statusWrite = s.xu.statusWrite
  state     : t.cu.state = s.cu.state
  endReason : t.cu.endReason = s.cu.endReason
  limit     : s.cu.limitEvent = true → t.cu.limitEvent = true
  p         : t.mu.p = s.mu.p
  h         : t.mu.h = s.mu.h
  limitSent : t.mu.limitSent = s.mu.limitSent
  finished  : ∀ f, (t.puFace f).finished = (s.puFace f).finished

variable {s t : State}

theorem Steady.refl (s : State) : Steady s s := ⟨rfl, rfl, rfl, rfl, id, rfl, rfl, rfl, fun _ => rfl⟩

theorem foldl_steady {α : Type} (g : State → α → State) (hg : ∀ u x, Steady s u → Steady s (g u x)) (l : List α)
    (h : Steady s t) : Steady s (l.foldl g t) := by
  induction l generalizing t with
  | nil => exact h
  | cons x xs ih => exact ih (hg t x h)

theorem Steady.inspecting (h : Steady s t) : t.inspecting = s.inspecting := by
  unfold State.inspecting
  rw [h.state]

/-! ## Updates -/

theorem onMu_steady (h : Steady s t) (g : MotionUnit → MotionUnit)
    (hg : (g t.mu).p = t.mu.p ∧ (g t.mu).h = t.mu.h ∧ (g t.mu).limitSent = t.mu.limitSent) : Steady s (t.onMu g) :=
  { h with p := hg.1.trans h.p, h := hg.2.1.trans h.h, limitSent := hg.2.2.trans h.limitSent }

theorem onXu_steady (h : Steady s t) (g : ExchangeUnit → ExchangeUnit)
    (hg : (g t.xu).statusWanted = t.xu.statusWanted ∧ (g t.xu).statusWrite = t.xu.statusWrite) : Steady s (t.onXu g) :=
  { h with wanted := hg.1.trans h.wanted, write := hg.2.trans h.write }

theorem onMuFace_steady (h : Steady s t) (f : Face) (g : MuFace → MuFace) : Steady s (t.onMuFace f g) := { h with }
theorem onLuFace_steady (h : Steady s t) (f : Face) (g : LuFace → LuFace) : Steady s (t.onLuFace f g) := { h with }
theorem onRxFace_steady (h : Steady s t) (f : Face) (g : RxFace → RxFace) : Steady s (t.onRxFace f g) := { h with }
theorem onTeFace_steady (h : Steady s t) (f : Face) (g : TeFace → TeFace) : Steady s (t.onTeFace f g) := { h with }
theorem onSmFace_steady (h : Steady s t) (f : Face) (g : SmFace → SmFace) : Steady s (t.onSmFace f g) := { h with }
theorem onRsFace_steady (h : Steady s t) (f : Face) (g : RsFace → RsFace) : Steady s (t.onRsFace f g) := { h with }
theorem onHead_steady (h : Steady s t) (p : Port) (g : Head → Head) : Steady s (t.onHead p g) := { h with }
theorem onLu_steady (h : Steady s t) (g : LinkUnit → LinkUnit) : Steady s (t.onLu g) := { h with }
theorem onTe_steady (h : Steady s t) (g : TrackEngine → TrackEngine) : Steady s (t.onTe g) := { h with }
theorem onKu_steady (h : Steady s t) (g : MarkUnit → MarkUnit) : Steady s (t.onKu g) := { h with }
theorem onRu_steady (h : Steady s t) (g : RecordUnit → RecordUnit) : Steady s (t.onRu g) := { h with }
theorem onRs_steady (h : Steady s t) (g : RecipeStore → RecipeStore) : Steady s (t.onRs g) := { h with }
theorem onPins_steady (h : Steady s t) (g : Pins → Pins) : Steady s (t.onPins g) := { h with }
theorem emit_steady (h : Steady s t) (o : Output) : Steady s (t.emit o) := { h with }
theorem setTrack_steady (h : Steady s t) (f : Face) (i : Fin 24) (x : Option Track) : Steady s (t.setTrack f i x) :=
  { h with }
theorem setSpot_steady (h : Steady s t) (f : Face) (i : Fin 64) (x : Option Spot) : Steady s (t.setSpot f i x) :=
  { h with }

/-! ## Attention and marks -/

theorem raise_steady (h : Steady s t) (c : Cause) : Steady s (raise t c) := by
  rw [raise_eq]
  exact { h with }

theorem captureFault_steady (h : Steady s t) (code : FaultCode) : Steady s (captureFault t code) := by
  have key : Steady s (t.onCu fun c => { c with capture := some { code := code, stamp := t.mu.h } }) := { h with }
  exact raise_steady key _

theorem layMark_steady (h : Steady s t) (o : MarkOut) (stop : Int) : Steady s (layMark t o stop) := by
  unfold layMark
  split <;> exact { h with }

theorem takeRequest_steady (h : Steady s t) (entry : MarkEntry) : Steady s (takeRequest t entry).1 := by
  unfold takeRequest
  split
  · exact { h with }
  · split
    · split
      · exact h
      · exact layMark_steady h _ _
    · exact { h with }
  · exact raise_steady (onKu_steady h _) _
  · exact raise_steady (onKu_steady h _) _
  · exact h

theorem markRequest_steady (h : Steady s t) (kind : PolicyEntry) (stamp : Int) (source : Word) :
    Steady s (markRequest t kind stamp source).1 := by
  unfold markRequest
  repeat' first | exact h | exact takeRequest_steady h _ | split

theorem cutOutput_steady (h : Steady s t) (o : MarkOut) : Steady s (cutOutput t o) := by
  unfold cutOutput
  split <;> exact { h with }

theorem cutPulses_steady (h : Steady s t) : Steady s (cutPulses t) := cutOutput_steady (cutOutput_steady h _) _

theorem endPulse_steady (h : Steady s t) (o : MarkOut) : Steady s (endPulse t o) := by
  unfold endPulse
  split
  · split <;> exact { h with }
  all_goals exact h

theorem breakActivated_steady (h : Steady s t) : Steady s (breakActivated t) := by
  have cut := cutPulses_steady h
  unfold breakActivated
  dsimp only
  split
  · exact raise_steady h _
  · refine raise_steady ?_ _
    split <;> exact { cut with }

theorem autoResume_steady (h : Steady s t) : Steady s (autoResume t) := by
  unfold autoResume
  split
  · exact h
  · split <;> exact { h with }

/-! ## Records -/

theorem takeNumber_steady (h : Steady s t) : Steady s (takeNumber t).1 := by
  unfold takeNumber
  dsimp only
  split
  · dsimp only
    split
    · exact { h with limit := fun _ => rfl }
    · exact { h with }
  · exact h

theorem placeRecord_steady (h : Steady s t) (number : Option Nat) (mark : MarkState) (body : RecordBody) :
    Steady s (placeRecord t number mark body) := by
  unfold placeRecord
  split
  · exact { h with }
  · dsimp only
    split <;> exact { h with }

theorem countRecord_steady (h : Steady s t) (body : RecordBody) : Steady s (countRecord t body) := by
  unfold countRecord
  split
  case h_3 => exact captureFault_steady h _
  all_goals exact { h with }

theorem issue_steady (h : Steady s t) (body : RecordBody) : Steady s (issue t body) :=
  countRecord_steady (placeRecord_steady (takeNumber_steady h) _ _ _) _

theorem issueMissed_steady (h : Steady s t) (entry : MarkEntry) (reason : MissReason) :
    Steady s (issueMissed t entry reason) := by
  have key := issue_steady h (.markMissed entry.out entry.fire entry.source reason)
  exact { key with }

theorem settleMissed_steady (h : Steady s t) (answer : MarkAnswer) : Steady s (settleMissed t answer) := by
  unfold settleMissed
  split
  · exact h
  · exact issueMissed_steady h _ _

theorem sourceOf_steady (h : Steady s t) (number : Option Nat) : Steady s (sourceOf t number).1 := by
  cases number <;> exact { h with }

theorem issueMarked_steady (h : Steady s t) (body : RecordBody) (kind : PolicyEntry) (stamp : Int) :
    Steady s (issueMarked t body kind stamp).1 :=
  settleMissed_steady (countRecord_steady (placeRecord_steady (markRequest_steady (sourceOf_steady (takeNumber_steady h)
    _) _ _ _) _ _ _) _) _

theorem requestOnly_steady (h : Steady s t) (kind : PolicyEntry) (stamp : Int) (source : Word) :
    Steady s (requestOnly t kind stamp source) :=
  settleMissed_steady (markRequest_steady h _ _ _) _

theorem issueFault_steady (h : Steady s t) (code : FaultCode) (subject : FaultSubject) (first last : Int) (count : Nat) :
    Steady s (issueFault t code subject first last count) :=
  issue_steady h _

theorem issueTally_steady (h : Steady s t) (code : FaultCode) (f : Face) (tally : Tally) :
    Steady s (issueTally t code f tally) := by
  unfold issueTally
  split
  · exact h
  · exact issueFault_steady h _ _ _ _ _

theorem issueLoss_steady (h : Steady s t) (run : LossRun) : Steady s (issueLoss t run) := by
  have key := takeNumber_steady h
  unfold issueLoss
  rcases e : takeNumber t with ⟨t1, number⟩
  rw [e] at key
  cases number with
  | none => exact key
  | some n => exact raise_steady (onRu_steady key _) _

theorem lossRecords_steady (n : Nat) (h : Steady s t) : Steady s (lossRecords n t) := by
  induction n generalizing t with
  | zero => exact h
  | succ n ih =>
    unfold lossRecords
    split
    · split
      · exact ih (issueLoss_steady (onRu_steady h _) _)
      · split
        · exact h
        · exact issueLoss_steady (onRu_steady h _) _
    · exact h

theorem closeTally_steady (h : Steady s t) : Steady s (closeTally t) := by
  unfold closeTally
  split <;> exact { h with }

theorem closeLoss_steady (n : Nat) (h : Steady s t) : Steady s (closeLoss n t) := by
  induction n generalizing t with
  | zero => exact h
  | succ n ih =>
    unfold closeLoss
    split
    · exact ih (closeTally_steady (lossRecords_steady _ h))
    · exact h

theorem loseRecords_steady (h : Steady s t) (records : List Record) : Steady s (loseRecords t records) :=
  foldl_steady _ (fun _ _ hu => onRu_steady hu _) _ h

theorem abandonPage_steady (h : Steady s t) (records : List Record) : Steady s (abandonPage t records) := by
  have key : Steady s (testLoss (loseRecords t records)) := closeLoss_steady 9 (loseRecords_steady h records)
  unfold abandonPage
  dsimp only
  split
  · exact captureFault_steady key _
  · exact issueFault_steady key _ _ _ _ _

theorem takeMark_steady (h : Steady s t) (entry : MarkEntry) : Steady s (takeMark t entry) := by
  unfold takeMark
  split
  · exact issueMissed_steady h _ _
  · exact layMark_steady h _ _

theorem advanceMarks_steady (h : Steady s t) : Steady s (advanceMarks t) :=
  endPulse_steady (endPulse_steady (foldl_steady _ (fun _ _ hu => takeMark_steady hu _) _ (onKu_steady h _)) _) _

/-! ## Samples, stock and pages -/

theorem startSample_steady (h : Steady s t) : Steady s (startSample t) := by
  unfold startSample
  split
  · exact h
  · split <;> exact { h with }

theorem endSample_steady (h : Steady s t) : Steady s (endSample t) := by
  unfold endSample
  dsimp only
  split
  · exact startSample_steady (onXu_steady h _ ⟨rfl, rfl⟩)
  · exact { h with }

theorem skipInvalid_steady (n : Nat) (h : Steady s t) : Steady s (skipInvalid n t) := by
  induction n generalizing t with
  | zero => exact h
  | succ n ih =>
    unfold skipInvalid
    split
    · exact h
    · exact ih (captureFault_steady (onXu_steady h _ ⟨rfl, rfl⟩) _)

theorem stockEmpty_steady (h : Steady s t) : Steady s (stockEmpty t) := by
  unfold stockEmpty
  split
  · exact h
  · exact raise_steady (onXu_steady h _ ⟨rfl, rfl⟩) _

theorem beginPost_steady (h : Steady s t) (reason : PostReason) : Steady s (beginPost t reason) := by
  unfold beginPost
  split
  · exact h
  · split <;> exact { h with }

theorem drainInto_steady (h : Steady s t) (page : Page) (rec : Record) (rest : List Record) :
    Steady s (drainInto t page rec rest) := by
  have key : Steady s (testLoss (writeRecord t page rec rest)) := closeLoss_steady 9 (emit_steady (onXu_steady (onRu_steady h _) _ ⟨rfl, rfl⟩) _)
  unfold drainInto postWhenFull
  split
  · split
    · exact key
    · split
      · exact beginPost_steady key _
      · exact key
  · exact beginPost_steady h _

/-! ## Lines -/

theorem leaveLive_steady (h : Steady s t) (p : Port) : Steady s (leaveLive t p) := by
  unfold leaveLive
  split <;> exact { h with }

theorem failHead_steady (h : Steady s t) (p : Port) (desc : LineDesc) (limit : Nat) :
    Steady s (failHead t p desc limit) := by
  have key := leaveLive_steady h p
  unfold failHead
  dsimp only
  split
  · exact issueFault_steady (onHead_steady key _ _) _ _ _ _ _
  · exact { key with }

theorem countMiss_steady (h : Steady s t) (p : Port) (desc : LineDesc) : Steady s (countMiss t p desc) := by
  unfold countMiss
  dsimp only
  split
  · exact { h with }
  · split
    · exact failHead_steady (onHead_steady h _ _) _ _ _
    · exact { h with }

theorem judgeHead_steady (h : Steady s t) (desc : LineDesc) (p : Port) : Steady s (judgeHead desc t p) := by
  unfold judgeHead
  dsimp only
  split
  · exact { h with }
  · split
    · exact countMiss_steady (onHead_steady h _ _) _ _
    · exact { h with }

theorem assembleLine_steady (h : Steady s t) (f : Face) (line : OpenLine) : Steady s (assembleLine t f line) :=
  foldl_steady _ (fun _ _ hu => onHead_steady hu _ _) _
    (foldl_steady _ (fun _ _ hu => judgeHead_steady hu _ _) _ (onLuFace_steady h _ _))

theorem assembleOldest_steady (h : Steady s t) (f : Face) : Steady s (assembleOldest t f) := by
  unfold assembleOldest
  split
  · exact h
  · exact assembleLine_steady h _ _

theorem assembleComplete_steady (n : Nat) (h : Steady s t) (f : Face) : Steady s (assembleComplete n t f) := by
  induction n generalizing t with
  | zero => exact h
  | succ n ih =>
    unfold assembleComplete
    split
    · exact h
    · split
      · exact ih (assembleLine_steady h _ _)
      · exact h

theorem assembleReady_steady (h : Steady s t) (f : Face) : Steady s (assembleReady t f) := assembleComplete_steady _ h _

theorem assembleAll_steady (h : Steady s t) (f : Face) : Steady s (assembleAll t f) :=
  foldl_steady _ (fun _ _ hu => assembleOldest_steady hu f) _ h

theorem assembleOverdue_steady (n : Nat) (h : Steady s t) (f : Face) : Steady s (assembleOverdue n t f) := by
  induction n generalizing t with
  | zero => exact h
  | succ n ih =>
    unfold assembleOverdue
    split
    · exact h
    · split
      · exact ih (assembleReady_steady (assembleLine_steady h _ _) _)
      · exact h

theorem recoverHead_steady (h : Steady s t) (p : Port) (desc : LineDesc) : Steady s (recoverHead t p desc) := by
  unfold recoverHead
  dsimp only
  split
  · split <;> exact issueFault_steady (onHead_steady h _ _) _ _ _ _ _
  · exact { h with }

theorem sendTrigger_steady (h : Steady s t) (desc : LineDesc) (p : Port) : Steady s (sendTrigger desc t p) := by
  unfold sendTrigger
  dsimp only
  split
  · exact recoverHead_steady (emit_steady (onHead_steady h _ _) _) _ _
  · exact { h with }

theorem makeRoom_steady (h : Steady s t) (f : Face) : Steady s (makeRoom t f) := by
  unfold makeRoom
  split
  · exact assembleReady_steady (assembleOldest_steady h _) _
  · exact h

theorem triggerLine_steady (h : Steady s t) (f : Face) (desc : LineDesc) : Steady s (triggerLine t f desc) := by
  have key := foldl_steady _ (fun _ p hu => sendTrigger_steady hu desc p) (triggerSet (makeRoom t f) f)
    (makeRoom_steady h f)
  exact assembleReady_steady (onLuFace_steady (onLuFace_steady key _ _) _ _) _

/-! ## Heads and packets -/

theorem activateHeads_steady (h : Steady s t) : Steady s (activateHeads t) :=
  foldl_steady _ (fun _ _ hu => onHead_steady hu _ _) _ h

theorem mismatchHead_steady (h : Steady s t) (p : Port) (f : Face) (hello : Hello) :
    Steady s (mismatchHead t p f hello) := by
  have key := leaveLive_steady h p
  unfold mismatchHead
  dsimp only
  split
  · exact issueFault_steady (onHead_steady key _ _) _ _ _ _ _
  · exact { key with }

theorem readyHead_steady (h : Steady s t) (p : Port) : Steady s (readyHead t p) := by
  have key := leaveLive_steady h p
  exact { key with }

theorem takeHello_steady (h : Steady s t) (p : Port) (hello : Hello) : Steady s (takeHello t p hello) := by
  unfold takeHello
  dsimp only
  split
  · exact { h with }
  · split
    · exact { h with }
    · refine assembleReady_steady ?_ _
      split
      · exact readyHead_steady (onHead_steady h _ _) _
      · exact mismatchHead_steady (onHead_steady h _ _) _ _ _

theorem receiveHello_steady (h : Steady s t) (p : Port) (packet : Packet) : Steady s (receiveHello t p packet) := by
  unfold receiveHello
  split
  · split
    · exact takeHello_steady h _ _
    · exact { h with }
  · exact h

theorem resetHead_steady (h : Steady s t) (p : Port) : Steady s (resetHead t p) := by
  have key : Steady s (leaveLive (sendRetrain t p) p) :=
    leaveLive_steady (emit_steady (onHead_steady h _ _) _) p
  unfold resetHead
  dsimp only
  split
  · exact { h with }
  · exact assembleReady_steady (onHead_steady key _ _) _

theorem matchLine_steady (h : Steady s t) (p : Port) (packet : Packet) : Steady s (matchLine t p packet) := by
  unfold matchLine
  dsimp only
  split
  · exact { h with }
  · exact assembleReady_steady (onHead_steady (onLuFace_steady (onHead_steady h _ _) _ _) _ _) _

theorem receiveLine_steady (h : Steady s t) (p : Port) (packet : Packet) : Steady s (receiveLine t p packet) := by
  unfold receiveLine
  repeat' first | exact matchLine_steady h _ _ | exact { h with } | split

/-! ## Boundaries, splices and the line -/

theorem closeSkip_steady (h : Steady s t) (f : Face) : Steady s (closeSkip t f) := 
  issueTally_steady (onMuFace_steady h _ _) _ _ _

theorem finishFace_steady (h : Steady s t) (f : Face) : Steady s (finishFace t f) := 
  closeSkip_steady (onMu_steady (onMuFace_steady h _ _) _ ⟨rfl, rfl, rfl⟩) _

theorem makePatchEnd_steady (h : Steady s t) (f : Face) (stamp : Int) (flags : PatchFlags) :
    Steady s (makePatchEnd t f stamp flags) := by
  unfold makePatchEnd
  dsimp only
  split
  · exact finishFace_steady (onLuFace_steady (onMuFace_steady h _ _) _ _) _
  · exact { h with }

theorem applyPending_steady (h : Steady s t) (f : Face) (stamp : Int) : Steady s (applyPending t f stamp).1 := by
  unfold applyPending
  split
  · exact h
  · dsimp only
    exact issue_steady (onMuFace_steady (onRsFace_steady h _ _) _ _) _

theorem makePatchStart_steady (h : Steady s t) (f : Face) (stamp : Int) (flags : StartFlags) :
    Steady s (makePatchStart t f stamp flags) := by
  have key := applyPending_steady (s := s)
    (t := t.onMuFace f fun m =>
      { m with sect := .coated, patchIndex := (t.muFace f).patchIndex + 1, startStamp := stamp, startFlags := flags })
    { h with } f stamp
  exact { key with }

theorem applyEdge_steady (h : Steady s t) (f : Face) (edge : Edge) : Steady s (applyEdge t f edge) := by
  unfold applyEdge
  dsimp only
  split
  · exact makePatchStart_steady (onMuFace_steady h _ _) _ _ _
  · exact makePatchStart_steady (onMuFace_steady h _ _) _ _ _
  · exact makePatchEnd_steady (onMuFace_steady h _ _) _ _ _
  all_goals exact { h with }

theorem applySynthetic_steady (h : Steady s t) (f : Face) (stamp : Int) : Steady s (applySynthetic t f stamp) := by
  unfold applySynthetic
  split
  · exact makePatchEnd_steady h _ _ _
  · exact makePatchStart_steady h _ _ _
  · exact h

theorem applySegment_steady (h : Steady s t) (f : Face) (stamp : Int) : Steady s (applySegment t f stamp) := by
  unfold applySegment
  dsimp only
  split
  · exact makePatchEnd_steady h _ _ _
  · exact makePatchStart_steady (makePatchEnd_steady h _ _ _) _ _ _

theorem applyBoundaries_steady (n : Nat) (h : Steady s t) (f : Face) (stamp : Int) :
    Steady s (applyBoundaries n t f stamp) := by
  induction n generalizing t with
  | zero => exact h
  | succ n ih =>
    unfold applyBoundaries
    split
    · exact h
    · split
      · exact h
      · next b _ =>
        split
        · refine ih ?_
          cases b with
          | edge e => exact applyEdge_steady h _ _
          | synthetic x => exact applySynthetic_steady h _ _
          | segment x => exact applySegment_steady h _ _
        · exact h

theorem enterZone_steady (h : Steady s t) (f : Face) (stamp : Int) (e : SpliceEntry) :
    Steady s (enterZone f stamp t e) := by
  unfold enterZone
  split
  · cases f with
    | upper => exact issue_steady (onLuFace_steady h _ _) _
    | lower => exact { h with }
  · exact h

theorem meetSplices_steady (h : Steady s t) (f : Face) (stamp : Int) : Steady s (meetSplices t f stamp) := by
  have key := foldl_steady _ (fun _ e hu => enterZone_steady hu f stamp e) t.mu.splices h
  exact { key with }

theorem sendLine_steady (h : Steady s t) (sp : SharedPart) (f : Face) (number : Nat) (excluded : Bool) :
    Steady s (sendLine t sp f number excluded) := by
  unfold sendLine
  exact triggerLine_steady (onMuFace_steady (closeSkip_steady h f) _ _) _ _

theorem prepareLine_steady (h : Steady s t) (sp : SharedPart) (f : Face) : Steady s (prepareLine t sp f) := by
  have bounds := applyBoundaries_steady (boundaryFuel t f (lineStamp t sp (t.muFace f).nextLine)) h f
    (lineStamp t sp (t.muFace f).nextLine)
  have met := meetSplices_steady bounds f (lineStamp t sp (t.muFace f).nextLine)
  unfold prepareLine
  dsimp only
  split
  · exact bounds
  · split
    · exact onMuFace_steady (sendLine_steady met _ _ _ _) _ _
    · exact onMuFace_steady (onLuFace_steady (onMuFace_steady met _ _) _ _) _ _

theorem prepareIfDue_steady (h : Steady s t) (sp : SharedPart) (f : Face) : Steady s (prepareIfDue t sp f) := by
  unfold prepareIfDue
  split
  · exact prepareLine_steady h _ _
  · exact h

theorem sampleMark_steady (h : Steady s t) (sp : SharedPart) (f : Face) : Steady s (sampleMark t sp f) := by
  unfold sampleMark
  dsimp only
  split
  · exact h
  · split <;> exact { h with }

theorem acceptSplice_steady (h : Steady s t) (sp : SharedPart) (z : Int) : Steady s (acceptSplice t sp z) := by
  unfold acceptSplice
  dsimp only
  split
  · split
    · exact issue_steady (onMu_steady h _ ⟨rfl, rfl, rfl⟩) _
    · exact { h with }
  · exact issueFault_steady h _ _ _ _ _

theorem sampleSplice_steady (h : Steady s t) (sp : SharedPart) : Steady s (sampleSplice t sp) := by
  unfold sampleSplice
  dsimp only
  split
  · exact h
  · split
    · exact { h with }
    · split
      · exact acceptSplice_steady (onMu_steady (onMu_steady h _ ⟨rfl, rfl, rfl⟩) _ ⟨rfl, rfl, rfl⟩) _ _
      · exact { h with }

/-! ## Tracks -/

theorem repeatMark_steady (h : Steady s t) (f : Face) (i : Fin 24) (x : Track) (stamp : Int) :
    Steady s (repeatMark t f i x stamp) := by
  unfold repeatMark
  repeat' first | exact h | exact setTrack_steady (requestOnly_steady h _ _ _) _ _ _ | split

theorem countOne_steady (h : Steady s t) (part : FacePart) (f : Face) (item : LineItem) (claims : List Claimed)
    (x : Fin 24 × Track) : Steady s (countOne part f item claims t x) := by
  unfold countOne
  dsimp only
  split
  · exact repeatMark_steady (setTrack_steady h _ _ _) _ _ _ _
  · exact setTrack_steady h _ _ _

theorem failTrack_steady (h : Steady s t) (f : Face) (i : Fin 24) (x : Track) (cut : Bool) :
    Steady s (failTrack t f i x cut) :=
  onTeFace_steady (setTrack_steady (issueMarked_steady h _ _ _) _ _ _) _ _

theorem openStreak_steady (h : Steady s t) (f : Face) (i : Fin 24) (x : Track) (stamp : Int) :
    Steady s (openStreak t f i x stamp) := by
  unfold openStreak
  exact onTeFace_steady (raise_steady (setTrack_steady (issueMarked_steady (onTe_steady h _) _ _ _) _ _ _) _) _ _

theorem confirmTrack_steady (h : Steady s t) (f : Face) (i : Fin 24) (x : Track) (stamp : Int) :
    Steady s (confirmTrack t f i x stamp) := by
  unfold confirmTrack
  split
  · exact failTrack_steady h _ _ _ _
  · exact openStreak_steady h _ _ _ _

theorem closeTrack_steady (h : Steady s t) (f : Face) (i : Fin 24) (x : Track) (reason : CloseReason) (survivor : Nat) :
    Steady s (closeTrack t f i x reason survivor) :=
  onTeFace_steady (setTrack_steady (issue_steady h _) _ _ _) _ _

theorem changeOne_steady (h : Steady s t) (part : FacePart) (f : Face) (desc : LineDesc) (i : Fin 24) :
    Steady s (changeOne part f desc t i) := by
  unfold changeOne
  dsimp only
  repeat' first
    | exact h | exact confirmTrack_steady h _ _ _ _ | exact failTrack_steady h _ _ _ _
    | exact closeTrack_steady h _ _ _ _ _ | exact setTrack_steady h _ _ _ | split

theorem settleSurvivor_steady (h : Steady s t) (f : Face) (i : Fin 24) (x : Track) (lane : Lane) (stamp : Int) :
    Steady s (settleSurvivor t f i x lane stamp) := by
  unfold settleSurvivor
  repeat' first | exact confirmTrack_steady h _ _ _ _ | exact setTrack_steady h _ _ _ | split

theorem mergeOne_steady (h : Steady s t) (part : FacePart) (f : Face) (stamp : Int) (i j : Fin 24) :
    Steady s (mergeOne part f stamp i t j) := by
  unfold mergeOne
  split
  · dsimp only
    split
    · unfold freeYounger
      split
      · exact setTrack_steady (settleSurvivor_steady h _ _ _ _ _) _ _ _
      · exact closeTrack_steady (settleSurvivor_steady h _ _ _ _ _) _ _ _ _ _
      · exact closeTrack_steady (settleSurvivor_steady h _ _ _ _ _) _ _ _ _ _
    · exact h
  all_goals exact h

theorem mergeAged_steady (part : FacePart) (f : Face) (stamp : Int) (l : List (Fin 24)) (h : Steady s t) :
    Steady s (mergeAged part f stamp l t) := by
  induction l generalizing t with
  | nil => exact h
  | cons i rest ih => exact ih (foldl_steady _ (fun _ _ hu => mergeOne_steady hu _ _ _ _ _) _ h)

theorem mergeLane_steady (h : Steady s t) (part : FacePart) (f : Face) (stamp : Int) (lane : Nat) :
    Steady s (mergeLane part f stamp t lane) :=
  mergeAged_steady _ _ _ _ h

theorem trackLine_steady (h : Steady s t) (f : Face) (part : FacePart) (item : LineItem) :
    Steady s (trackLine t f part item).1 :=
  foldl_steady _ (fun _ _ hu => mergeLane_steady hu _ _ _ _) _
    (foldl_steady _ (fun _ _ hu => changeOne_steady hu _ _ _ _) _
      (foldl_steady _ (fun _ _ hu => countOne_steady hu _ _ _ _ _) _ h))

theorem takeHandover_steady (h : Steady s t) (f : Face) (part : FacePart) (desc : LineDesc) (q : Request) :
    Steady s (takeHandover t f part desc q).1 := by
  unfold takeHandover
  split
  · exact { h with }
  · refine mergeLane_steady ?_ _ _ _ _
    split
    · exact confirmTrack_steady (setTrack_steady h _ _ _) _ _ _ _
    · exact setTrack_steady h _ _ _

theorem cutTracks_steady (h : Steady s t) (f : Face) (reason : CloseReason) : Steady s (cutTracks t f reason) :=
  foldl_steady _ (fun _ _ hu => by
    unfold cutOne
    split
    · exact failTrack_steady hu _ _ _ _
    · exact closeTrack_steady hu _ _ _ _ _
    · exact closeTrack_steady hu _ _ _ _ _) _ h

theorem trackPatchEnd_steady (h : Steady s t) (f : Face) (part : FacePart) : Steady s (trackPatchEnd t f part) := by
  unfold trackPatchEnd
  split
  · exact cutTracks_steady h _ _
  · exact h

theorem trackPatchStart_steady (h : Steady s t) (f : Face) (item : PatchStart) : Steady s (trackPatchStart t f item) := by
  have cut := cutTracks_steady h f .recipe
  unfold trackPatchStart
  dsimp only
  split
  · exact { cut with }
  · exact { h with }

/-! ## Pairing -/

theorem discardLog_finished (s : State) (g f : Face) : ((discardLog s g).puFace f).finished = (s.puFace f).finished := by
  cases f <;> cases g <;> rfl

theorem discardLogs_steady (h : Steady s t) : Steady s (discardLogs t) :=
  { h with finished := fun f => (discardLog_finished _ _ f).trans ((discardLog_finished _ _ f).trans (h.finished f)) }

theorem onPu_steady (h : Steady s t) (g : PairingUnit → PairingUnit) (hg : (g t.pu).faces = t.pu.faces) :
    Steady s (t.onPu g) :=
  { h with finished := fun f => (congrArg (fun x : PerFace PuFace => (x.get f).finished) hg).trans (h.finished f) }

theorem onPuFace_steady (h : Steady s t) (f : Face) (g : PuFace → PuFace) (hg : ∀ x, (g x).finished = x.finished) :
    Steady s (t.onPuFace f g) :=
  { h with
    finished := fun k => by
      refine Eq.trans ?_ (h.finished k)
      cases f <;> cases k <;> first | rfl | exact hg _ }

theorem issueSingle_steady (h : Steady s t) (result : PinholeResult) (c : Closure) :
    Steady s (issueSingle result t c) :=
  onPu_steady (issueMarked_steady h _ _ _) _ rfl

theorem issueThrough_steady (h : Steady s t) (a b : Closure) : Steady s (issueThrough t a b) := by
  unfold issueThrough
  exact raise_steady (onPu_steady (issueMarked_steady h _ _ _) _ rfl) _

theorem resolvePassed_steady (h : Steady s t) (g : Face) : Steady s (resolvePassed t g) := by
  unfold resolvePassed
  exact foldl_steady _ (fun _ _ hu => issueSingle_steady hu _ _) _ (onPu_steady h _ rfl)

theorem insertClosure_steady (h : Steady s t) (e : PairEntry) : Steady s (insertClosure t e) := by
  unfold insertClosure
  split
  · exact onPu_steady h _ rfl
  · split
    · exact onPu_steady h _ rfl
    · exact discardLogs_steady (onPu_steady (issueSingle_steady (onPu_steady h _ rfl) _ _) _ rfl)

theorem placeClosure_steady (h : Steady s t) (c : Closure) : Steady s (placeClosure t c) := by
  unfold placeClosure
  dsimp only
  split
  · exact issueSingle_steady h _ _
  · split
    · exact issueSingle_steady h _ _
    · exact insertClosure_steady h _

theorem takeClosure_steady (h : Steady s t) (closure : Closure) : Steady s (takeClosure t closure) := by
  unfold takeClosure
  dsimp only
  split
  · split
    · exact discardLogs_steady (issueThrough_steady (onPu_steady h _ rfl) _ _)
    · exact placeClosure_steady h _
  · exact issueSingle_steady h _ _

theorem openStretch_finished (p : PuFace) (x : Stretch) : (openStretch p x).finished = p.finished := by
  unfold openStretch
  repeat' first | rfl | split

theorem foldl_logDoubt_finished (stamp : Int) (doubts : List DoubtKind) (p : PuFace) :
    (doubts.foldl (logDoubt stamp) p).finished = p.finished := by
  induction doubts generalizing p with
  | nil => rfl
  | cons kind rest ih =>
    refine (ih _).trans ?_
    unfold logDoubt
    split
    · rfl
    · exact openStretch_finished _ _

theorem settleProgress_steady (h : Steady s t) (f : Face) : Steady s (settleProgress t f) :=
  discardLogs_steady (resolvePassed_steady h f)

theorem lineProgress_steady (h : Steady s t) (f : Face) (item : LineItem) (horizon : Option Int) :
    Steady s (lineProgress t f item horizon) := by
  unfold lineProgress
  refine settleProgress_steady (onPuFace_steady h _ _ ?_) _
  exact fun x => foldl_logDoubt_finished item.desc.stamp _ x

theorem eventProgress_steady (h : Steady s t) (f : Face) : Steady s (eventProgress t f) :=
  settleProgress_steady (onPuFace_steady h _ _ (by exact fun _ => rfl)) _

theorem unresolvedPairing_steady (h : Steady s t) : Steady s (unresolvedPairing t) := by
  unfold unresolvedPairing
  refine foldl_steady _ (fun _ _ hu => issueSingle_steady hu _ _) _ { h with finished := fun f => ?_ }
  refine Eq.trans ?_ (h.finished f)
  cases f <;> rfl

/-! ## Spots -/

theorem closeSpot_steady (part : FacePart) (f : Face) (c : Closing) (x : Fin 64 × Spot) (h : Steady s c.state) :
    Steady s (closeSpot part f c x).state := by
  unfold closeSpot
  split
  · exact setSpot_steady (onSmFace_steady h _ _) _ _ _
  · exact setSpot_steady (onSmFace_steady h _ _) _ _ _
  · exact setSpot_steady (onSmFace_steady (issueMarked_steady h _ _ _) _ _) _ _ _
  · exact setSpot_steady (onSmFace_steady (issueMarked_steady h _ _ _) _ _) _ _ _

theorem foldl_closeSpot_steady (part : FacePart) (f : Face) (l : List (Fin 64 × Spot)) (c : Closing)
    (h : Steady s c.state) : Steady s (l.foldl (closeSpot part f) c).state := by
  induction l generalizing c with
  | nil => exact h
  | cons x rest ih => exact ih _ (closeSpot_steady _ _ _ _ h)

theorem quietStep_steady (h : Steady s t) (f : Face) (part : FacePart) (item : LineItem) :
    Steady s (quietStep t f part item).state := by
  unfold quietStep
  dsimp only
  split
  · exact h
  · exact foldl_closeSpot_steady _ _ _ _ (onSmFace_steady h _ _)

theorem offerSpot_steady (h : Steady s t) (part : FacePart) (f : Face) (desc : LineDesc) (x : Fin 64 × Spot) :
    Steady s (offerSpot part f desc t x) := by
  have key := takeHandover_steady h f part desc (requestFor x.2)
  unfold offerSpot
  split
  · next e =>
    rw [e] at key
    exact setSpot_steady key _ _ _
  · next e =>
    rw [e] at key
    exact setSpot_steady key _ _ _

theorem deliver_steady (c : Closing) (h : Steady s c.state) : Steady s (deliver c) :=
  foldl_steady _ (fun _ _ hu => takeClosure_steady hu _) _ h

theorem cutAndDeliver_steady (h : Steady s t) (f : Face) : Steady s (cutAndDeliver t f) :=
  deliver_steady _ (foldl_closeSpot_steady _ _ _ _ (onSmFace_steady h _ _))

/-! ## Items -/

theorem takeItem_steady (h : Steady s t) (f : Face) : Steady s (takeItem t f) := by
  unfold takeItem
  split <;> exact { h with }

theorem processLine_steady (h : Steady s t) (f : Face) (part : FacePart) (item : LineItem) :
    Steady s (processLine t f part item) := by
  have key := trackLine_steady h f part item
  unfold processLine
  rcases e : trackLine t f part item with ⟨t1, unclaimed⟩
  rw [e] at key
  have quiet := quietStep_steady (onSmFace_steady (onTeFace_steady key f fun e => { e with lastPart := some part }) f
    fun m => unclaimed.foldl (offerRun part item.desc) m) f part item
  exact lineProgress_steady (deliver_steady _ (foldl_steady _ (fun _ _ hu => offerSpot_steady hu _ _ _ _) _ quiet)) _ _ _

theorem processSplice_steady (h : Steady s t) (f : Face) : Steady s (processSplice t f) :=
  eventProgress_steady (cutAndDeliver_steady (cutTracks_steady h _ _) _) _

theorem processPatchStart_steady (h : Steady s t) (f : Face) (item : PatchStart) :
    Steady s (processPatchStart t f item) := by
  have key := eventProgress_steady (cutAndDeliver_steady (trackPatchStart_steady h f item) f) f
  unfold processPatchStart
  cases f with
  | upper => exact autoResume_steady key
  | lower => exact key

theorem clearPatchCounts_steady (h : Steady s t) (f : Face) : Steady s (clearPatchCounts t f) := { h with }

theorem reportJumps_steady (h : Steady s t) : Steady s (reportJumps t) :=
  issueTally_steady (onMu_steady h _ ⟨rfl, rfl, rfl⟩) _ _ _

theorem reportOverflow_steady (h : Steady s t) (f : Face) : Steady s (reportOverflow t f) :=
  issueTally_steady (onMuFace_steady h _ _) _ _ _

theorem reportSpotFull_steady (h : Steady s t) (f : Face) : Steady s (reportSpotFull t f) :=
  issueTally_steady (onSmFace_steady h _ _) _ _ _

theorem reportTrackFull_steady (h : Steady s t) (f : Face) : Steady s (reportTrackFull t f) :=
  issueTally_steady (onTeFace_steady h _ _) _ _ _

theorem reportMotion_steady (h : Steady s t) (f : Face) : Steady s (reportMotion t f) := by
  cases f with
  | upper => exact reportOverflow_steady (reportJumps_steady h) _
  | lower => exact reportOverflow_steady h _

theorem reportPatch_steady (h : Steady s t) (f : Face) (item : PatchEnd) (runFull : Tally) :
    Steady s (reportPatch t f item runFull) := by
  unfold reportPatch
  exact reportTrackFull_steady (reportSpotFull_steady (issueTally_steady (reportMotion_steady (onMuFace_steady
    (clearPatchCounts_steady (issue_steady h _) _) _ _) _) _ _ _) _) _

theorem processPatchEnd_steady (h : Steady s t) (f : Face) (item : PatchEnd) (runFull : Tally) (part : FacePart) :
    Steady s (processPatchEnd t f item runFull part) := by
  have key := reportPatch_steady (eventProgress_steady (cutAndDeliver_steady (trackPatchEnd_steady h f part) f) f) f item
    runFull
  unfold processPatchEnd
  dsimp only
  split
  · exact startSample_steady key
  · exact key

end Sys2Proof.Machine
end

section
/-! SUPPORT. Between two steps no limit event waits, and a further status block write is wanted only while one is in progress: what
every command and the clock do with the two halves of `Quiescent`. -/

namespace Sys2Proof.Machine

variable {s t : State}

/-- R189: a further status block write is wanted only while one is in progress. -/
def StatusWaits (s : State) : Prop := s.xu.statusWanted = none ∨ s.xu.statusWrite.isSome

theorem Steady.statusWaits (h : Steady s t) (hs : StatusWaits s) : StatusWaits t := by
  unfold StatusWaits
  rw [h.wanted, h.write]
  exact hs

theorem onCu_waits (h : StatusWaits s) (g : ControlUnit → ControlUnit) : StatusWaits (s.onCu g) := h

/-! ## The status block write -/

theorem payOwed_steady (h : Steady s t) (owed : Owed) : Steady s (payOwed t owed) := by
  have posted : Steady s (if owed.posted then raise t .posted else t) := by
    split
    · exact raise_steady h _
    · exact h
  unfold payOwed
  dsimp only
  split
  · exact raise_steady posted _
  · exact posted

theorem beginStatus_waits (h : StatusWaits s) (owed : Owed) : StatusWaits (beginStatus s owed) := by
  unfold beginStatus
  split
  · exact (payOwed_steady (Steady.refl s) owed).statusWaits h
  · exact .inr rfl

theorem wantStatus_waits (h : StatusWaits s) (owed : Owed) : StatusWaits (wantStatus s owed) := by
  unfold wantStatus
  split
  · next hw => exact .inr hw
  · exact beginStatus_waits h _

theorem endStatus_waits (h : StatusWaits s) : StatusWaits (endStatus s) := by
  unfold endStatus
  split
  · exact h
  · next w _ =>
    have paid : StatusWaits (payOwed (s.onXu fun x => { x with statusWrite := none, statusWanted := none }) w.owed) :=
      (payOwed_steady (Steady.refl _) _).statusWaits (.inl rfl)
    dsimp only
    split
    · exact paid
    · exact beginStatus_waits paid _

theorem failStatus_waits (h : StatusWaits s) : StatusWaits (failStatus s) := by
  unfold failStatus
  split
  · exact h
  · exact endStatus_waits ((captureFault_steady (onXu_steady (Steady.refl s) _ ⟨rfl, rfl⟩) _).statusWaits h)

/-! ## Closing, close-out and batches -/

theorem discardBegun_steady (h : Steady s t) : Steady s (discardBegun t) :=
  onMu_steady (onMuFace_steady (onMuFace_steady h _ _) _ _) _ ⟨rfl, rfl, rfl⟩

/-- R163: what entry to CLOSING does before it asks for the status block write leaves all that `Steady` names but the state. -/
theorem closingBlocks_steady (h : Steady s t) :
    Steady s (discardPending (assembleAll (assembleAll (discardBegun (closeSkip (closeSkip t .upper) .lower)) .upper)
      .lower)) :=
  onRs_steady (assembleAll_steady (assembleAll_steady (discardBegun_steady (closeSkip_steady (closeSkip_steady h _) _)) _)
    _) _

theorem enterClosing_waits (h : StatusWaits s) (reason : EndReason) : StatusWaits (enterClosing s reason) := by
  unfold enterClosing
  split
  · refine wantStatus_waits ((closingBlocks_steady (Steady.refl _)).statusWaits ?_) _
    exact h
  · exact h

theorem stopIfFinished_waits (h : StatusWaits s) : StatusWaits (stopIfFinished s) := by
  unfold stopIfFinished
  split
  · exact enterClosing_waits h _
  · exact h

theorem finishPairing_waits (h : StatusWaits s) (f : Face) : StatusWaits (finishPairing s f) := by
  unfold finishPairing
  refine (discardLogs_steady (foldl_steady _ (fun _ _ hu => issueSingle_steady hu _ _) _ (Steady.refl _))).statusWaits ?_
  exact h

theorem endCloseout_waits (h : StatusWaits s) : StatusWaits (endCloseout s) := by
  unfold endCloseout
  refine wantStatus_waits ?_ _
  split <;> exact h

theorem closeoutCheck_waits (h : StatusWaits s) : StatusWaits (closeoutCheck s) := by
  unfold closeoutCheck
  split
  · split
    · exact (beginPost_steady (Steady.refl s) _).statusWaits h
    · exact endCloseout_waits h
  · exact h

theorem actAbandon_waits (h : StatusWaits s) : StatusWaits (actAbandon s) :=
  closeoutCheck_waits ((loseRecords_steady (onRu_steady (Steady.refl s) _) _).statusWaits h)

theorem reportTallies_steady (h : Steady s t) (f : Face) : Steady s (reportTallies t f) :=
  reportTrackFull_steady (reportSpotFull_steady (issueTally_steady (onRxFace_steady (reportOverflow_steady h _) _ _) _ _ _)
    _) _

theorem closeoutSteps_steady (h : Steady s t) : Steady s (closeoutSteps t) := by
  have spots : Steady s (closeAllSpots t) := cutAndDeliver_steady (cutAndDeliver_steady h _) _
  have tracks : Steady s (closeAllTracks (closeAllSpots t)) :=
    clearPatchCounts_steady (clearPatchCounts_steady (cutTracks_steady (cutTracks_steady spots _ _) _ _) _) _
  have marks : Steady s (missAllMarks (unresolvedPairing (closeAllTracks (closeAllSpots t)))) :=
    foldl_steady _ (fun _ _ hu => issueMissed_steady hu _ _) _ (onKu_steady (unresolvedPairing_steady tracks) _)
  unfold closeoutSteps issueRollEnd
  exact onRu_steady (issue_steady (reportTallies_steady (reportTallies_steady (reportJumps_steady marks) _) _) _) _

theorem beginCloseout_waits (h : StatusWaits s) : StatusWaits (beginCloseout s) := by
  have key := onCu_waits ((closeoutSteps_steady (Steady.refl s)).statusWaits h) fun c => { c with phase := .drain }
  unfold beginCloseout
  dsimp only
  split
  · split
    · exact actAbandon_waits key
    · exact closeoutCheck_waits key
  · exact h

theorem finishBatch_waits (h : StatusWaits s) (generation : Word) (results : Vector OrderResult 16) :
    StatusWaits (finishBatch s generation results) :=
  wantStatus_waits (by exact h) _

theorem endOrder_waits (h : StatusWaits s) (result : OrderResult) : StatusWaits (endOrder s result) := by
  unfold endOrder
  split
  · exact h
  · dsimp only
    split
    · exact h
    · exact finishBatch_waits h _ _

theorem executeOrder_waits (h : StatusWaits s) (order : Instr) (effect : State → State × OrderResult)
    (he : StatusWaits (effect s).1) : StatusWaits (executeOrder s order effect) := by
  unfold executeOrder
  split
  · exact endOrder_waits he _
  · exact h

/-! ## Orders -/

theorem startMotion_xu (s : State) (s0 : Int) : (startMotion s s0).xu = s.xu := by
  unfold startMotion
  split <;> rfl

theorem startBlocks_xu (s : State) (s0 : Int) : (startBlocks s s0).xu = s.xu := by
  simp only [startBlocks, startRecords, startMarks, startPairing, startTracks, startSpots, startExtract, startLinks,
    State.onRu_xu, State.onKu_xu, State.onPu_xu, State.onTe_xu, State.onSm_xu, State.onRx_xu, State.onLu_xu, startMotion_xu]

theorem startRoll_waits (h : StatusWaits s) (rollId : Word) (s0 : Int) : StatusWaits (startRoll s rollId s0) := by
  have blocks : StatusWaits (startBlocks s s0) := by
    unfold StatusWaits
    rw [startBlocks_xu]
    exact h
  unfold startRoll issueRollStart
  refine wantStatus_waits ?_ _
  split
  · exact blocks
  · refine (issue_steady (Steady.refl _) _).statusWaits ?_
    exact blocks

theorem orderStart_waits (h : StatusWaits s) (rollId : Word) (s0 : Int) : StatusWaits (orderStart s rollId s0).1 := by
  unfold orderStart
  repeat' first | exact h | exact startRoll_waits h _ _ | split

theorem requestFinish_waits (h : StatusWaits s) (f : Face) : StatusWaits (requestFinish s f) := by
  unfold requestFinish
  dsimp only
  split
  · exact finishPairing_waits ((finishFace_steady (onMuFace_steady (Steady.refl s) _ _) _).statusWaits h) _
  · exact h

theorem orderStop_waits (h : StatusWaits s) : StatusWaits (orderStop s).1 := by
  unfold orderStop
  split
  case h_1 =>
    exact stopIfFinished_waits (requestFinish_waits (requestFinish_waits (wantStatus_waits (by exact h) _) _) _)
  all_goals exact h

theorem orderHalt_waits (h : StatusWaits s) : StatusWaits (orderHalt s).1 := by
  unfold orderHalt haltClosing
  split
  · exact enterClosing_waits h _
  · exact enterClosing_waits h _
  · dsimp only
    repeat' first | exact h | exact actAbandon_waits (by exact h) | split
  all_goals exact h

theorem orderFlush_waits (h : StatusWaits s) : StatusWaits (orderFlush s).1 := by
  unfold orderFlush
  split
  · exact (beginPost_steady (Steady.refl s) _).statusWaits h
  · split <;> exact h

theorem orderNote_waits (h : StatusWaits s) (value : BitVec 64) : StatusWaits (orderNote s value).1 := by
  unfold orderNote
  split
  · exact (issue_steady (Steady.refl s) _).statusWaits h
  · exact h

theorem orderMarkon_waits (h : StatusWaits s) : StatusWaits (orderMarkon s).1 := by
  unfold orderMarkon
  repeat' first | exact h | split

theorem orderLevels_waits (h : StatusWaits s) (levels : Vector Byte 8) : StatusWaits (orderLevels s levels).1 := by
  unfold orderLevels
  split <;> exact h

theorem orderHeadreset_waits (h : StatusWaits s) (head : Word) : StatusWaits (orderHeadreset s head).1 := by
  unfold orderHeadreset
  split
  · split
    · exact (resetHead_steady (Steady.refl s) _).statusWaits h
    · exact h
  · exact h

theorem judgeRecipe_waits (h : StatusWaits s) (slot : BitVec 2) (bytes : List Byte) :
    StatusWaits (judgeRecipe s slot bytes).1 := by
  have active : StatusWaits (activateRecipe s slot bytes) := by
    unfold activateRecipe
    exact (cutPulses_steady (onMu_steady (onRxFace_steady (onRxFace_steady (activateHeads_steady (onRs_steady
      (Steady.refl s) _)) _ _) _ _) _ ⟨rfl, rfl, rfl⟩)).statusWaits h
  unfold judgeRecipe settleRecipe
  split
  · exact h
  · split
    · exact active
    all_goals repeat' first | exact h | split

/-! ## Pages, samples and reads -/

theorem afterPost_waits (h : StatusWaits s) (written : Bool) : StatusWaits (afterPost s written) := by
  unfold afterPost
  split
  · split
    · exact endCloseout_waits h
    · exact closeoutCheck_waits (by exact h)
  · exact closeoutCheck_waits h

theorem failPost_waits (h : StatusWaits s) (p : Posting) : StatusWaits (failPost s p) := by
  unfold failPost
  exact afterPost_waits (wantStatus_waits ((abandonPage_steady (onXu_steady (Steady.refl s) _ ⟨rfl, rfl⟩) _).statusWaits
    h) _) _

theorem failPage_waits (h : StatusWaits s) : StatusWaits (failPage s) := by
  unfold failPage failFilling
  split
  · exact failPost_waits h _
  · split
    · exact h
    · exact closeoutCheck_waits ((abandonPage_steady (onXu_steady (Steady.refl s) _ ⟨rfl, rfl⟩) _).statusWaits h)
  · exact h

theorem completePost_waits (h : StatusWaits s) : StatusWaits (completePost s) := by
  unfold completePost postDone
  split
  · exact h
  · exact afterPost_waits (wantStatus_waits (by exact h) _) _

theorem drainQueue_waits (h : StatusWaits s) : StatusWaits (drainQueue s) := by
  unfold drainQueue
  split
  · exact closeoutCheck_waits ((drainInto_steady (Steady.refl s) _ _ _).statusWaits h)
  all_goals exact h

theorem takeFromStock_steady (h : Steady s t) : Steady s (takeFromStock t) := by
  have key := skipInvalid_steady (Config.listEntries + 1) h
  unfold takeFromStock
  dsimp only
  split
  · exact stockEmpty_steady key
  · exact { key with }

theorem completeSample_steady (h : Steady s t) (generation count written : Word) :
    Steady s (completeSample t generation count written) := by
  unfold completeSample startCopy startReread
  dsimp only
  split
  · refine endSample_steady ?_
    repeat' split
    · exact emit_steady (onXu_steady (emit_steady (onXu_steady h _ ⟨rfl, rfl⟩) _) _ ⟨rfl, rfl⟩) _
    · exact emit_steady (onXu_steady h _ ⟨rfl, rfl⟩) _
    · exact emit_steady (onXu_steady h _ ⟨rfl, rfl⟩) _
    · exact h
  · exact h

theorem completeCopy_waits (h : StatusWaits s) (entries : OrderListBytes) : StatusWaits (completeCopy s entries) := by
  unfold completeCopy handBatch
  dsimp only
  repeat' first | exact h | exact finishBatch_waits (by exact h) _ _ | split

theorem completeReread_steady (h : Steady s t) (bytes : StockBytes) : Steady s (completeReread t bytes) := by
  unfold completeReread
  split
  · exact h
  · dsimp only
    split
    · exact { h with }
    · split
      · exact { h with }
      · exact captureFault_steady (onXu_steady (onXu_steady h _ ⟨rfl, rfl⟩) _ ⟨rfl, rfl⟩) _

theorem failRead_waits (h : StatusWaits s) (read : ReadKind) : StatusWaits (failRead s read) := by
  have r := Steady.refl s
  cases read with
  | sample => exact (endSample_steady (captureFault_steady r _)).statusWaits h
  | batchCopy => exact (captureFault_steady (onXu_steady r _ ⟨rfl, rfl⟩) _).statusWaits h
  | stockReread => exact (captureFault_steady (onXu_steady r _ ⟨rfl, rfl⟩) _).statusWaits h
  | recipeLoad => exact endOrder_waits ((captureFault_steady (onRs_steady r _) _).statusWaits h) _
  | postCompletion =>
    unfold failRead
    dsimp only
    split
    · exact h
    · exact failPost_waits h _
  | statusCompletion => exact failStatus_waits h

theorem pollTick_waits (h : StatusWaits s) : StatusWaits (pollTick s) := by
  have sampled := (startSample_steady (onXu_steady (Steady.refl s)
    (fun x => { x with pollCount := 0, pollDue := false }) ⟨rfl, rfl⟩)).statusWaits h
  unfold pollTick
  dsimp only
  split
  · split
    · exact wantStatus_waits sampled _
    · exact sampled
  · exact h

theorem enterIdle_waits (h : StatusWaits s) : StatusWaits (enterIdle s) := by
  unfold enterIdle
  split
  · exact wantStatus_waits ((startSample_steady (Steady.refl _)).statusWaits (by exact h)) _
  · exact h

/-! ## Encoder -/

theorem inspectAdvance_waits (h : StatusWaits s) : StatusWaits (inspectAdvance s) := by
  have limit : StatusWaits (sendLimit s) := by
    unfold sendLimit
    split <;> exact h
  unfold inspectAdvance
  split
  · exact h
  · exact (prepareIfDue_steady (prepareIfDue_steady (sampleSplice_steady (sampleMark_steady (sampleMark_steady
      (Steady.refl _) _ _) _ _) _) _ _) _ _).statusWaits limit

theorem forwardStep_waits (h : StatusWaits s) : StatusWaits (forwardStep s) := by
  unfold forwardStep advance
  dsimp only
  split
  · split
    · refine (advanceMarks_steady (Steady.refl _)).statusWaits ?_
      split
      · exact inspectAdvance_waits (by exact h)
      · exact h
    · exact h
  · exact h

theorem reverseStep_waits (h : StatusWaits s) : StatusWaits (reverseStep s) := by
  have cut := (cutPulses_steady (onMu_steady (Steady.refl s) (fun m => { m with direction := .reverse })
    ⟨rfl, rfl, rfl⟩)).statusWaits h
  unfold reverseStep
  dsimp only
  repeat' first | exact h | exact cut | split

theorem decodeLevels_waits (h : StatusWaits s) (a b : Phase) : StatusWaits (decodeLevels s a b) := by
  unfold decodeLevels decodeStep encoderJump
  dsimp only
  repeat' first | exact h | exact forwardStep_waits (by exact h) | exact reverseStep_waits (by exact h) | split

theorem holdExpiry_waits (h : StatusWaits s) (phases : Phases) (sensors : Sensors) :
    StatusWaits (holdExpiry s phases sensors) := by
  unfold holdExpiry
  dsimp only
  split
  · cases phases <;> exact decodeLevels_waits (by exact h) _ _
  · exact h

/-! ## Commands and the clock -/

theorem takeLimit_limitEvent (s : State) : (takeLimit s).cu.limitEvent = false := by
  unfold takeLimit
  split
  · rfl
  · next h => exact Bool.eq_false_iff.2 h

theorem markChanged_quiescent {before : State} (h : Quiescent s) : Quiescent (markChanged before s) := by
  unfold markChanged
  split <;> exact h

/-- What a step ends with leaves nothing waiting. -/
theorem settle_quiescent {before : State} (h : StatusWaits s) : Quiescent (settle before s) := by
  refine markChanged_quiescent ⟨takeLimit_limitEvent s, ?_⟩
  unfold takeLimit
  split
  · exact onCu_waits (enterClosing_waits h _) _
  · exact h

theorem retrainAll_steady (h : Steady s t) : Steady s (retrainAll t) :=
  foldl_steady _ (fun _ _ hu => by
    split
    · exact emit_steady (onHead_steady hu _ _) _
    · exact hu) _ h

theorem retrainAll_cu (s : State) : (retrainAll s).cu = s.cu := by
  have key : ∀ (ports : List Port) (u : State),
      (ports.foldl (fun t p => if t.straps.fitted p then sendRetrain t p else t) u).cu = u.cu := fun ports => by
    induction ports with
    | nil => exact fun _ => rfl
    | cons p rest ih =>
      intro u
      refine (ih _).trans ?_
      dsimp only
      split <;> rfl
  exact key allPorts s

theorem cutOutput_cu (s : State) (o : MarkOut) : (cutOutput s o).cu = s.cu := by
  unfold cutOutput
  split <;> rfl

theorem breakActivated_cu (s : State) : (breakActivated s).cu = s.cu := by
  have cut : (cutPulses s).cu = s.cu := (cutOutput_cu _ _).trans (cutOutput_cu _ _)
  unfold breakActivated
  dsimp only
  split
  · exact raise_cu _ _
  · rw [raise_cu]
    split <;> exact cut

/-- R31, R124, R166: the part comes up with nothing waiting. -/
theorem comeUp_quiescent (h : Quiescent s) : Quiescent (comeUp s) := by
  have up : Steady s (if (retrainAll s).pins.breakInput then breakActivated (retrainAll s) else retrainAll s) := by
    split
    · exact breakActivated_steady (retrainAll_steady (Steady.refl s))
    · exact retrainAll_steady (Steady.refl s)
  refine markChanged_quiescent ⟨?_, up.statusWaits h.2⟩
  split
  · rw [breakActivated_cu, retrainAll_cu]
    exact h.1
  · rw [retrainAll_cu]
    exact h.1

/-- What a command other than power-on and part reset makes of the state, before the step's end. -/
theorem exec_settled (c : Instr) (hp : ∀ x, c ≠ .powerOn x) (hr : c ≠ .partReset) (h : StatusWaits s) :
    ∃ u, exec c s = .next (settle s u) ∧ StatusWaits u := by
  have r := Steady.refl s
  cases c with
  | powerOn x => exact absurd rfl (hp x)
  | partReset => exact absurd rfl hr
  | xbaseWrite half value =>
    refine ⟨_, rfl, ?_⟩
    split
    · exact enterIdle_waits (by exact h)
    · exact h
  | enableSet => exact ⟨_, rfl, enterIdle_waits (by exact h)⟩
  | enableClear =>
    refine ⟨_, rfl, ?_⟩
    split
    · exact wantStatus_waits (by exact h) _
    · exact enterClosing_waits (by exact h) _
    · exact enterClosing_waits (by exact h) _
    all_goals exact h
  | pollIntervalWrite value =>
    refine ⟨_, rfl, ?_⟩
    split <;> exact h
  | attnWrite value =>
    refine ⟨_, rfl, ?_⟩
    unfold clearFlags sendMessage
    dsimp only
    repeat' first | exact h | split
  | registerWriteIgnored offset value => exact ⟨_, rfl, h⟩
  | encoderRawChange a b sensors => exact ⟨_, rfl, decodeLevels_waits (by exact h) _ _⟩
  | encoderHoldExpiry phases sensors => exact ⟨_, rfl, holdExpiry_waits h _ _⟩
  | breakInputActive =>
    refine ⟨_, rfl, ?_⟩
    split
    · exact h
    · exact (breakActivated_steady (onPins_steady r _)).statusWaits h
  | breakInputInactive => exact ⟨_, rfl, h⟩
  | helloReceived port packet => exact ⟨_, rfl, (receiveHello_steady r _ _).statusWaits h⟩
  | linePacketReceived port packet => exact ⟨_, rfl, (receiveLine_steady r _ _).statusWaits h⟩
  | lineDeadlineExpiry face => exact ⟨_, rfl, (assembleOverdue_steady _ r _).statusWaits h⟩
  | rxTakeItem face => exact ⟨_, rfl, (takeItem_steady r _).statusWaits h⟩
  | teLineItem face =>
    refine ⟨_, rfl, ?_⟩
    unfold takeLineItem
    repeat' first | exact h | exact (processLine_steady (onRxFace_steady r _ _) _ _ _).statusWaits h | split
  | tePatchEndItem face =>
    refine ⟨_, rfl, ?_⟩
    have passed : ∀ item runFull part, StatusWaits (processPatchEnd (popHanded s face) face item runFull part) :=
      fun item runFull part => (processPatchEnd_steady (onRxFace_steady r _ _) _ _ _ _).statusWaits h
    unfold takePatchEndItem
    split
    · exact h
    · split
      · dsimp only
        split
        · exact stopIfFinished_waits (finishPairing_waits (passed _ _ _) _)
        · exact passed _ _ _
      all_goals exact h
  | tePatchStartItem face =>
    refine ⟨_, rfl, ?_⟩
    unfold takePatchStartItem
    repeat' first | exact h | exact (processPatchStart_steady (onRxFace_steady r _ _) _ _).statusWaits h | split
  | teSpliceClosureItem face =>
    refine ⟨_, rfl, ?_⟩
    unfold takeSpliceItem
    repeat' first | exact h | exact (processSplice_steady (onRxFace_steady r _ _) _).statusWaits h | split
  | holdingQueueDrain => exact ⟨_, rfl, drainQueue_waits h⟩
  | pageTake =>
    refine ⟨_, rfl, ?_⟩
    split
    · exact (takeFromStock_steady r).statusWaits h
    · exact h
  | postComplete => exact ⟨_, rfl, completePost_waits h⟩
  | pageWriteFailure => exact ⟨_, rfl, failPage_waits h⟩
  | statusWriteComplete => exact ⟨_, rfl, endStatus_waits h⟩
  | statusWriteFailure => exact ⟨_, rfl, failStatus_waits h⟩
  | pollTick => exact ⟨_, rfl, pollTick_waits h⟩
  | pageAgeExpiry =>
    refine ⟨_, rfl, ?_⟩
    unfold agePost
    split
    · exact (beginPost_steady r _).statusWaits h
    · exact h
  | stallExpiry =>
    refine ⟨_, rfl, ?_⟩
    unfold stallEvent
    split
    · exact (beginPost_steady (onMu_steady r _ ⟨rfl, rfl, rfl⟩) _).statusWaits h
    · exact h
  | readTimeout read =>
    refine ⟨_, rfl, ?_⟩
    repeat' first | exact h | exact failRead_waits h _ | split
  | readErrorCompletion read =>
    refine ⟨_, rfl, ?_⟩
    split
    · exact failRead_waits h _
    · exact h
  | sampleReadComplete generation count written =>
    exact ⟨_, rfl, (completeSample_steady r _ _ _).statusWaits h⟩
  | batchCopyComplete entries => exact ⟨_, rfl, completeCopy_waits h _⟩
  | stockRereadComplete descriptors => exact ⟨_, rfl, (completeReread_steady r _).statusWaits h⟩
  | start rollId s0 => exact ⟨_, rfl, executeOrder_waits h _ _ (orderStart_waits h _ _)⟩
  | stop => exact ⟨_, rfl, executeOrder_waits h _ _ (orderStop_waits h)⟩
  | halt => exact ⟨_, rfl, executeOrder_waits h _ _ (orderHalt_waits h)⟩
  | recipe slot =>
    refine ⟨_, rfl, ?_⟩
    split
    · split
      · exact endOrder_waits h _
      · exact h
    · exact h
  | recipeLoadComplete slot =>
    refine ⟨_, rfl, ?_⟩
    split
    · exact h
    · exact endOrder_waits (judgeRecipe_waits (by exact h) _ _) _
  | flush => exact ⟨_, rfl, executeOrder_waits h _ _ (orderFlush_waits h)⟩
  | note value => exact ⟨_, rfl, executeOrder_waits h _ _ (orderNote_waits h _)⟩
  | markon => exact ⟨_, rfl, executeOrder_waits h _ _ (orderMarkon_waits h)⟩
  | clear => exact ⟨_, rfl, executeOrder_waits h _ _ (by exact h)⟩
  | levels levels => exact ⟨_, rfl, executeOrder_waits h _ _ (orderLevels_waits h _)⟩
  | headreset head => exact ⟨_, rfl, executeOrder_waits h _ _ (orderHeadreset_waits h _)⟩
  | unknownOrder code => exact ⟨_, rfl, executeOrder_waits h _ _ (by exact h)⟩
  | closeoutBegin => exact ⟨_, rfl, beginCloseout_waits h⟩

theorem exec_quiescent (c : Instr) (h : Quiescent s) (he : exec c s = .next t) : Quiescent t := by
  by_cases hp : ∃ x, c = .powerOn x
  · obtain ⟨straps, rfl⟩ := hp
    obtain rfl := Host.Outcome.next.inj he
    exact comeUp_quiescent ⟨rfl, .inl rfl⟩
  · by_cases hr : c = .partReset
    · subst hr
      obtain rfl := Host.Outcome.next.inj he
      exact comeUp_quiescent ⟨rfl, .inl rfl⟩
    · obtain ⟨u, hu, waits⟩ := exec_settled c (fun x e => hp ⟨x, e⟩) hr h.2
      obtain rfl := Host.Outcome.next.inj (hu.symm.trans he)
      exact settle_quiescent waits

/-- The clock counts the ms ticks a status block write has waited, and begins or ends none. -/
theorem tick_quiescent (h : Quiescent s) : Quiescent (tick s) := by
  obtain ⟨limit, waits⟩ := h
  have ms : ∀ u : State, u.cu = s.cu → u.xu = s.xu → Quiescent (msTick u) := fun u hc hx => by
    unfold msTick
    rw [countPoll_eq, countStall_eq]
    refine ⟨(congrArg ControlUnit.limitEvent hc).trans limit, ?_⟩
    show u.xu.statusWanted = none ∨ (u.xu.statusWrite.map _).isSome
    rw [Option.isSome_map, hx]
    exact waits
  unfold tick countMicrosecond
  dsimp only
  split
  · exact ⟨limit, waits⟩
  · split
    · exact ⟨limit, waits⟩
    · exact ms _ rfl rfl

/-- Settles O12: what a command does with the status block write, and the end of every step, which takes the limit event. -/
theorem stepStaysQuiescent : Obligations.StepStaysQuiescent := by
  intro s t hq h
  obtain rfl | ⟨c, rest, _, he⟩ := step_cases h
  · exact tick_quiescent hq
  · exact exec_quiescent (s := { s with pending := rest }) c hq he

end Sys2Proof.Machine
end

section
/-! SUPPORT. The encoder: what a raw change and a run-out hold decode to, what each decoded step does with P and the marker pulses, and
which marks an advance of H takes. -/

namespace Sys2Proof.Machine

variable {s t : State}

/-! ## Cuts and ends of pulses (R116, R121, R123) -/

theorem bump32_satAdd (n k : Nat) : bump32 (satAdd max32 n k) = satAdd max32 n (k + 1) := by
  unfold bump32 satAdd
  omega

/-- R123: all that the reverse-start event does to the Mark Unit. -/
theorem cutPulses_eq (s : State) :
    cutPulses s =
      { s with
        ku :=
          { s.ku with
            a := cutPulse s.ku.a
            b := cutPulse s.ku.b
            counters := s.ku.counters.withCuts (cutsOf s.ku.a s.ku.b) } } := by
  have twice : bump32 (bump32 s.ku.counters.cut) = satAdd max32 s.ku.counters.cut 2 := bump32_satAdd _ 1
  obtain ⟨pending, straps, pins, mu, lu, rx, te, sm, pu, ⟨a, b, queue, breakFlag, counters⟩, ru, rs, cu, xu, out, free⟩ := s
  cases a <;> cases b
  case active.active =>
    simp [cutPulses, cutOutput, MarkUnit.output, MarkUnit.setOutput, bumpCut, State.onMarkCounters, State.onKu, cutPulse,
      cutsOf, MarkCounters.withCuts, twice]
  all_goals rfl

theorem endPulse_a (s : State) : endPulse s .a = { s with ku := { s.ku with a := endedAt s.mu.h s.ku.a } } := by
  unfold endPulse MarkUnit.output
  cases h : s.ku.a <;> simp only [endedAt]
  case active stop => split <;> simp [State.onKu, MarkUnit.setOutput, ← h]
  all_goals rw [← h]

theorem endPulse_b (s : State) : endPulse s .b = { s with ku := { s.ku with b := endedAt s.mu.h s.ku.b } } := by
  unfold endPulse MarkUnit.output
  cases h : s.ku.b <;> simp only [endedAt]
  case active stop => split <;> simp [State.onKu, MarkUnit.setOutput, ← h]
  all_goals rw [← h]

/-- R121: the pulses that have come to their end are ended. -/
theorem endPulses_eq (s : State) : endPulse (endPulse s .a) .b = { s with ku := s.ku.ended s.mu.h } := by
  rw [endPulse_a, endPulse_b]
  rfl

/-! ## Decoded steps (R3 to R5) -/

theorem forwardStep_below (h1 : s.mu.p < s.mu.h) (h2 : s.mu.p < Config.positionLimit) :
    forwardStep s =
      { s with
        mu := { s.mu with direction := .forward, p := s.mu.p + 1, stallCount := 0, stallRaised := false } } := by
  have beyond : ¬ s.mu.h < s.mu.p + 1 := by omega
  simp only [forwardStep, movePosition, State.onMu, h2, if_true, beyond, if_false]

theorem forwardStep_top (h : s.mu.p = Config.positionLimit) :
    forwardStep s = { s with mu := { s.mu with direction := .forward } } := by
  simp only [forwardStep, State.onMu, h, lt_irrefl, if_false]

/-- R4: a forward step from H takes H along. -/
theorem forwardStep_fresh (h1 : s.mu.p = s.mu.h) (h2 : s.mu.p < Config.positionLimit) :
    forwardStep s =
      advance
        { s with
          mu := { s.mu with direction := .forward, p := s.mu.p + 1, stallCount := 0, stallRaised := false } } := by
  have beyond : s.mu.h < s.mu.p + 1 := by omega
  simp only [forwardStep, movePosition, State.onMu, h2, if_true, beyond]

/-- R3, R123: a reverse step; the first one in FORWARD cuts the pulses. -/
theorem reverseStep_eq (h : -Config.positionLimit < s.mu.p) :
    reverseStep s =
      { s with
        mu := { s.mu with direction := .reverse, p := s.mu.p - 1, stallCount := 0, stallRaised := false }
        ku :=
          if s.mu.direction = .forward then
            { s.ku with
              a := cutPulse s.ku.a
              b := cutPulse s.ku.b
              counters := s.ku.counters.withCuts (cutsOf s.ku.a s.ku.b) }
          else s.ku } := by
  unfold reverseStep
  by_cases hd : s.mu.direction = .forward
  · simp only [h, hd, if_true, movePosition, cutPulses_eq, State.onMu]
  · have hr : s.mu.direction = .reverse := by
      cases e : s.mu.direction
      · exact absurd e hd
      · rfl
    dsimp only
    rw [if_neg hd, if_pos h, if_neg hd, ← hr]
    rfl

theorem encoderJump_eq (s : State) :
    encoderJump s = { s with mu := if s.inspecting then { s.mu with jumps := s.mu.jumps.add s.mu.p } else s.mu } := by
  unfold encoderJump
  split <;> rfl

theorem encoderJump_jumps (s : State) :
    encoderJump s =
      { s with mu := { s.mu with jumps := if s.inspecting then s.mu.jumps.add s.mu.p else s.mu.jumps } } := by
  unfold encoderJump
  split <;> rfl

theorem decodeStep_forward {before after : Fin 4} (h : after = before + 1) : decodeStep s before after = forwardStep s := by
  have ne : ∀ x : Fin 4, x + 1 ≠ x := by decide
  rw [h, decodeStep, if_neg (ne _), if_pos rfl]

theorem decodeStep_reverse {before after : Fin 4} (h : after + 1 = before) : decodeStep s before after = reverseStep s := by
  have ne : ∀ x : Fin 4, x ≠ x + 1 ∧ x ≠ x + 1 + 1 := by decide
  rw [← h, decodeStep, if_neg (ne _).1, if_neg (ne _).2, if_pos rfl]

/-- R3: both levels changed together are two places of the cycle apart. -/
theorem decodeStep_jump {a0 b0 a b : Bool} (ha : a ≠ a0) (hb : b ≠ b0) :
    decodeStep s (cyclePlace a0 b0) (cyclePlace a b) = encoderJump s := by
  obtain rfl := Bool.eq_not.2 ha
  obtain rfl := Bool.eq_not.2 hb
  cases a0 <;> cases b0 <;> rfl

/-! ## Raw changes and holds (R2) -/

theorem arrive_settled (before raw : Bool) :
    Phase.arrive { accepted := before, hold := none } 0 before raw = { accepted := raw, hold := none } := by
  cases before <;> cases raw <;> rfl

/-- R2: with the filter at 0 a raw change is decoded at once. -/
theorem rawChange_settled (hs : EncoderSettled s) (a b : Bool) (sensors : Sensors) :
    rawChange s a b sensors =
      decodeStep
        { s with
          pins := { s.pins with encA := a, encB := b, sensors := sensors }
          mu := { s.mu with phaseA := { accepted := a, hold := none }, phaseB := { accepted := b, hold := none } } }
        (cyclePlace s.pins.encA s.pins.encB) (cyclePlace a b) := by
  obtain ⟨hf, hA, hB⟩ := hs
  have place : s.mu.place = cyclePlace s.pins.encA s.pins.encB := by
    unfold MotionUnit.place
    rw [hA, hB]
  unfold rawChange decodeLevels
  simp only [hf, setSensors, State.onPins_mu, place]
  rw [hA, hB, arrive_settled, arrive_settled]
  rfl

theorem exec_encoderRawChange (a b : Bool) (sensors : Sensors) (s : State) :
    exec (.encoderRawChange a b sensors) s = .next (settle s (rawChange s a b sensors)) := rfl

theorem exec_encoderHoldExpiry (phases : Phases) (sensors : Sensors) (s : State) :
    exec (.encoderHoldExpiry phases sensors) s = .next (settle s (holdExpiry s phases sensors)) := rfl

/-- A command that sends no limit event answers what its meaning makes of the state, but for the changed mark. -/
theorem exec_onlyStatus {c : Instr} {u v : State} (he : exec c s = .next (settle s u)) (hu : u = v)
    (hl : v.cu.limitEvent = false) : ∃ t, exec c s = .next t ∧ OnlyStatus v t :=
  ⟨_, he, hu ▸ settle_onlyStatus s (hu ▸ hl)⟩

/-- Settles O19, a decoded step at a time. -/
theorem encoderStepped : Obligations.EncoderStepped := by
  intro a b sensors s hq hf hA hB before pins m
  have settled := rawChange_settled ⟨hf, hA, hB⟩ a b sensors
  refine ⟨fun hp h1 h2 => ?_, fun hp h1 => ?_, fun hp h1 => ?_, fun ha hb => ?_⟩
  · exact exec_onlyStatus rfl (settled.trans ((decodeStep_forward hp).trans (forwardStep_below h1 h2))) hq.1
  · exact exec_onlyStatus rfl (settled.trans ((decodeStep_forward hp).trans (forwardStep_top h1))) hq.1
  · exact exec_onlyStatus rfl (settled.trans ((decodeStep_reverse hp).trans (reverseStep_eq h1))) hq.1
  · exact exec_onlyStatus rfl (settled.trans ((decodeStep_jump ha hb).trans (encoderJump_eq _))) hq.1

/-! ## Holds that run out (R2, log 26) -/

theorem ripe_iff (p : Phase) (n : Nat) : p.ripe n = true ↔ ∃ x, p.hold = some x ∧ 5 * n ≤ 2 * x := by
  unfold Phase.ripe
  cases h : p.hold <;> simp

theorem ripe_eq_false {p : Phase} {n x : Nat} (hp : p.hold = some x) (h : 2 * x < 5 * n) : p.ripe n = false := by
  unfold Phase.ripe
  simp [hp, h]

/-- R2, log 26: a ripe hold runs out alone when the other phase is not held, or has been held for less time or too little. -/
theorem runs_out_alone {p q : Phase} {n x : Nat} (hp : p.hold = some x) (h : 5 * n ≤ 2 * x)
    (young : q.hold = none ∨ ∃ y, q.hold = some y ∧ (y < x ∨ 2 * y < 5 * n)) :
    (p.ripe n && (!q.ripe n || decide (q.hold.getD 0 < p.hold.getD 0))) = true := by
  have ripe : p.ripe n = true := (ripe_iff p n).2 ⟨x, hp, h⟩
  rw [ripe, Bool.true_and, Bool.or_eq_true, Bool.not_eq_true', decide_eq_true_eq, hp]
  obtain hq | ⟨y, hq, hy | hy⟩ := young
  · exact .inl (by simp [Phase.ripe, hq])
  · exact .inr (by simpa [hq] using hy)
  · exact .inl (ripe_eq_false hq hy)

theorem holdExpiry_early {phases : Phases} (sensors : Sensors) (h : holdsRunOut s.mu (encoderFilter s) phases = false) :
    holdExpiry s phases sensors = { s with pins := { s.pins with sensors := sensors } } := by
  unfold holdExpiry
  dsimp only
  rw [h]
  rfl

theorem holdExpiry_late {phases : Phases} (sensors : Sensors) (h : holdsRunOut s.mu (encoderFilter s) phases = true) :
    holdExpiry s phases sensors =
      let a := if phases = .b then s.mu.phaseA else s.mu.phaseA.accept
      let b := if phases = .a then s.mu.phaseB else s.mu.phaseB.accept
      let m := { s.mu with phaseA := a, phaseB := b }
      decodeStep { s with pins := { s.pins with sensors := sensors }, mu := m } s.mu.place m.place := by
  unfold holdExpiry
  dsimp only
  rw [h]
  cases phases <;> rfl

theorem accept_place_jump (m : MotionUnit) :
    decodeStep s m.place (cyclePlace (!m.phaseA.accepted) (!m.phaseB.accepted)) = encoderJump s :=
  decodeStep_jump (Bool.not_ne_self _) (Bool.not_ne_self _)

/-- Settles O21: which holds run out, and the decoded step. -/
theorem encoderHoldRunsOut : Obligations.EncoderHoldRunsOut := by
  intro n sensors s hq hf pins a b old young steps
  have stepped : ∀ phases m, m.p = s.mu.p → m.h = s.mu.h → m.direction = s.mu.direction →
      holdExpiry s phases sensors = decodeStep { s with pins := pins, mu := m } old m.place → steps phases m := by
    intro phases m hp hh hd hx
    refine ⟨fun hplace h1 h2 => ?_, fun hplace h1 => ?_⟩
    · have below := forwardStep_below (s := { s with pins := pins, mu := m }) (by simpa only [hp, hh] using h1)
        (by simpa only [hp] using h2)
      dsimp only at below
      rw [hp] at below
      exact exec_onlyStatus rfl (hx.trans ((decodeStep_forward hplace).trans below)) hq.1
    · have back := reverseStep_eq (s := { s with pins := pins, mu := m }) (by simpa only [hp] using h1)
      dsimp only at back
      rw [hp, hd] at back
      exact exec_onlyStatus rfl (hx.trans ((decodeStep_reverse hplace).trans back)) hq.1
  subst hf
  refine ⟨fun na ha h => ?_, fun nb hb h => ?_, fun na ha h hy => ?_, fun nb hb h hy => ?_, fun na ha hb h => ?_⟩
  · refine exec_onlyStatus rfl (holdExpiry_early sensors ?_) hq.1
    simp only [holdsRunOut, ripe_eq_false ha h, Bool.false_and]
  · refine exec_onlyStatus rfl (holdExpiry_early sensors ?_) hq.1
    simp only [holdsRunOut, ripe_eq_false hb h, Bool.false_and]
  · exact stepped _ _ rfl rfl rfl (holdExpiry_late sensors (runs_out_alone ha h hy))
  · exact stepped _ _ rfl rfl rfl (holdExpiry_late sensors (runs_out_alone hb h hy))
  · have both : holdsRunOut s.mu (encoderFilter s) .both = true := by
      simp only [holdsRunOut, (ripe_iff _ _).2 ⟨na, ha, h⟩, (ripe_iff _ _).2 ⟨na, hb, h⟩, ha, hb, Bool.true_and,
        beq_self_eq_true]
    exact exec_onlyStatus rfl ((holdExpiry_late sensors both).trans ((accept_place_jump s.mu).trans
      (encoderJump_jumps _))) hq.1

end Sys2Proof.Machine
end

section
/-! SUPPORT. What taking a record without a mark request does: which blocks it reads and which it leaves alone, and the record that
is numbered and kept. -/

namespace Sys2Proof.Machine

variable {s t : State}

theorem takeNumber_ku (s : State) : (takeNumber s).1.ku = s.ku := by
  unfold takeNumber
  dsimp only
  repeat' first | rfl | split

theorem placeRecord_frame (s : State) (number : Option Nat) (mark : MarkState) (body : RecordBody) :
    ∃ ru, placeRecord s number mark body = { s with ru := ru } := by
  unfold placeRecord loseRecord
  dsimp only
  repeat' first | exact ⟨_, rfl⟩ | split

/-- A FAULT record alone acts on more than the Record Unit as it is counted. -/
def RecordBody.isFault : RecordBody → Bool
  | .fault _ _ _ _ _ => true
  | _ => false

theorem countRecord_frame {body : RecordBody} (h : body.isFault = false) (s : State) :
    ∃ ru, countRecord s body = { s with ru := ru } := by
  cases body
  case fault => cases h
  all_goals exact ⟨_, rfl⟩

theorem captureFault_ku (s : State) (code : FaultCode) : (captureFault s code).ku = s.ku := by
  unfold captureFault
  rw [raise_eq]
  rfl

theorem countRecord_ku (s : State) (body : RecordBody) : (countRecord s body).ku = s.ku := by
  unfold countRecord
  split
  case h_3 => exact captureFault_ku s _
  all_goals rfl

theorem issue_ku (s : State) (body : RecordBody) : (issue s body).ku = s.ku := by
  obtain ⟨ru, place⟩ := placeRecord_frame (takeNumber s).1 (takeNumber s).2 .none body
  unfold issue
  dsimp only
  rw [countRecord_ku, place]
  exact takeNumber_ku s

/-! ## The Record Unit reads nothing but itself and H -/

theorem onRu_ru_congr (h : s.ru = t.ru) (g : RecordUnit → RecordUnit) : (s.onRu g).ru = (t.onRu g).ru := congrArg g h

theorem takeNumber_ru_congr (h : s.ru = t.ru) :
    (takeNumber s).1.ru = (takeNumber t).1.ru ∧ (takeNumber s).2 = (takeNumber t).2 := by
  unfold takeNumber
  rw [h]
  dsimp only
  split
  · dsimp only
    split
    · exact ⟨onRu_ru_congr h fun r => { r with nextSeq := t.ru.nextSeq + 1 }, rfl⟩
    · exact ⟨onRu_ru_congr h _, rfl⟩
  · exact ⟨h, rfl⟩

theorem placeRecord_ru_congr (h : s.ru = t.ru) (hh : s.mu.h = t.mu.h) (number : Option Nat) (mark : MarkState)
    (body : RecordBody) : (placeRecord s number mark body).ru = (placeRecord t number mark body).ru := by
  unfold placeRecord loseRecord
  rw [h]
  dsimp only
  split
  · exact onRu_ru_congr h _
  · split
    · simp only [State.onRu_ru, h, hh]
    · exact onRu_ru_congr h _

theorem countRecord_ru_congr (h : s.ru = t.ru) (body : RecordBody) : (countRecord s body).ru = (countRecord t body).ru := by
  have capture : ∀ (u : State) code, (captureFault u code).ru = u.ru := fun u code => raise_ru _ _
  unfold countRecord
  split
  case h_1 => exact onRu_ru_congr h _
  case h_2 => exact onRu_ru_congr h _
  case h_3 => rw [capture, capture, h]
  all_goals exact h

theorem issue_ru_congr (h : s.ru = t.ru) (hh : s.mu.h = t.mu.h) (body : RecordBody) :
    (issue s body).ru = (issue t body).ru := by
  obtain ⟨hru, hnumber⟩ := takeNumber_ru_congr h
  have same : (takeNumber s).1.mu.h = (takeNumber t).1.mu.h :=
    (takeNumber_steady (Steady.refl s)).h.trans (hh.trans (takeNumber_steady (Steady.refl t)).h.symm)
  unfold issue
  dsimp only
  rw [hnumber]
  exact countRecord_ru_congr (placeRecord_ru_congr hru same _ _ _) _

/-! ## A record that is numbered without the sequence-limit event (R130) -/

theorem takeNumber_eq (h1 : s.ru.nextSeq ≤ Config.lastSequence) (h2 : s.ru.nextSeq ≠ Config.sequenceLimit) :
    takeNumber s = (s.onRu fun r => { r with nextSeq := s.ru.nextSeq + 1 }, some s.ru.nextSeq) := by
  unfold takeNumber
  dsimp only
  rw [if_pos h1, if_neg h2]

/-- R130, R138: the record takes its number and a place in the holding queue. -/
theorem issue_kept {body : RecordBody} (h1 : s.ru.nextSeq ≤ Config.lastSequence) (h2 : s.ru.nextSeq ≠ Config.sequenceLimit)
    (ho : s.ru.tallyOpen = false) (hr : body.slots ≤ freeSlots s.ru) (hc : ∀ u, countRecord u body = u) :
    issue s body =
      { s with
        ru :=
          { s.ru with
            nextSeq := s.ru.nextSeq + 1
            queue := s.ru.queue ++ [{ seq := s.ru.nextSeq, mark := .none, body := body }] } } := by
  have room : decide (freeSlots (s.onRu fun r => { r with nextSeq := s.ru.nextSeq + 1 }).ru < body.slots) = false :=
    decide_eq_false (Nat.not_lt.2 hr)
  unfold issue
  rw [takeNumber_eq h1 h2]
  dsimp only
  rw [hc]
  unfold placeRecord
  dsimp only
  rw [room]
  simp only [State.onRu, ho, Bool.or_self, Bool.false_eq_true, if_false]

/-- R130: a record that is no FAULT record and does not give the sequence limit's number leaves the Control Unit alone. -/
theorem issue_cu {body : RecordBody} (hf : body.isFault = false) (h : s.ru.nextSeq ≠ Config.sequenceLimit) :
    (issue s body).cu = s.cu := by
  have numbered : (takeNumber s).1.cu = s.cu := by
    unfold takeNumber
    dsimp only
    split <;> rfl
  obtain ⟨ru, place⟩ := placeRecord_frame (takeNumber s).1 (takeNumber s).2 .none body
  obtain ⟨ru', count⟩ := countRecord_frame hf { (takeNumber s).1 with ru := ru }
  unfold issue
  dsimp only
  rw [place, count]
  exact numbered

theorem placeRecord_nextSeq (s : State) (number : Option Nat) (mark : MarkState) (body : RecordBody) :
    (placeRecord s number mark body).ru.nextSeq = s.ru.nextSeq := by
  unfold placeRecord loseRecord
  dsimp only
  repeat' first | rfl | exact joinLoss_nextSeq _ _ _ _ | split

theorem countRecord_nextSeq (s : State) (body : RecordBody) : (countRecord s body).ru.nextSeq = s.ru.nextSeq := by
  have capture : ∀ code, (captureFault s code).ru = s.ru := fun code => raise_ru _ _
  unfold countRecord
  split
  case h_3 => rw [capture]
  all_goals rfl

/-- R130: at most one number is given. -/
theorem issue_nextSeq_le (s : State) (body : RecordBody) : (issue s body).ru.nextSeq ≤ s.ru.nextSeq + 1 := by
  have numbered : (takeNumber s).1.ru.nextSeq ≤ s.ru.nextSeq + 1 := by
    unfold takeNumber
    dsimp only
    split
    · dsimp only
      split <;> exact le_refl _
    · exact Nat.le_succ _
  unfold issue
  dsimp only
  rwa [countRecord_nextSeq, placeRecord_nextSeq]

end Sys2Proof.Machine
end

section
/-! SUPPORT. An advance of H onto fresh web: the marks it takes, and in RUNNING and STOPPING the samples and lines before them. -/

namespace Sys2Proof.Machine

variable {s t : State}

/-! ## The step onto fresh web -/

/-- R4: a raw change that is a forward step from H is an advance onto fresh web. -/
theorem rawChange_fresh {a b : Bool} (sensors : Sensors) (hs : EncoderSettled s)
    (hc : cyclePlace a b = cyclePlace s.pins.encA s.pins.encB + 1) (hp : s.mu.p = s.mu.h)
    (hl : s.mu.h < Config.positionLimit) :
    rawChange s a b sensors =
      advanceMarks
        (if s.inspecting then inspectAdvance (ontoFreshWeb a b sensors s) else ontoFreshWeb a b sensors s) := by
  have step := (rawChange_settled hs a b sensors).trans ((decodeStep_forward hc).trans (forwardStep_fresh hp (hp ▸ hl)))
  rw [step, hp]
  rfl

/-! ## The marks that are due (R121, R125) -/

theorem due_split {h : Int} {due rest : List MarkEntry} (hd : ∀ e ∈ due, e.fire ≤ h) (hr : ∀ e ∈ rest, h < e.fire) :
    (due ++ rest).takeWhile (fun e => decide (e.fire ≤ h)) = due ∧
      (due ++ rest).dropWhile (fun e => decide (e.fire ≤ h)) = rest := by
  have all : ∀ e ∈ due, decide (e.fire ≤ h) = true := fun e he => decide_eq_true (hd e he)
  rw [List.takeWhile_append_of_pos all, List.dropWhile_append_of_pos all]
  cases rest with
  | nil => exact ⟨List.append_nil _, rfl⟩
  | cons e later =>
    have far : decide (e.fire ≤ h) = false := decide_eq_false (by have := hr e (List.mem_cons_self ..); omega)
    simp only [List.takeWhile_cons, List.dropWhile_cons, far, Bool.false_eq_true, if_false, List.append_nil, and_self]

/-- R121: the marks at the head of the queue that have come due are taken in their order, then pulses end. -/
theorem advanceMarks_split {due rest : List MarkEntry} (hq : s.ku.queue = due ++ rest)
    (hd : ∀ e ∈ due, e.fire ≤ s.mu.h) (hr : ∀ e ∈ rest, s.mu.h < e.fire) :
    advanceMarks s =
      let taken := due.foldl takeMark { s with ku := { s.ku with queue := rest } }
      { taken with ku := taken.ku.ended s.mu.h } := by
  obtain ⟨htake, hdrop⟩ := due_split hd hr
  have stays := (foldl_steady takeMark (fun _ x hu => takeMark_steady hu x) due
    (Steady.refl { s with ku := { s.ku with queue := rest } })).h
  unfold advanceMarks
  dsimp only
  rw [hq, htake, endPulses_eq]
  simp only [State.onKu, hq, hdrop, stays]

theorem advanceMarks_none_due (h : ∀ e ∈ s.ku.queue, s.mu.h < e.fire) :
    advanceMarks s = { s with ku := s.ku.ended s.mu.h } :=
  advanceMarks_split (due := []) rfl nofun h

theorem layMark_breakFlag (s : State) (o : MarkOut) (stop : Int) : (layMark s o stop).ku.breakFlag = s.ku.breakFlag := by
  unfold layMark
  cases o <;> split <;> rfl

theorem layMark_cu (s : State) (o : MarkOut) (stop : Int) : (layMark s o stop).cu = s.cu := by
  unfold layMark
  split <;> rfl

theorem foldl_layMark_cu (due : List MarkEntry) (s : State) :
    (due.foldl (fun u e => layMark u e.out (e.fire + e.length)) s).cu = s.cu := by
  induction due generalizing s with
  | nil => rfl
  | cons e rest ih => exact (ih _).trans (layMark_cu _ _ _)

/-- R121: without the break flag the marks that are due are laid. -/
theorem foldl_takeMark_laid (due : List MarkEntry) (hb : s.ku.breakFlag = false) :
    due.foldl takeMark s = due.foldl (fun u e => layMark u e.out (e.fire + e.length)) s := by
  induction due generalizing s with
  | nil => rfl
  | cons e rest ih =>
    have laid : takeMark s e = layMark s e.out (e.fire + e.length) := by
      unfold takeMark
      rw [hb]
      rfl
    simp only [List.foldl_cons, laid]
    exact ih ((layMark_breakFlag _ _ _).trans hb)

theorem issueMissed_breakFlag (s : State) (e : MarkEntry) (reason : MissReason) :
    (issueMissed s e reason).ku.breakFlag = s.ku.breakFlag := by
  unfold issueMissed bumpMissed
  rw [State.onMarkCounters_ku, issue_ku]

/-- R125: while the break flag stands the marks that are due are missed. -/
theorem foldl_takeMark_missed (due : List MarkEntry) (hb : s.ku.breakFlag = true) :
    due.foldl takeMark s = due.foldl (fun u e => issueMissed u e .brk) s := by
  induction due generalizing s with
  | nil => rfl
  | cons e rest ih =>
    have missed : takeMark s e = issueMissed s e .brk := by
      unfold takeMark
      rw [hb]
      rfl
    simp only [List.foldl_cons, missed]
    exact ih ((issueMissed_breakFlag _ _ _).trans hb)

/-- R130: as many MARK_MISSED records as there are numbers before the sequence limit send no limit event. -/
theorem foldl_issueMissed_cu (due : List MarkEntry) (hn : s.ru.nextSeq + due.length ≤ Config.sequenceLimit) :
    (due.foldl (fun u e => issueMissed u e .brk) s).cu = s.cu := by
  induction due generalizing s with
  | nil => rfl
  | cons e rest ih =>
    rw [List.length_cons] at hn
    have next : (issueMissed s e .brk).ru.nextSeq ≤ s.ru.nextSeq + 1 := issue_nextSeq_le s _
    refine (ih (by dsimp only; omega)).trans ?_
    exact issue_cu rfl (by omega)

/-- R121: a pulse that starts or is prolonged beyond `h` does not end at `h`. -/
theorem ended_setOutput (k : MarkUnit) (o : MarkOut) {stop h : Int} (hs : h < stop) :
    (k.setOutput o (.active stop)).ended h = (k.ended h).setOutput o (.active stop) := by
  have runs : endedAt h (.active stop) = .active stop := if_neg (Int.not_le.2 hs)
  cases o <;> simp only [MarkUnit.setOutput, MarkUnit.ended, runs]

theorem layMark_idle {o : MarkOut} (stop : Int) (h : s.ku.output o = .idle) :
    layMark s o stop =
      { s with
        ku :=
          { s.ku.setOutput o (.active stop) with
            counters := { s.ku.counters with fired := bump32 s.ku.counters.fired } } } := by
  unfold layMark
  rw [h]
  cases o <;> rfl

theorem layMark_active {o : MarkOut} {e : Int} (stop : Int) (h : s.ku.output o = .active e) :
    layMark s o stop =
      { s with
        ku :=
          { s.ku.setOutput o (.active (max e stop)) with
            counters := { s.ku.counters with merged := bump32 s.ku.counters.merged } } } := by
  unfold layMark
  rw [h]
  cases o <;> rfl

/-- Settles O20: the marks due are those `advanceMarks` takes off the queue, laid or missed as the break flag stands. -/
theorem advanceFiresMarks : Obligations.AdvanceFiresMarks := by
  intro a b sensors s hq hs hc hp hl hi h moved
  have fresh : rawChange s a b sensors = advanceMarks moved := by
    rw [rawChange_fresh sensors hs hc hp hl, hi]
    rfl
  have one : ∀ {e : MarkEntry} {rest : List MarkEntry}, s.ku.queue = e :: rest → s.ku.breakFlag = false → e.fire ≤ h →
      (∀ x ∈ rest, h < x.fire) → rawChange s a b sensors =
        let laid := layMark { moved with ku := { s.ku with queue := rest } } e.out (e.fire + e.length)
        { laid with ku := laid.ku.ended h } := by
    intro e rest hqueue hb hfire hrest
    have alone : ∀ x ∈ [e], x.fire ≤ moved.mu.h := fun x hx => List.mem_singleton.1 hx ▸ hfire
    rw [fresh, advanceMarks_split (s := moved) (due := [e]) hqueue alone hrest, foldl_takeMark_laid _ (by exact hb)]
    rfl
  refine ⟨fun hnone => ?_, ?_, ?_⟩
  · exact exec_onlyStatus rfl (fresh.trans (advanceMarks_none_due hnone)) hq.1
  · intro e rest hqueue hb hfire hlong hrest k
    refine ⟨fun hidle => ?_, fun stop hactive => ?_⟩
    · refine exec_onlyStatus rfl ((one hqueue hb hfire hrest).trans ?_) hq.1
      rw [layMark_idle (s := { moved with ku := { s.ku with queue := rest } }) _ (by cases ho : e.out <;> exact ho ▸ hidle)]
      rw [← ended_setOutput _ _ hlong]
      rfl
    · refine exec_onlyStatus rfl ((one hqueue hb hfire hrest).trans ?_) hq.1
      rw [layMark_active (s := { moved with ku := { s.ku with queue := rest } }) _ (by cases ho : e.out <;> exact ho ▸ hactive)]
      rw [← ended_setOutput _ _ (lt_max_of_lt_right hlong)]
      rfl
  · intro due rest hqueue hdue hrest left laid missed
    refine ⟨fun hb => ?_, fun hb hn => ?_⟩
    · refine exec_onlyStatus rfl (fresh.trans ((advanceMarks_split (s := moved) hqueue hdue hrest).trans ?_))
        ((congrArg ControlUnit.limitEvent (foldl_layMark_cu due left)).trans hq.1)
      rw [foldl_takeMark_laid due (by exact hb)]
      rfl
    · refine exec_onlyStatus rfl (fresh.trans ((advanceMarks_split (s := moved) hqueue hdue hrest).trans ?_))
        ((congrArg ControlUnit.limitEvent (foldl_issueMissed_cu (s := left) due hn)).trans hq.1)
      rw [foldl_takeMark_missed due (by exact hb)]
      rfl

/-! ## Updates that change nothing -/

@[simp] theorem PerFace.set_get {α : Type} (x : PerFace α) (f : Face) : x.set f (x.get f) = x := by cases f <;> rfl

@[simp] theorem PerFace.set_set {α : Type} (x : PerFace α) (f : Face) (v w : α) : (x.set f v).set f w = x.set f w := by
  cases f <;> rfl

theorem onMuFace_eq (s : State) (f : Face) (g : MuFace → MuFace) :
    s.onMuFace f g = { s with mu := { s.mu with faces := s.mu.faces.set f (g (s.muFace f)) } } := rfl

theorem onMuFace_same {f : Face} {g : MuFace → MuFace} (h : g (s.muFace f) = s.muFace f) : s.onMuFace f g = s := by
  rw [onMuFace_eq, h, State.muFace, PerFace.set_get]

/-! ## Inputs at their accepted levels -/

theorem sampleInput_accepted (begun : Option BegunEdge) (level : Bool) (stamp : Int) (filter : Nat) :
    sampleInput begun level level stamp filter = { begun := none, accepted := none } := by
  unfold sampleInput
  rw [if_pos rfl]

theorem sampleMark_quiet {f : Face} (sp : SharedPart) (hb : (s.muFace f).begun = none)
    (hl : (s.muFace f).acceptedLevel = markLevel s f) : sampleMark s sp f = s := by
  unfold sampleMark
  dsimp only
  split
  · rfl
  · rw [hl, sampleInput_accepted]
    refine onMuFace_same ?_
    rw [← hb]

theorem sampleSplice_quiet (sp : SharedPart) (hb : s.mu.spliceBegun = none)
    (hl : s.mu.spliceAccepted = s.pins.sensors.splice) : sampleSplice s sp = s := by
  unfold sampleSplice
  dsimp only
  split
  · rfl
  · rw [hl, sampleInput_accepted]
    dsimp only [State.onMu]
    rw [← hb]

/-! ## The advance in RUNNING and STOPPING -/

theorem inspectAdvance_eq {sp : SharedPart} (h : s.shared = some sp) :
    inspectAdvance s =
      prepareIfDue
        (prepareIfDue (sampleSplice (sampleMark (sampleMark (sendLimit s) sp .upper) sp .lower) sp) sp .upper) sp
        .lower := by
  unfold inspectAdvance
  rw [h]

theorem sendLimit_below (h : s.mu.h < Config.positionLimit) : sendLimit s = s := by
  unfold sendLimit
  rw [if_neg (by omega)]

theorem sendLimit_at (h : s.mu.h = Config.positionLimit) (hs : s.mu.limitSent = false) :
    sendLimit s =
      { s with mu := { s.mu with limitSent := true }, cu := { s.cu with limitEvent := true } } := by
  unfold sendLimit
  rw [if_pos ⟨h.ge, hs⟩]
  rfl

theorem inspectAdvance_steady {sp : SharedPart} (h : s.shared = some sp) :
    Steady (sendLimit s) (inspectAdvance s) := by
  rw [inspectAdvance_eq h]
  exact prepareIfDue_steady (prepareIfDue_steady (sampleSplice_steady (sampleMark_steady (sampleMark_steady
    (Steady.refl _) _ _) _ _) _) _ _) _ _

/-! ## Entry to CLOSING and the end of the step -/

/-- R163: what entry to CLOSING makes of the Control Unit, and what it leaves of the Motion Unit and the Pairing Unit. -/
theorem enterClosing_closes (hi : s.inspecting = true) (reason : EndReason) :
    let t := enterClosing s reason
    t.cu.state = .closing ∧ t.cu.endReason = some reason ∧ t.mu.p = s.mu.p ∧ t.mu.h = s.mu.h ∧
      t.mu.limitSent = s.mu.limitSent ∧ ∀ f, (t.puFace f).finished = (s.puFace f).finished := by
  intro t
  have blocks := closingBlocks_steady (Steady.refl (s.onCu fun c =>
    { c with state := .closing, endReason := some reason, phase := .waiting }))
  have cu := wantStatus_cu (discardPending (assembleAll (assembleAll (discardBegun (closeSkip (closeSkip (s.onCu fun c =>
    { c with state := .closing, endReason := some reason, phase := .waiting }) .upper) .lower)) .upper) .lower)) Owed.none
  obtain ⟨_, _, _, ⟨mu, _, _⟩, ⟨_, _, pu⟩, _⟩ := wantStatus_reporting (discardPending (assembleAll (assembleAll
    (discardBegun (closeSkip (closeSkip (s.onCu fun c =>
      { c with state := .closing, endReason := some reason, phase := .waiting }) .upper) .lower)) .upper) .lower)) Owed.none
  have ht : t = _ := show enterClosing s reason = _ by
    unfold enterClosing
    rw [if_pos hi]
  rw [ht]
  dsimp only [State.puFace]
  rw [cu, mu, pu]
  exact ⟨blocks.state, blocks.endReason, blocks.p, blocks.h, blocks.limitSent, blocks.finished⟩

theorem enterClosing_ignored (hi : s.inspecting = false) (reason : EndReason) : enterClosing s reason = s := by
  unfold enterClosing
  rw [hi]
  rfl

theorem markChanged_eq (before s : State) : ∃ changed, markChanged before s = { s with xu := { s.xu with changed := changed } } := by
  unfold markChanged
  split
  · exact ⟨s.xu.changed, rfl⟩
  · exact ⟨true, rfl⟩

/-- R4, R163: a limit event that waits in a roll at the end of a step ends it. -/
theorem settle_closes {before : State} (hl : s.cu.limitEvent = true) (hi : s.inspecting = true) :
    let t := settle before s
    t.cu.state = .closing ∧ t.cu.endReason = some .limit ∧ t.mu.p = s.mu.p ∧ t.mu.h = s.mu.h ∧
      t.mu.limitSent = s.mu.limitSent := by
  obtain ⟨state, reason, p, h, sent, _⟩ := enterClosing_closes hi .limit
  intro t
  obtain ⟨changed, ht⟩ := markChanged_eq before (takeLimit s)
  have taken : takeLimit s = (enterClosing s .limit).onCu fun c => { c with limitEvent := false } := by
    unfold takeLimit
    rw [if_pos hl]
  have he : t = _ := ht.trans (by rw [taken])
  rw [he]
  exact ⟨state, reason, p, h, sent⟩

/-- Settles O16: the stages of the advance, quiet ones that change nothing, and the limit event taken at the end of the step. -/
theorem inspectingAdvance : Obligations.InspectingAdvance := by
  intro a b sensors sp s hq hs hc hp hi hsp h moved sampled prepared
  have fresh : s.mu.h < Config.positionLimit → rawChange s a b sensors = advanceMarks (inspectAdvance moved) := fun hl => by
    rw [rawChange_fresh sensors hs hc hp hl, hi]
    rfl
  have below : h < Config.positionLimit → rawChange s a b sensors = advanceMarks prepared := fun hl => by
    rw [fresh (by omega), inspectAdvance_eq (s := moved) hsp, sendLimit_below (s := moved) hl]
  refine ⟨fun hl hn => ?_, fun hl hmarks hb hacc hdue hnone => ?_, fun hl hsent => ?_⟩
  · exact exec_onlyStatus rfl (below hl) hn
  · have still : prepared = moved := by
      have marks : ∀ f, sampleMark moved sp f = moved := fun f => by
        obtain ⟨begun, level⟩ := hmarks f
        exact sampleMark_quiet sp begun level
      have lines : ∀ f, prepareIfDue moved sp f = moved := fun f => if_neg (Bool.eq_false_iff.1 (hdue f))
      show prepareIfDue (prepareIfDue (sampleSplice (sampleMark (sampleMark moved sp .upper) sp .lower) sp) sp .upper) sp
        .lower = moved
      rw [marks, marks, sampleSplice_quiet (s := moved) sp hb hacc, lines, lines]
    exact exec_onlyStatus rfl ((below hl).trans ((congrArg advanceMarks still).trans (advanceMarks_none_due (s := moved) hnone))) hq.1
  · have steady := advanceMarks_steady (inspectAdvance_steady (s := moved) hsp)
    rw [sendLimit_at (s := moved) hl hsent] at steady
    obtain ⟨state, reason, p, hh, sent⟩ := settle_closes (before := s) (steady.limit rfl) (steady.inspecting.trans hi)
    refine ⟨_, rfl, ?_⟩
    rw [fresh (by omega)]
    exact ⟨p.trans (steady.p.trans hl), hh.trans (steady.h.trans hl), sent.trans steady.limitSent, state, reason⟩

end Sys2Proof.Machine
end

section
/-! SUPPORT. Samples and posts begun, and the ticks that have come due. -/

namespace Sys2Proof.Machine

variable {s t : State}

/-! ## Samples (R181) -/

theorem startSample_fresh (ho : s.cu.state ≠ .off) (hx : s.xu.sample = none) :
    startSample s =
      { s with
        xu := { s.xu with sample := some 0 }
        out := s.out ++ [.busRead s.xu.xbase 8, .busRead (s.xu.xbase + 0x400#64) 4] } := by
  unfold startSample
  rw [if_neg ho, hx]
  simp [State.emit, State.onXu, exchangeAt]

theorem startSample_again (ho : s.cu.state ≠ .off) (hx : s.xu.sample.isSome = true) :
    startSample s = { s with xu := { s.xu with resample := true } } := by
  unfold startSample
  rw [if_neg ho, if_pos hx]
  rfl

/-! ## Posts (R186, R187) -/

theorem beginPost_records {page : Page} (reason : PostReason) (hp : s.xu.filling = some page) (hr : page.records ≠ []) :
    beginPost s reason = postBegun s page reason := by
  unfold beginPost
  rw [hp]
  dsimp only
  rw [if_neg (by simp [hr])]
  simp [State.emit, State.onXu, postBegun]

theorem beginPost_empty (reason : PostReason) (hp : ∀ page ∈ s.xu.filling, page.records = []) : beginPost s reason = s := by
  unfold beginPost
  split
  · rfl
  · next page hf =>
    have empty := hp page hf
    rw [if_pos (by simp [empty])]

/-! ## Ticks that have come due -/

theorem pollTick_due (ho : s.cu.state ≠ .off) (hd : s.xu.pollDue = true) :
    pollTick s =
      let sampled := startSample { s with xu := { s.xu with pollCount := 0, pollDue := false } }
      if s.xu.changed then wantStatus sampled Owed.none else sampled := if_pos ⟨ho, hd⟩

theorem pollTick_idle (h : s.cu.state = .off ∨ s.xu.pollDue = false) : pollTick s = s := by
  refine if_neg fun ⟨ho, hd⟩ => ?_
  rcases h with off | early
  · exact ho off
  · exact Bool.false_ne_true (early.symm.trans hd)

theorem ageReached_eq {page : Page} {sp : SharedPart} (hp : s.xu.filling = some page) (hr : page.records ≠ [])
    (hs : s.shared = some sp) : ageReached s = decide (sp.postAge ≤ page.age) := by
  unfold ageReached
  rw [hs, hp]
  simp [hr]

theorem agePost_empty (h : (∀ page ∈ s.xu.filling, page.records = []) ∨ s.shared = none) : agePost s = s := by
  rcases h with empty | unshared
  · unfold agePost
    rw [beginPost_empty .age empty, ite_self]
  · have early : ageReached s = false := by
      unfold ageReached
      rw [unshared]
      cases s.xu.filling <;> rfl
    exact if_neg (Bool.eq_false_iff.1 early)

theorem stallReached_iff :
    stallReached s = true ↔
      ∃ sp, s.shared = some sp ∧ s.cu.state ≠ .off ∧ s.mu.stallRaised = false ∧ sp.stallTime ≤ s.mu.stallCount := by
  unfold stallReached
  cases h : s.shared with
  | none => simp
  | some sp => simp [and_assoc]

theorem stallEvent_due {sp : SharedPart} (hs : s.shared = some sp) (ho : s.cu.state ≠ .off)
    (hr : s.mu.stallRaised = false) (ht : sp.stallTime ≤ s.mu.stallCount) :
    stallEvent s = beginPost { s with mu := { s.mu with stallRaised := true } } .stall :=
  if_pos (stallReached_iff.2 ⟨sp, hs, ho, hr, ht⟩)

theorem stallEvent_idle
    (h : s.mu.stallRaised = true ∨ s.cu.state = .off ∨ ∀ sp ∈ s.shared, s.mu.stallCount < sp.stallTime) :
    stallEvent s = s := by
  refine if_neg fun reached => ?_
  obtain ⟨sp, hs, ho, hr, ht⟩ := stallReached_iff.1 reached
  rcases h with raised | off | early
  · exact Bool.false_ne_true (hr.symm.trans raised)
  · exact ho off
  · exact absurd ht (Nat.not_le.2 (early sp hs))

/-- Settles O37, tick by tick. -/
theorem ticksComeDue : Obligations.TicksComeDue := by
  intro s hq written
  have asked : ∀ u : State, u.cu = s.cu → (written u).cu.limitEvent = false := fun u hu => by
    have kept : (written u).cu = u.cu := by
      dsimp only [written]
      split
      · exact wantStatus_cu u Owed.none
      · rfl
    rw [kept, hu]
    exact hq.1
  refine ⟨fun ho hd hx => ?_, fun ho hd hx => ?_, fun ho => ?_, fun hd => ?_, ?_, fun h => ?_, ?_, fun h => ?_⟩
  · refine exec_onlyStatus rfl ((pollTick_due ho hd).trans ?_) (asked _ rfl)
    rw [startSample_fresh (s := { s with xu := { s.xu with pollCount := 0, pollDue := false } }) ho hx]
  · refine exec_onlyStatus rfl ((pollTick_due ho hd).trans ?_) (asked _ rfl)
    rw [startSample_again (s := { s with xu := { s.xu with pollCount := 0, pollDue := false } }) ho hx]
  · exact exec_onlyStatus rfl (pollTick_idle (.inl ho)) hq.1
  · exact exec_onlyStatus rfl (pollTick_idle (.inr hd)) hq.1
  · intro page sp hp hr hs
    have reached := ageReached_eq hp hr hs
    refine ⟨fun old => ?_, fun young => ?_, fun ho hstall ht => ?_⟩
    · refine exec_onlyStatus rfl ((if_pos ?_).trans (beginPost_records .age hp hr)) hq.1
      exact reached.trans (decide_eq_true old)
    · refine exec_onlyStatus rfl (if_neg ?_) hq.1
      rw [reached, decide_eq_true_eq]
      exact Nat.not_le.2 young
    · exact exec_onlyStatus rfl ((stallEvent_due hs ho hstall ht).trans (beginPost_records .stall hp hr)) hq.1
  · exact exec_onlyStatus rfl (agePost_empty h) hq.1
  · intro sp hs hp ho hr ht
    exact exec_onlyStatus rfl ((stallEvent_due hs ho hr ht).trans (beginPost_empty .stall hp)) hq.1
  · exact exec_onlyStatus rfl (stallEvent_idle h) hq.1

end Sys2Proof.Machine
end

section
/-! SUPPORT. Event items with nothing open on the face: what the Track Engine, the Spot Merger and the Pairing Unit then leave alone. -/

namespace Sys2Proof.Machine

variable {s t : State} {f : Face}

/-! ## Free tables -/

theorem taken_free {α : Type} {n : Nat} {table : Vector (Option α) n} (h : ∀ i : Fin n, table[i] = none) :
    taken table = [] := by
  unfold taken
  exact List.filterMap_eq_nil_iff.2 fun i _ => by rw [h i]; rfl

theorem map_free {α : Type} {n : Nat} {table : Vector (Option α) n} (h : ∀ i : Fin n, table[i] = none) (g : α → α) :
    (table.map fun x => x.map g) = table := by
  refine Vector.ext fun i hi => ?_
  have free : table[i] = none := h ⟨i, hi⟩
  rw [Vector.getElem_map, free]
  rfl

theorem onTeFace_eq (s : State) (f : Face) (g : TeFace → TeFace) :
    s.onTeFace f g = { s with te := { s.te with faces := s.te.faces.set f (g (s.teFace f)) } } := rfl

theorem onSmFace_eq (s : State) (f : Face) (g : SmFace → SmFace) :
    s.onSmFace f g = { s with sm := s.sm.set f (g (s.smFace f)) } := rfl

theorem onTeFace_same {g : TeFace → TeFace} (h : g (s.teFace f) = s.teFace f) : s.onTeFace f g = s := by
  rw [onTeFace_eq, h, State.teFace, PerFace.set_get]

theorem onSmFace_same {g : SmFace → SmFace} (h : g (s.smFace f) = s.smFace f) : s.onSmFace f g = s := by
  rw [onSmFace_eq, h, State.smFace, PerFace.set_get]

theorem cutTracks_free (h : ∀ i : Fin 24, (s.teFace f).tracks[i] = none) (reason : CloseReason) :
    cutTracks s f reason = s := by
  unfold cutTracks agedTracks
  rw [taken_free h]
  rfl

theorem trackPatchEnd_free (h : ∀ i : Fin 24, (s.teFace f).tracks[i] = none) (part : FacePart) :
    trackPatchEnd s f part = s := by
  unfold trackPatchEnd
  rw [cutTracks_free h, ite_self]

theorem trackPatchStart_free (h : ∀ i : Fin 24, (s.teFace f).tracks[i] = none) (item : PatchStart) :
    trackPatchStart s f item = s.onTeFace f fun e => { e with patchStart := item.stamp } := by
  unfold trackPatchStart
  rw [cutTracks_free h, ite_self]
  dsimp only
  rw [onTeFace_eq, onTeFace_eq, map_free h]

theorem markCut_free (h : ∀ i : Fin 64, (s.smFace f).spots[i] = none) : markCut s f = s := by
  refine onSmFace_same ?_
  rw [map_free h]

/-- R67, R68: the cut of a face without open spots brings the Pairing Unit nothing. -/
theorem cutAndDeliver_free (h : ∀ i : Fin 64, (s.smFace f).spots[i] = none) : cutAndDeliver s f = s := by
  unfold cutAndDeliver cutSpots
  dsimp only
  rw [markCut_free h, taken_free h]
  rfl

/-! ## Doubt logs that are cut (R111) -/

/-- R111: the cut of the doubt logs reads the Pairing Unit and the MD window, and changes the Pairing Unit alone. -/
theorem discardLogs_eq (hp : t.pu = s.pu) (hr : t.rs = s.rs) : discardLogs t = { t with pu := (discardLogs s).pu } := by
  have one : ∀ {u v : State} (g : Face), v.pu = u.pu → v.rs = u.rs → discardLog v g = { v with pu := (discardLog u g).pu } := by
    intro u v g hpu hrs
    unfold discardLog reachPoint mdWindow State.puFace State.shared
    rw [hpu, hrs]
    simp only [State.onPuFace, State.onPu, hpu, hrs]
  unfold discardLogs
  rw [one (u := s) .upper hp hr]
  exact one .lower rfl hr

/-! ## Progress and finish with no entry to resolve (R109, R113) -/

theorem resolvePassed_none (h : NoneDue s f (s.puFace f).processed) : resolvePassed s f = s := by
  have stays : ∀ e ∈ s.pu.list, (e.closure.face == otherFace f && decide (e.due ≤ (s.puFace f).processed)) = false := by
    intro e he
    by_cases hf : e.closure.face = otherFace f
    · have later := h e he hf
      have notDue : ¬e.due ≤ (s.puFace f).processed := by omega
      rw [decide_eq_false notDue, Bool.and_false]
    · rw [beq_eq_false_iff_ne.2 hf, Bool.false_and]
  have none : s.pu.list.filter (fun e => e.closure.face == otherFace f && decide (e.due ≤ (s.puFace f).processed)) = [] :=
    List.filter_eq_nil_iff.2 fun e he => Bool.eq_false_iff.1 (stays e he)
  have all : s.pu.list.filter (fun e => !(e.closure.face == otherFace f && decide (e.due ≤ (s.puFace f).processed))) =
      s.pu.list := List.filter_eq_self.2 fun e he => by rw [stays e he]; rfl
  unfold resolvePassed
  simp only [State.onPu, none, all, List.foldl_nil]

/-- The face's progress stands at its last line, or where it stood before the first (R109). -/
def eventThrough (s : State) (f : Face) : State :=
  { s with
    pu :=
      { s.pu with
        faces :=
          s.pu.faces.set f
            { s.puFace f with processed := (s.puFace f).lastLine.getD (s.puFace f).processed } } }

theorem eventProgress_none (h : NoneDue s f ((s.puFace f).lastLine.getD (s.puFace f).processed)) :
    eventProgress s f = discardLogs (eventThrough s f) := by
  have moved : NoneDue (eventThrough s f) f ((eventThrough s f).puFace f).processed := by
    unfold NoneDue State.puFace eventThrough
    dsimp only
    rw [PerFace.get_set_same]
    exact h
  exact congrArg discardLogs (resolvePassed_none moved)

theorem finishPairing_none (h : ∀ e ∈ s.pu.list, e.closure.face = f) :
    finishPairing s f = discardLogs (s.onPuFace f fun p => { p with finished := true }) := by
  have other : otherFace f ≠ f := by cases f <;> decide
  have stays : ∀ e ∈ s.pu.list, (e.closure.face == otherFace f) = false := fun e he =>
    beq_eq_false_iff_ne.2 fun hf => other (hf.symm.trans (h e he))
  have none : s.pu.list.filter (fun e => e.closure.face == otherFace f) = [] :=
    List.filter_eq_nil_iff.2 fun e he => Bool.eq_false_iff.1 (stays e he)
  have all : s.pu.list.filter (fun e => !(e.closure.face == otherFace f)) = s.pu.list :=
    List.filter_eq_self.2 fun e he => by rw [stays e he]; rfl
  unfold finishPairing
  dsimp only
  rw [none]
  simp only [State.onPu, State.onPuFace, all, List.map_nil, List.foldl_nil]

/-! ## Reports with every tally empty (R18, R74, R100) -/

theorem issueTally_empty (s : State) (code : FaultCode) (f : Face) : issueTally s code f Tally.empty = s := rfl

theorem reportJumps_empty (h : s.mu.jumps = Tally.empty) : reportJumps s = s := by
  unfold reportJumps State.onMu
  rw [h, issueTally_empty, ← h]

theorem reportOverflow_empty (h : (s.muFace f).overflow = Tally.empty) : reportOverflow s f = s := by
  unfold reportOverflow
  rw [h, issueTally_empty]
  refine onMuFace_same ?_
  rw [← h]

theorem reportSpotFull_empty (h : (s.smFace f).full = Tally.empty) : reportSpotFull s f = s := by
  unfold reportSpotFull
  rw [h, issueTally_empty]
  refine onSmFace_same ?_
  rw [← h]

theorem reportTrackFull_empty (h : (s.teFace f).full = Tally.empty) : reportTrackFull s f = s := by
  unfold reportTrackFull
  rw [h, issueTally_empty]
  refine onTeFace_same ?_
  rw [← h]

theorem reportMotion_empty (hj : s.mu.jumps = Tally.empty) (ho : (s.muFace f).overflow = Tally.empty) :
    reportMotion s f = s := by
  unfold reportMotion
  cases f with
  | upper => rw [reportJumps_empty hj, reportOverflow_empty ho]
  | lower => exact reportOverflow_empty ho

/-- R18: with every tally empty the PATCH record alone is issued. -/
theorem reportPatch_empty (item : PatchEnd) (hj : s.mu.jumps = Tally.empty) (ho : (s.muFace f).overflow = Tally.empty)
    (hs : (s.smFace f).full = Tally.empty) (ht : (s.teFace f).full = Tally.empty) :
    reportPatch s f item Tally.empty =
      (clearPatchCounts (issue s (patchBody s f item)) f).onMuFace f fun m => { m with edgeExtra := false } := by
  obtain ⟨_, _, _, ⟨mu, _, _⟩, ⟨te, sm, _⟩, _⟩ := issue_reporting s (patchBody s f item)
  unfold reportPatch
  dsimp only
  rw [reportMotion_empty, issueTally_empty, reportSpotFull_empty, reportTrackFull_empty]
  · simpa [State.teFace, clearPatchCounts, te] using ht
  · simpa [State.smFace, clearPatchCounts, sm] using hs
  · simpa [clearPatchCounts, mu] using hj
  · simpa [State.muFace, clearPatchCounts, mu] using ho

/-! ## The patch-end item -/

theorem popHanded_eq {h : Handed} {rest : List Handed} (hh : (s.rxFace f).handed = h :: rest) :
    popHanded s f = { s with rx := s.rx.set f { s.rxFace f with handed := rest } } := by
  unfold popHanded
  show { s with rx := s.rx.set f { s.rxFace f with handed := (s.rxFace f).handed.tail } } = _
  rw [hh, List.tail_cons]

theorem takePatchEndItem_eq {h : Handed} {rest : List Handed} {item : PatchEnd} {runFull : Tally}
    (hh : (s.rxFace f).handed = h :: rest) (hk : h.kind = .patchEnd item runFull) :
    takePatchEndItem s f =
      let t := processPatchEnd { s with rx := s.rx.set f { s.rxFace f with handed := rest } } f item runFull h.facePart
      if item.finishing then finishNotice t f else t := by
  unfold takePatchEndItem
  rw [hh]
  dsimp only
  rw [hk, popHanded_eq hh]

theorem processPatchEnd_free (item : PatchEnd) (runFull : Tally) (part : FacePart) (hf : TablesFree s f)
    (hd : NoneDue s f ((s.puFace f).lastLine.getD (s.puFace f).processed)) :
    processPatchEnd s f item runFull part =
      let u := reportPatch (discardLogs (eventThrough s f)) f item runFull
      if u.inspecting then startSample u else u := by
  unfold processPatchEnd
  rw [trackPatchEnd_free hf.1, cutAndDeliver_free hf.2, eventProgress_none hd]

theorem inspecting_ne_off (h : s.inspecting = true) : s.cu.state ≠ .off := by
  unfold State.inspecting at h
  intro off
  rw [off] at h
  cases h

theorem stopIfFinished_other (h : s.cu.state ≠ .stopping) : stopIfFinished s = s := if_neg fun both => h both.1

/-- R113: what finishing a face leaves as it was, its finish aside. -/
theorem finishPairing_finishes (s : State) (f : Face) :
    Steady (s.onPuFace f fun p => { p with finished := true }) (finishPairing s f) := by
  unfold finishPairing
  exact discardLogs_steady (foldl_steady _ (fun _ _ hu => issueSingle_steady hu _ _) _ (onPu_steady (Steady.refl _) _ rfl))

theorem takeLimit_ignored (hi : s.inspecting = false) :
    takeLimit s = { s with cu := { s.cu with limitEvent := false } } := by
  unfold takeLimit
  split
  · rw [enterClosing_ignored hi]
    rfl
  · next h => rw [← Bool.eq_false_iff.2 h]

/-- Outside a roll the end of a step changes neither the state nor the end reason nor the Pairing Unit. -/
theorem settle_ignored (before : State) (hi : s.inspecting = false) :
    (settle before s).cu.state = s.cu.state ∧ (settle before s).cu.endReason = s.cu.endReason ∧
      (settle before s).pu = s.pu := by
  obtain ⟨changed, ht⟩ := markChanged_eq before (takeLimit s)
  unfold settle
  rw [ht, takeLimit_ignored hi]
  exact ⟨rfl, rfl, rfl⟩

/-- R162: the item that finishes the second face in STOPPING. -/
theorem patchEnd_stops {h : Handed} {rest : List Handed} {item : PatchEnd} {runFull : Tally}
    (hh : (s.rxFace f).handed = h :: rest) (hk : h.kind = .patchEnd item runFull) (hfin : item.finishing = true)
    (hs : s.cu.state = .stopping) (ho : (s.puFace (otherFace f)).finished = true) :
    let t := settle s (takePatchEndItem s f)
    t.cu.state = .closing ∧ t.cu.endReason = some .stop ∧ (t.puFace f).finished = true := by
  intro t
  have steady := processPatchEnd_steady (Steady.refl { s with rx := s.rx.set f { s.rxFace f with handed := rest } }) f item
    runFull h.facePart
  generalize hu : processPatchEnd { s with rx := s.rx.set f { s.rxFace f with handed := rest } } f item runFull h.facePart
    = u at steady
  have taken : takePatchEndItem s f = finishNotice u f := by
    rw [takePatchEndItem_eq hh hk, hu]
    exact if_pos hfin
  have finishes := finishPairing_finishes u f
  have stopping : (finishPairing u f).cu.state = .stopping := finishes.state.trans (steady.state.trans hs)
  have this : ((finishPairing u f).puFace f).finished = true := by
    refine (finishes.finished f).trans ?_
    simp [State.puFace]
  have other : ((finishPairing u f).puFace (otherFace f)).finished = true := by
    refine (finishes.finished _).trans (Eq.trans ?_ ((steady.finished _).trans ho))
    cases f <;> rfl
  have both : bothFinished (finishPairing u f) = true := by
    unfold bothFinished
    cases f
    · exact Bool.and_eq_true_iff.2 ⟨this, other⟩
    · exact Bool.and_eq_true_iff.2 ⟨other, this⟩
  have notice : finishNotice u f = enterClosing (finishPairing u f) .stop := if_pos ⟨stopping, both⟩
  have inspecting : (finishPairing u f).inspecting = true := by
    unfold State.inspecting
    rw [stopping]
  obtain ⟨state, reason, _, _, _, finished⟩ := enterClosing_closes inspecting .stop
  have closed : (enterClosing (finishPairing u f) .stop).inspecting = false := by
    unfold State.inspecting
    rw [state]
  obtain ⟨state', reason', pu'⟩ := settle_ignored s closed
  have ht : t = settle s (enterClosing (finishPairing u f) .stop) := by rw [← notice, ← taken]
  rw [ht]
  refine ⟨state'.trans state, reason'.trans reason, ?_⟩
  unfold State.puFace at finished ⊢
  rw [pu']
  exact (finished f).trans this

/-- Settles O28: with nothing open the item comes down to its record; the second finish in STOPPING ends the roll. -/
theorem patchEndProcessed : Obligations.PatchEndProcessed := by
  intro f h item rest s hq hh
  refine ⟨?_, fun runFull hk hfin hs ho => ⟨_, rfl, patchEnd_stops hh hk hfin hs ho⟩⟩
  intro hk hstate hf hd hlist hj ho hspot htrack hx hn1 hn2 htally hroom m e body passed
  let popped : State := { s with rx := s.rx.set f { s.rxFace f with handed := rest } }
  let filed : State :=
    { s with
      mu := { s.mu with faces := s.mu.faces.set f { s.muFace f with edgeExtra := false } }
      rx := s.rx.set f { s.rxFace f with handed := rest }
      te := { s.te with faces := s.te.faces.set f { e with confirmations := 0, larges := 0 } }
      sm := s.sm.set f { m with pinholes := 0, spotted := 0, larges := 0, noise := 0 }
      pu := passed.pu
      ru :=
        { s.ru with
          nextSeq := s.ru.nextSeq + 1
          queue := s.ru.queue ++ [{ seq := s.ru.nextSeq, mark := .none, body := body }] } }
  have progress : discardLogs (eventThrough popped f) = { popped with pu := passed.pu } :=
    discardLogs_eq (s := eventThrough s f) rfl rfl
  have recorded : reportPatch { popped with pu := passed.pu } f item Tally.empty = filed := by
    rw [reportPatch_empty (s := { popped with pu := passed.pu }) item hj ho hspot htrack]
    rw [issue_kept (s := { popped with pu := passed.pu }) hn2 hn1 htally ?_ fun _ => rfl]
    · rfl
    · have room : 1 ≤ Config.holdingSlots - slotsOf s.ru.queue := by omega
      exact room
  let sampled : State :=
    { filed with
      xu := if s.inspecting then { s.xu with sample := some 0 } else s.xu
      out := if s.inspecting then s.out ++ [.busRead s.xu.xbase 8, .busRead (s.xu.xbase + 0x400#64) 4] else s.out }
  have processed : processPatchEnd popped f item Tally.empty h.facePart = sampled := by
    rw [processPatchEnd_free (s := popped) item Tally.empty h.facePart hf hd, progress, recorded]
    show (if s.inspecting then startSample filed else filed) = sampled
    dsimp only [sampled]
    split
    · next hi => exact startSample_fresh (s := filed) (inspecting_ne_off hi) hx
    · rfl
  refine exec_onlyStatus rfl (((takePatchEndItem_eq hh hk).trans ?_)) hq.1
  show (if item.finishing then finishNotice (processPatchEnd popped f item Tally.empty h.facePart) f
    else processPatchEnd popped f item Tally.empty h.facePart) = _
  rw [processed]
  split
  · next hfin =>
    have going : s.cu.state ≠ .stopping := hstate.resolve_left fun stays => Bool.false_ne_true (stays.symm.trans hfin)
    have finish : finishPairing sampled f = { sampled with pu := (finishPairing passed f).pu } := by
      rw [finishPairing_none (s := sampled) (hlist hfin), finishPairing_none (s := passed) (hlist hfin)]
      exact discardLogs_eq rfl rfl
    unfold finishNotice
    rw [finish, stopIfFinished_other (by exact going)]
  · rfl

end Sys2Proof.Machine
end

section
/-! SUPPORT. The tables of tracks and spots: who leaves them alone, and how a cut clears them. -/

namespace Sys2Proof.Machine

variable {s t u : State} {f : Face}

/-! ## What leaves the Track Engine and the Spot Merger alone -/

/-- The Track Engine and the Spot Merger are unchanged. -/
structure SameTables (s t : State) : Prop where
  te : t.te = s.te
  sm : t.sm = s.sm

theorem SameTables.refl (s : State) : SameTables s s := ⟨rfl, rfl⟩

theorem SameTables.trans (h : SameTables s t) (k : SameTables t u) : SameTables s u :=
  ⟨k.te.trans h.te, k.sm.trans h.sm⟩

theorem SameTables.teFace (h : SameTables s t) (f : Face) : t.teFace f = s.teFace f := by
  unfold State.teFace
  rw [h.te]

theorem SameTables.smFace (h : SameTables s t) (f : Face) : t.smFace f = s.smFace f := by
  unfold State.smFace
  rw [h.sm]

theorem OnlyReporting.sameTables (h : OnlyReporting s t) : SameTables s t := by
  obtain ⟨_, _, _, _, ⟨te, sm, _⟩, _⟩ := h
  exact ⟨te, sm⟩

theorem foldl_tables {α : Type} (g : State → α → State) (hg : ∀ u x, SameTables u (g u x)) (l : List α) (s : State) :
    SameTables s (l.foldl g s) := by
  induction l generalizing s with
  | nil => exact SameTables.refl s
  | cons x rest ih => exact (hg s x).trans (ih _)

theorem onHead_tables (s : State) (p : Port) (g : Head → Head) : SameTables s (s.onHead p g) := ⟨rfl, rfl⟩
theorem onLuFace_tables (s : State) (f : Face) (g : LuFace → LuFace) : SameTables s (s.onLuFace f g) := ⟨rfl, rfl⟩
theorem onMuFace_tables (s : State) (f : Face) (g : MuFace → MuFace) : SameTables s (s.onMuFace f g) := ⟨rfl, rfl⟩
theorem onCu_tables (s : State) (g : ControlUnit → ControlUnit) : SameTables s (s.onCu g) := ⟨rfl, rfl⟩
theorem onPu_tables (s : State) (g : PairingUnit → PairingUnit) : SameTables s (s.onPu g) := ⟨rfl, rfl⟩

/-! ### Assembly and entry to CLOSING -/

theorem leaveLive_tables (s : State) (p : Port) : SameTables s (leaveLive s p) := by
  unfold leaveLive
  split <;> exact ⟨rfl, rfl⟩

theorem failHead_tables (s : State) (p : Port) (desc : LineDesc) (limit : Nat) : SameTables s (failHead s p desc limit) := by
  have left := (leaveLive_tables s p).trans (onHead_tables _ p fun h =>
    { h with link := .failed, recovering := false, failedLine := some { number := desc.number, stamp := desc.stamp } })
  unfold failHead
  dsimp only
  split
  · exact left.trans (issueFault_reporting _ _ _ _ _ _).sameTables
  · exact left

theorem countMiss_tables (s : State) (p : Port) (desc : LineDesc) : SameTables s (countMiss s p desc) := by
  unfold countMiss
  dsimp only
  split
  · exact onHead_tables s p _
  · split
    · exact (onHead_tables s p _).trans (failHead_tables _ _ _ _)
    · exact onHead_tables s p _

theorem judgeHead_tables (desc : LineDesc) (s : State) (p : Port) : SameTables s (judgeHead desc s p) := by
  unfold judgeHead
  dsimp only
  split
  · exact onHead_tables s p _
  · split
    · exact (onHead_tables s p _).trans (countMiss_tables _ _ _)
    · exact onHead_tables s p _

theorem assembleLine_tables (s : State) (f : Face) (line : OpenLine) : SameTables s (assembleLine s f line) :=
  (onLuFace_tables s f _).trans
    ((foldl_tables _ (judgeHead_tables line.desc) _ _).trans (foldl_tables _ (fun u p => onHead_tables u p _) _ _))

theorem assembleAll_tables (s : State) (f : Face) : SameTables s (assembleAll s f) :=
  foldl_tables _ (fun u _ => by
    unfold assembleOldest
    split
    · exact SameTables.refl u
    · exact assembleLine_tables u f _) _ s

theorem closeSkip_tables (s : State) (f : Face) : SameTables s (closeSkip s f) :=
  (onMuFace_tables s f _).trans (issueTally_reporting _ _ _ _).sameTables

theorem discardBegun_tables (s : State) : SameTables s (discardBegun s) := ⟨rfl, rfl⟩
theorem discardPending_tables (s : State) : SameTables s (discardPending s) := ⟨rfl, rfl⟩

theorem enterClosing_tables (s : State) (reason : EndReason) : SameTables s (enterClosing s reason) := by
  unfold enterClosing
  split
  · have skips : ∀ u, SameTables u (closeSkip (closeSkip u .upper) .lower) := fun u =>
      (closeSkip_tables u _).trans (closeSkip_tables _ _)
    have lines : ∀ u, SameTables u (assembleAll (assembleAll u .upper) .lower) := fun u =>
      (assembleAll_tables u _).trans (assembleAll_tables _ _)
    exact (onCu_tables s _).trans ((skips _).trans ((discardBegun_tables _).trans ((lines _).trans
      ((discardPending_tables _).trans (wantStatus_reporting _ _).sameTables))))
  · exact SameTables.refl s

theorem settle_tables (before s : State) : SameTables s (settle before s) := by
  obtain ⟨changed, ht⟩ := markChanged_eq before (takeLimit s)
  have limit : SameTables s (takeLimit s) := by
    unfold takeLimit
    split
    · exact (enterClosing_tables s _).trans (onCu_tables _ _)
    · exact SameTables.refl s
  unfold settle
  rw [ht]
  exact ⟨limit.te, limit.sm⟩

/-! ### Pairing and auto-resume -/

theorem discardLogs_tables (s : State) : SameTables s (discardLogs s) := ⟨rfl, rfl⟩

theorem issueSingle_tables (result : PinholeResult) (s : State) (c : Closure) : SameTables s (issueSingle result s c) :=
  (issueMarked_reporting s _ _ _).sameTables.trans (onPu_tables _ _)

theorem issueThrough_tables (s : State) (a b : Closure) : SameTables s (issueThrough s a b) :=
  (issueMarked_reporting s _ _ _).sameTables.trans ((onPu_tables _ _).trans (raise_reporting _ _).sameTables)

theorem insertClosure_tables (s : State) (e : PairEntry) : SameTables s (insertClosure s e) := by
  unfold insertClosure
  split
  · exact onPu_tables s _
  · split
    · exact onPu_tables s _
    · exact (onPu_tables s _).trans ((issueSingle_tables _ _ _).trans ((onPu_tables _ _).trans (discardLogs_tables _)))

theorem placeClosure_tables (s : State) (c : Closure) : SameTables s (placeClosure s c) := by
  unfold placeClosure
  dsimp only
  split
  · exact issueSingle_tables _ s c
  · split
    · exact issueSingle_tables _ s _
    · exact insertClosure_tables s _

theorem takeClosure_tables (s : State) (c : Closure) : SameTables s (takeClosure s c) := by
  unfold takeClosure
  dsimp only
  split
  · split
    · exact (onPu_tables s _).trans ((issueThrough_tables _ _ _).trans (discardLogs_tables _))
    · exact placeClosure_tables s _
  · exact issueSingle_tables _ s _

theorem resolvePassed_tables (s : State) (g : Face) : SameTables s (resolvePassed s g) :=
  (onPu_tables s _).trans (foldl_tables _ (fun u _ => issueSingle_tables _ u _) _ _)

theorem eventProgress_tables (s : State) (f : Face) : SameTables s (eventProgress s f) :=
  (onPu_tables s _).trans ((resolvePassed_tables _ f).trans (discardLogs_tables _))

theorem deliver_tables (c : Closing) : SameTables c.state (deliver c) := foldl_tables _ takeClosure_tables _ _

theorem autoResume_tables (s : State) : SameTables s (autoResume s) := by
  unfold autoResume
  repeat' first | exact ⟨rfl, rfl⟩ | split

/-! ## Cuts clear the tables (R67, R98) -/

theorem mem_taken {α : Type} {n : Nat} {table : Vector (Option α) n} {i : Fin n} {x : α} :
    (i, x) ∈ taken table ↔ table[i] = some x := by
  unfold taken
  rw [List.mem_filterMap]
  constructor
  · rintro ⟨j, _, hj⟩
    obtain ⟨y, hy, e⟩ := Option.map_eq_some_iff.1 hj
    cases e
    exact hy
  · intro h
    exact ⟨i, List.mem_finRange i, by rw [h]; rfl⟩

theorem mem_sortBy {α : Type} (after : α → α → Bool) (z : α) (l : List α) : z ∈ sortBy after l ↔ z ∈ l := by
  have key : ∀ acc : List α, z ∈ l.foldl (fun acc x => insertBy after x acc) acc ↔ z ∈ l ∨ z ∈ acc := by
    induction l with
    | nil => simp
    | cons x rest ih =>
      intro acc
      rw [List.foldl_cons, ih, mem_insertBy, List.mem_cons, or_left_comm, or_assoc]
  exact (key []).trans (or_iff_left List.not_mem_nil)

/-- An entry set to `none` in a table. -/
theorem getElem_set_none {α : Type} {n : Nat} (table : Vector (Option α) n) (i j : Fin n) :
    (table.set i.val none)[j] = if j = i then none else table[j] := by
  split
  · next h =>
    subst h
    exact Vector.getElem_set_self _
  · next h => exact Vector.getElem_set_ne _ _ fun e => h (Fin.ext e.symm)

/-- Entries that are each freed in turn, where each freeing leaves the other entries alone. -/
theorem foldl_frees {σ ι : Type} {α : Type} [DecidableEq ι] (look : σ → ι → Option α) (free : σ → ι × α → σ)
    (h : ∀ u x j, look (free u x) j = if j = x.1 then none else look u j) (l : List (ι × α)) (u : σ) (j : ι) :
    look (l.foldl free u) j = if j ∈ l.map Prod.fst then none else look u j := by
  induction l generalizing u with
  | nil => rfl
  | cons x rest ih =>
    rw [List.foldl_cons, ih, h, List.map_cons]
    by_cases hx : j = x.1 <;> by_cases hr : j ∈ rest.map Prod.fst <;> simp [hx, hr]

theorem setTrack_none_tracks (s : State) (f : Face) (i j : Fin 24) :
    ((s.setTrack f i none).teFace f).tracks[j] = if j = i then none else (s.teFace f).tracks[j] := by
  simpa [State.setTrack, State.teFace] using getElem_set_none (s.teFace f).tracks i j

theorem setSpot_none_spots (s : State) (f : Face) (i j : Fin 64) :
    ((s.setSpot f i none).smFace f).spots[j] = if j = i then none else (s.smFace f).spots[j] := by
  simpa [State.setSpot, State.smFace] using getElem_set_none (s.smFace f).spots i j

theorem cutOne_tracks (f : Face) (reason : CloseReason) (s : State) (x : Fin 24 × Track) (j : Fin 24) :
    ((cutOne f reason s x).teFace f).tracks[j] = if j = x.1 then none else (s.teFace f).tracks[j] := by
  have freed : ∀ (u : State) (g : TeFace → TeFace), OnlyReporting s u → (∀ e, (g e).tracks = e.tracks) →
      (((u.setTrack f x.1 none).onTeFace f g).teFace f).tracks[j] =
        if j = x.1 then none else (s.teFace f).tracks[j] := by
    intro u g hu hg
    have counted : (((u.setTrack f x.1 none).onTeFace f g).teFace f).tracks = ((u.setTrack f x.1 none).teFace f).tracks := by
      unfold State.teFace
      rw [State.onTeFace_te]
      dsimp only
      rw [PerFace.get_modify_same, hg]
    rw [counted, setTrack_none_tracks, hu.sameTables.teFace]
  unfold cutOne
  split
  · exact freed _ _ (issueMarked_reporting s _ _ _) fun _ => rfl
  · exact freed _ _ (issue_reporting s _) fun _ => rfl
  · exact freed _ _ (issue_reporting s _) fun _ => rfl

/-- R98: a cut leaves no track of the face active. -/
theorem cutTracks_clears (s : State) (f : Face) (reason : CloseReason) (j : Fin 24) :
    ((cutTracks s f reason).teFace f).tracks[j] = none := by
  have freed := foldl_frees (fun u j => (State.teFace u f).tracks[j]) (cutOne f reason) (cutOne_tracks f reason)
    (agedTracks s f) s j
  refine freed.trans ?_
  split
  · rfl
  · next absent =>
    by_contra active
    obtain ⟨x, hx⟩ := Option.ne_none_iff_exists'.1 active
    exact absent (List.mem_map.2 ⟨(j, x), (mem_sortBy _ _ _).2 (mem_taken.2 hx), rfl⟩)

theorem closeSpot_te (part : FacePart) (f : Face) (c : Closing) (x : Fin 64 × Spot) :
    (closeSpot part f c x).state.te = c.state.te := by
  unfold closeSpot
  split
  · rfl
  · rfl
  · exact (issueMarked_reporting c.state _ _ _).sameTables.te
  · exact (issueMarked_reporting c.state _ _ _).sameTables.te

theorem closeSpot_spots (part : FacePart) (f : Face) (c : Closing) (x : Fin 64 × Spot) (j : Fin 64) :
    ((closeSpot part f c x).state.smFace f).spots[j] = if j = x.1 then none else (c.state.smFace f).spots[j] := by
  have freed : ∀ (u : State) (g : SmFace → SmFace), u.sm = c.state.sm → (∀ m, (g m).spots = m.spots) →
      (((u.onSmFace f g).setSpot f x.1 none).smFace f).spots[j] =
        if j = x.1 then none else (c.state.smFace f).spots[j] := by
    intro u g hu hg
    have counted : ((u.onSmFace f g).smFace f).spots = (c.state.smFace f).spots := by
      unfold State.smFace
      rw [State.onSmFace_sm, PerFace.get_modify_same, hg, hu]
    rw [setSpot_none_spots, counted]
  unfold closeSpot
  split
  · exact freed c.state _ rfl fun _ => rfl
  · exact freed c.state _ rfl fun _ => rfl
  · exact freed _ _ (issueMarked_reporting c.state _ _ _).sameTables.sm fun _ => rfl
  · exact freed _ _ (issueMarked_reporting c.state _ _ _).sameTables.sm fun _ => rfl

/-- R67, R68: a cut leaves no spot of the face open, and the tracks as they were. -/
theorem cutSpots_clears (s : State) (f : Face) (part : FacePart) :
    (cutSpots s f part).state.te = s.te ∧ ∀ j : Fin 64, ((cutSpots s f part).state.smFace f).spots[j] = none := by
  refine ⟨?_, fun j => ?_⟩
  · unfold cutSpots closeSpots
    exact List.foldlRecOn (motive := fun c : Closing => c.state.te = s.te) _ _ rfl
      fun c hc x _ => (closeSpot_te part f c x).trans hc
  · have freed := foldl_frees (fun (c : Closing) j => (c.state.smFace f).spots[j]) (closeSpot part f) (closeSpot_spots part f)
      (sortBy closesLater (taken ((markCut s f).smFace f).spots)) { state := markCut s f, closures := [] } j
    refine freed.trans ?_
    split
    · rfl
    · next absent =>
      by_contra spotted
      obtain ⟨x, hx⟩ := Option.ne_none_iff_exists'.1 spotted
      exact absent (List.mem_map.2 ⟨(j, x), (mem_sortBy _ _ _).2 (mem_taken.2 hx), rfl⟩)

theorem cutAndDeliver_clears (s : State) (f : Face) :
    (cutAndDeliver s f).te = s.te ∧ ∀ j : Fin 64, ((cutAndDeliver s f).smFace f).spots[j] = none := by
  obtain ⟨te, spots⟩ := cutSpots_clears s f (lastPart s f)
  have delivered := deliver_tables (cutSpots s f (lastPart s f))
  refine ⟨delivered.te.trans te, fun j => ?_⟩
  unfold cutAndDeliver
  rw [delivered.smFace]
  exact spots j

/-! ## The patch-start item (R94, R95, R126) -/

theorem trackPatchStart_patchStart (s : State) (f : Face) (item : PatchStart) :
    ((trackPatchStart s f item).teFace f).patchStart = item.stamp := by
  simp [trackPatchStart, State.teFace]

/-- R95: an item that carries a face part leaves no track of the face active. -/
theorem trackPatchStart_clears {item : PatchStart} (hp : item.part.isSome = true) (s : State) (f : Face) (i : Fin 24) :
    ((trackPatchStart s f item).teFace f).tracks[i] = none := by
  have bumped : ((trackPatchStart s f item).teFace f).tracks =
      ((cutTracks s f .recipe).teFace f).tracks.map fun t => t.map fun x => { x with patches := bump16 x.patches } := by
    unfold trackPatchStart
    rw [if_pos hp, State.teFace, State.onTeFace_te]
    dsimp only
    rw [PerFace.get_modify_same]
    rfl
  have cut : ((cutTracks s f .recipe).teFace f).tracks[i.val] = none := cutTracks_clears s f .recipe i
  rw [bumped]
  refine (Vector.getElem_map ..).trans ?_
  rw [cut]
  rfl

theorem processPatchStart_eq (s : State) (f : Face) (item : PatchStart) :
    processPatchStart s f item =
      if f = .upper then autoResume (eventProgress (cutAndDeliver (trackPatchStart s f item) f) f)
      else eventProgress (cutAndDeliver (trackPatchStart s f item) f) f := by
  cases f <;> rfl

theorem processPatchStart_clears (s : State) (f : Face) (item : PatchStart) :
    let t := processPatchStart s f item
    (t.teFace f).patchStart = item.stamp ∧ (∀ i : Fin 64, (t.smFace f).spots[i] = none) ∧
      (item.part.isSome = true → ∀ i : Fin 24, (t.teFace f).tracks[i] = none) := by
  intro t
  obtain ⟨te, spots⟩ := cutAndDeliver_clears (trackPatchStart s f item) f
  have after : SameTables (cutAndDeliver (trackPatchStart s f item) f) t := by
    have progress := eventProgress_tables (cutAndDeliver (trackPatchStart s f item) f) f
    dsimp only [t]
    rw [processPatchStart_eq]
    split
    · exact progress.trans (autoResume_tables _)
    · exact progress
  have tracks : t.teFace f = (trackPatchStart s f item).teFace f :=
    (after.teFace f).trans (congrArg (fun e : TrackEngine => e.faces.get f) te)
  rw [tracks, after.smFace f]
  exact ⟨trackPatchStart_patchStart s f item, spots, fun hp => trackPatchStart_clears hp s f⟩

theorem takePatchStartItem_eq {h : Handed} {rest : List Handed} {item : PatchStart}
    (hh : (s.rxFace f).handed = h :: rest) (hk : h.kind = .patchStart item) :
    takePatchStartItem s f = processPatchStart { s with rx := s.rx.set f { s.rxFace f with handed := rest } } f item := by
  unfold takePatchStartItem
  rw [hh]
  dsimp only
  rw [hk, popHanded_eq hh]

theorem autoResume_resumes {sp : SharedPart} (hs : s.shared = some sp) (ha : sp.autoResume = true)
    (hb : s.ku.breakFlag = true) (hi : s.pins.breakInput = false) :
    autoResume s = { s with ku := { s.ku with a := .idle, b := .idle, breakFlag := false } } := by
  unfold autoResume
  rw [hs]
  dsimp only
  rw [ha, hb, hi]
  rfl

theorem autoResume_stays
    (h : ¬(s.ku.breakFlag = true ∧ s.pins.breakInput = false ∧ ∃ sp, s.shared = some sp ∧ sp.autoResume = true)) :
    autoResume s = s := by
  unfold autoResume
  split
  · rfl
  · next sp hs =>
    refine if_neg fun all => h ?_
    rw [Bool.and_eq_true, Bool.and_eq_true, Bool.not_eq_true'] at all
    obtain ⟨⟨auto, flag⟩, pin⟩ := all
    exact ⟨flag, pin, sp, hs, auto⟩

/-- Settles O29: with nothing open the item comes down to its stamps and the auto-resume; whatever is open is cut. -/
theorem patchStartProcessed : Obligations.PatchStartProcessed := by
  intro f h item rest s hq hh hk
  let popped : State := { s with rx := s.rx.set f { s.rxFace f with handed := rest } }
  refine ⟨?_, ?_⟩
  · intro hf hd resumes u
    let begun : State := popped.onTeFace f fun e => { e with patchStart := item.stamp }
    have progress : eventProgress (cutAndDeliver (trackPatchStart popped f item) f) f = u := by
      rw [trackPatchStart_free (s := popped) hf.1, cutAndDeliver_free (s := begun) hf.2]
      exact eventProgress_none (s := begun) hd
    have taken : takePatchStartItem s f = if f = .upper then autoResume u else u := by
      rw [takePatchStartItem_eq hh hk]
      exact (processPatchStart_eq popped f item).trans (by rw [progress])
    refine ⟨fun hr => ?_, fun hr => ?_⟩
    · obtain ⟨upper, flag, pin, sp, hs, auto⟩ := hr
      refine exec_onlyStatus rfl (taken.trans ((if_pos upper).trans ?_)) hq.1
      exact autoResume_resumes (s := u) hs auto flag pin
    · refine exec_onlyStatus rfl (taken.trans ?_) hq.1
      split
      · next upper => exact autoResume_stays (s := u) fun others => hr ⟨upper, others⟩
      · rfl
  · obtain ⟨stamp, spots, tracks⟩ := processPatchStart_clears popped f item
    have kept := settle_tables s (processPatchStart popped f item)
    have taken := takePatchStartItem_eq hh hk
    refine ⟨settle s (takePatchStartItem s f), rfl, ?_⟩
    rw [taken, kept.teFace, kept.smFace]
    exact ⟨stamp, spots, tracks⟩

end Sys2Proof.Machine
end

section
/-! SUPPORT. The `start` order: what asking for a status block write and noting a result leave alone, and every block at `start`. -/

namespace Sys2Proof.Machine

variable {s t u : State}

/-! ## What a status block write leaves alone (R189) -/

/-- The stock cursor, the pages, the levels and the batch's results are unchanged. -/
structure SameExchange (x y : ExchangeUnit) : Prop where
  levels     : y.levels = x.levels
  taken      : y.taken = x.taken
  results    : y.results = x.results
  consumed   : y.consumed = x.consumed
  pagesTaken : y.pagesTaken = x.pagesTaken
  emptySpell : y.emptySpell = x.emptySpell
  filling    : y.filling = x.filling
  posting    : y.posting = x.posting
  nextPage   : y.nextPage = x.nextPage
  lastPosted : y.lastPosted = x.lastPosted

theorem SameExchange.refl (x : ExchangeUnit) : SameExchange x x := ⟨rfl, rfl, rfl, rfl, rfl, rfl, rfl, rfl, rfl, rfl⟩

theorem SameExchange.trans {x y z : ExchangeUnit} (h : SameExchange x y) (k : SameExchange y z) : SameExchange x z where
  levels := k.levels.trans h.levels
  taken := k.taken.trans h.taken
  results := k.results.trans h.results
  consumed := k.consumed.trans h.consumed
  pagesTaken := k.pagesTaken.trans h.pagesTaken
  emptySpell := k.emptySpell.trans h.emptySpell
  filling := k.filling.trans h.filling
  posting := k.posting.trans h.posting
  nextPage := k.nextPage.trans h.nextPage
  lastPosted := k.lastPosted.trans h.lastPosted

/-- All but the rest of the Exchange Unit and what was sent is unchanged. -/
def OnlyExchange (s t : State) : Prop := ∃ xu out, t = { s with xu := xu, out := out } ∧ SameExchange s.xu xu

theorem OnlyExchange.refl (s : State) : OnlyExchange s s := ⟨s.xu, s.out, rfl, SameExchange.refl _⟩

theorem OnlyExchange.trans (h : OnlyExchange s t) (k : OnlyExchange t u) : OnlyExchange s u := by
  obtain ⟨xu, out, rfl, same⟩ := h
  obtain ⟨xu', out', rfl, same'⟩ := k
  exact ⟨xu', out', rfl, same.trans same'⟩

theorem raise_exchange (s : State) (c : Cause) : OnlyExchange s (raise s c) :=
  ⟨_, _, raise_eq s c, ⟨rfl, rfl, rfl, rfl, rfl, rfl, rfl, rfl, rfl, rfl⟩⟩

theorem payOwed_exchange (s : State) (owed : Owed) : OnlyExchange s (payOwed s owed) := by
  obtain ⟨posted, orders⟩ := owed
  rw [payOwed_eq]
  cases posted <;> cases orders
  · exact OnlyExchange.refl s
  · exact raise_exchange s _
  · exact raise_exchange s _
  · exact (raise_exchange s _).trans (raise_exchange _ _)

theorem onXu_exchange (g : ExchangeUnit → ExchangeUnit) (hg : SameExchange s.xu (g s.xu)) : OnlyExchange s (s.onXu g) :=
  ⟨g s.xu, s.out, rfl, hg⟩

theorem emit_exchange (s : State) (o : Output) : OnlyExchange s (s.emit o) :=
  ⟨s.xu, s.out ++ [o], rfl, SameExchange.refl _⟩

theorem writeStatus_exchange (s : State) (owed : Owed) : OnlyExchange s (writeStatus s owed) :=
  (onXu_exchange _ ⟨rfl, rfl, rfl, rfl, rfl, rfl, rfl, rfl, rfl, rfl⟩).trans ((emit_exchange _ _).trans
    ((emit_exchange _ _).trans ((emit_exchange _ _).trans (emit_exchange _ _))))

theorem wantStatus_exchange (s : State) (owed : Owed) : OnlyExchange s (wantStatus s owed) := by
  unfold wantStatus beginStatus
  split
  · exact ⟨_, _, rfl, ⟨rfl, rfl, rfl, rfl, rfl, rfl, rfl, rfl, rfl, rfl⟩⟩
  · split
    · exact payOwed_exchange s owed
    · exact writeStatus_exchange s owed

theorem OnlyStatus.exchange (h : OnlyStatus s t) : OnlyExchange s t := by
  rcases h with rfl | rfl
  · exact OnlyExchange.refl _
  · exact ⟨_, _, rfl, ⟨rfl, rfl, rfl, rfl, rfl, rfl, rfl, rfl, rfl, rfl⟩⟩

/-- R189: with no write in progress a write begins, of the fields as they stand. -/
theorem wantStatus_begins (owed : Owed) (hb : s.xu.xbase ≠ 0) (hw : s.xu.statusWrite = none) :
    (wantStatus s owed).xu =
      { s.xu with
        statusStamp := s.xu.statusStamp + 1
        changed := false
        statusWrite := some { owed := owed, contents := statusFields s, waited := 0 } } := by
  unfold wantStatus beginStatus
  rw [hw, if_neg (by decide), if_neg hb]
  rfl

/-- R189: a trigger that comes while a write is in progress is noted. -/
theorem wantStatus_notes (owed : Owed) (hw : s.xu.statusWrite.isSome = true) :
    wantStatus s owed =
      { s with xu := { s.xu with statusWanted := some ((s.xu.statusWanted.getD Owed.none).union owed) } } := if_pos hw

/-! ## The end of an order (R167) -/

/-- What noting the result of an order leaves alone. -/
structure OrderFrame (u t : State) : Prop where
  pins : t.pins = u.pins
  mu : t.mu = u.mu
  lu : t.lu = u.lu
  rx : t.rx = u.rx
  te : t.te = u.te
  sm : t.sm = u.sm
  pu : t.pu = u.pu
  ku : t.ku = u.ku
  ru : t.ru = u.ru
  rs : t.rs = u.rs
  cu : t.cu = { u.cu with batch := t.cu.batch }
  levels : t.xu.levels = u.xu.levels
  consumed : t.xu.consumed = u.xu.consumed
  pagesTaken : t.xu.pagesTaken = u.xu.pagesTaken
  emptySpell : t.xu.emptySpell = u.xu.emptySpell
  filling : t.xu.filling = u.xu.filling
  posting : t.xu.posting = u.xu.posting
  nextPage : t.xu.nextPage = u.xu.nextPage
  lastPosted : t.xu.lastPosted = u.xu.lastPosted

/-- The frame of an order whose batch, taken generation and results are then set, and after which a write is asked for. -/
theorem orderFrame_of_exchange {batch : Option Batch} {taken : Word} {results : Vector OrderResult 16}
    (h : OnlyExchange
      { u with cu := { u.cu with batch := batch }, xu := { u.xu with taken := taken, results := results } } t) :
    OrderFrame u t ∧ t.cu.batch = batch ∧ t.xu.taken = taken ∧ t.xu.results = results := by
  obtain ⟨xu, out, rfl, same⟩ := h
  exact ⟨⟨rfl, rfl, rfl, rfl, rfl, rfl, rfl, rfl, rfl, rfl, rfl, same.levels, same.consumed, same.pagesTaken, same.emptySpell,
    same.filling, same.posting, same.nextPage, same.lastPosted⟩, rfl, same.taken, same.results⟩

/-- R167: an order that has ended at `u` has its result noted, and nothing else of the roll changed. -/
theorem OrderEnded.frame {b : Batch} {result : OrderResult} (hb : u.cu.batch = some b) (h : OrderEnded u result t) :
    OrderFrame u t ∧ ResultNoted b result t := by
  unfold OrderEnded at h
  rw [hb] at h
  dsimp only at h
  unfold ResultNoted
  split at h
  · next more =>
    obtain ⟨frame, batch, _, _⟩ := orderFrame_of_exchange (u := u) (taken := u.xu.taken) (results := u.xu.results) h.exchange
    rw [if_pos more]
    exact ⟨frame, batch⟩
  · next last =>
    obtain ⟨frame, batch, taken, results⟩ := orderFrame_of_exchange ((wantStatus_exchange _ _).trans h.exchange)
    rw [if_neg last]
    exact ⟨frame, batch, taken, results⟩

/-- R189: with a write in progress and no further one wanted, the batch's end asks for a further one. -/
theorem OrderEnded.write {b : Batch} {result : OrderResult} (hb : u.cu.batch = some b) (h : OrderEnded u result t)
    (hw : u.xu.statusWrite.isSome = true) (hn : u.xu.statusWanted = none) :
    t.xu.statusWrite = u.xu.statusWrite ∧ t.xu.statusStamp = u.xu.statusStamp ∧
      t.xu.statusWanted = if b.next + 1 < b.count then none else some owesOrders := by
  unfold OrderEnded at h
  rw [hb] at h
  dsimp only at h
  split at h
  · next more =>
    rw [if_pos more]
    rcases h with rfl | rfl <;> exact ⟨rfl, rfl, hn⟩
  · next last =>
    rw [wantStatus_notes _ (by exact hw)] at h
    have wanted : (u.xu.statusWanted.getD Owed.none).union owesOrders = owesOrders := by
      rw [hn]
      rfl
    rw [if_neg last]
    rcases h with rfl | rfl <;> exact ⟨rfl, rfl, congrArg some wanted⟩

/-! ## The blocks at `start` (section 1.9 and its like) -/

/-- Section 1.9, R14: a face of the Motion Unit at `start`. -/
def startedFace (s : State) (s0 : Int) (f : Face) (level : Bool) : MuFace :=
  let continuous := (s.activePart f).any fun x => x.mode == .continuous
  { nextLine := 1, prevTrigger := none, skip := Tally.empty, acceptedLevel := level, begun := none, edges := [],
    overflow := Tally.empty, sect := if continuous then .coated else .wait,
    patchIndex := if continuous then 1 else 0, startStamp := s0, lastEnd := s0,
    startFlags := { synthStart := false, segment := false }, edgeExtra := false, finishRequest := false,
    finished := false }

/-- Section 1.9: the Motion Unit at `start`. -/
def startedMotion (s : State) (s0 : Int) : MotionUnit :=
  let moved : Bool := s.mu.p ≠ s0
  { s.mu with
    p := s0
    h := s0
    direction := .forward
    s0 := s0
    jumps := Tally.empty
    limitSent := false
    faces :=
      { upper := startedFace s s0 .upper s.pins.sensors.markUpper, lower := startedFace s s0 .lower s.pins.sensors.markLower }
    spliceAccepted := s.pins.sensors.splice
    spliceBegun := none
    splices := []
    stallCount := if moved then 0 else s.mu.stallCount
    stallRaised := if moved then false else s.mu.stallRaised }

theorem startMuFace_eq (s : State) (s0 : Int) (f : Face) (level : Bool) :
    startMuFace (trackerPart s f).mode s0 level = startedFace s s0 f level := by
  unfold startMuFace startedFace trackerPart
  cases s.activePart f with
  | none => rfl
  | some part => cases h : part.mode <;> simp [MuFace.powerOn, h]

theorem startMotion_eq (s : State) (s0 : Int) : startMotion s s0 = { s with mu := startedMotion s s0 } := by
  unfold startMotion startedMotion
  by_cases h : s.mu.p = s0
  · simp only [h, if_true, startMuFace_eq, State.onMu, ne_eq, not_true, decide_false, Bool.false_eq_true, if_false]
  · simp only [h, if_false, startMuFace_eq, movePosition, State.onMu, ne_eq, not_false_eq_true, decide_true, if_true]

/-- R168: the state in which every block stands at its values for `start` and the Record Unit is empty. -/
def startedBlocks (s : State) (s0 : Int) : State :=
  { s with
    mu := startedMotion s s0
    lu := (startLinks s).lu
    rx := (startExtract s).rx
    te := (startTracks s s0).te
    sm := (startSpots s).sm
    pu := (startPairing s s0).pu
    ku := (startMarks s).ku
    ru := RecordUnit.powerOn }

/-- R133, R168: the state in which the roll has been opened and its first status block write is asked for. -/
def rollOpened (s : State) (part : Sourced SharedPart) (rollId : Word) (s0 : Int) : State :=
  { startedBlocks s s0 with
    ru :=
      { RecordUnit.powerOn with
        nextSeq := 2
        queue := [{ seq := 1, mark := .none, body := .rollStart rollId s0 part.slot part.id }] }
    cu := { s.cu with state := .running, rollId := rollId, endReason := none, abandon := false, phase := .notClosing }
    xu := { s.xu with filling := none, posting := none } }

/-- R133: ROLL_START takes the first number and the first place. -/
theorem issueRollStart_first {part : Sourced SharedPart} (hs : s.rs.shared = some part) (hr : s.ru = RecordUnit.powerOn)
    (rollId : Word) (s0 : Int) :
    issueRollStart s rollId s0 =
      { s with
        ru :=
          { RecordUnit.powerOn with
            nextSeq := 2
            queue := [{ seq := 1, mark := .none, body := .rollStart rollId s0 part.slot part.id }] } } := by
  have room : 1 ≤ freeSlots s.ru := by
    rw [hr]
    decide
  unfold issueRollStart
  rw [hs]
  dsimp only
  rw [issue_kept (s := s) (by rw [hr]; decide) (by rw [hr]; decide) (by rw [hr]; rfl) (by exact room) fun _ => rfl, hr]
  rfl

theorem startBlocks_eq (s : State) (s0 : Int) : startBlocks s s0 = startedBlocks s s0 := by
  unfold startBlocks
  rw [startMotion_eq]
  rfl

theorem startRoll_eq {part : Sourced SharedPart} (hs : s.rs.shared = some part) (rollId : Word) (s0 : Int) :
    startRoll s rollId s0 = wantStatus (rollOpened s part rollId s0) Owed.none := by
  unfold startRoll
  dsimp only
  rw [startBlocks_eq, issueRollStart_first (by exact hs) rfl]
  rfl

/-! ## What the roll opened holds, block by block -/

theorem rollOpened_pins (part : Sourced SharedPart) (rollId : Word) (s0 : Int) :
    (rollOpened s part rollId s0).pins = s.pins := rfl

theorem rollOpened_rs (part : Sourced SharedPart) (rollId : Word) (s0 : Int) :
    (rollOpened s part rollId s0).rs = s.rs := rfl

theorem rollOpened_mu (part : Sourced SharedPart) (rollId : Word) (s0 : Int) :
    (rollOpened s part rollId s0).mu = startedMotion s s0 := rfl

theorem rollOpened_ku (part : Sourced SharedPart) (rollId : Word) (s0 : Int) :
    (rollOpened s part rollId s0).ku = (startMarks s).ku := rfl

theorem rollOpened_head (part : Sourced SharedPart) (rollId : Word) (s0 : Int) (p : Port) :
    (rollOpened s part rollId s0).head p =
      { s.head p with failedLine := none, outstanding := [], buffers := [], misses := 0 } :=
  Vector.getElem_map (xs := s.lu.heads) _ p.isLt

theorem rollOpened_luFace (part : Sourced SharedPart) (rollId : Word) (s0 : Int) (f : Face) :
    (rollOpened s part rollId s0).luFace f = { stream := [], assembled := 0, lastTriggered := none } := by cases f <;> rfl

theorem rollOpened_rxFace (part : Sourced SharedPart) (rollId : Word) (s0 : Int) (f : Face) :
    (rollOpened s part rollId s0).rxFace f = { s.rxFace f with runFull := Tally.empty, handed := [] } := by
  cases f <;> rfl

theorem rollOpened_teFace (part : Sourced SharedPart) (rollId : Word) (s0 : Int) (f : Face) :
    (rollOpened s part rollId s0).teFace f = { TeFace.powerOn with patchStart := s0 } := by cases f <;> rfl

theorem rollOpened_smFace (part : Sourced SharedPart) (rollId : Word) (s0 : Int) (f : Face) :
    (rollOpened s part rollId s0).smFace f = SmFace.powerOn := by cases f <;> rfl

theorem rollOpened_puFace (part : Sourced SharedPart) (rollId : Word) (s0 : Int) (f : Face) :
    (rollOpened s part rollId s0).puFace f =
      { processed := s0, log := [], floor := s0, finished := false, lastLine := none } := by
  cases f <;> rfl

theorem tablesFree_of_powerOn (ht : ∀ f, (t.teFace f).tracks = TeFace.powerOn.tracks)
    (hs : ∀ f, (t.smFace f).spots = SmFace.powerOn.spots) (f : Face) : TablesFree t f := by
  unfold TablesFree
  rw [ht, hs]
  exact ⟨fun i => Vector.getElem_replicate i.isLt, fun i => Vector.getElem_replicate i.isLt⟩

theorem hasHead_iff (s : State) (f : Face) : hasHead s f = true ↔ ∃ p e, s.entry p = some e ∧ e.face = f := by
  have every : ∀ p : Port, p ∈ allPorts := by decide
  unfold hasHead
  rw [List.any_eq_true]
  constructor
  · rintro ⟨p, _, hp⟩
    split at hp
    · cases hp
    · next e he => exact ⟨p, e, he, eq_of_beq hp⟩
  · rintro ⟨p, e, he, hf⟩
    refine ⟨p, every p, ?_⟩
    rw [he]
    exact beq_iff_eq.2 hf

theorem rollOpened_active {part : Sourced SharedPart} (hs : s.rs.shared = some part) (rollId : Word) (s0 : Int) :
    (rollOpened s part rollId s0).pu.active = true ↔
      part.part.pairing = true ∧ ∀ f, ∃ p e, s.entry p = some e ∧ e.face = f := by
  have active : (rollOpened s part rollId s0).pu.active =
      ((s.shared.map SharedPart.pairing).getD false && hasHead s .upper && hasHead s .lower) := rfl
  have shared : s.shared = some part.part := by
    unfold State.shared
    rw [hs]
    rfl
  rw [active, shared, Bool.and_eq_true, Bool.and_eq_true, hasHead_iff, hasHead_iff, and_assoc]
  refine and_congr_right fun _ => ⟨fun both f => ?_, fun all => ⟨all .upper, all .lower⟩⟩
  cases f
  · exact both.1
  · exact both.2

/-! ## The order -/

theorem orderDue_batch {order : Instr} (h : orderDue s = some order) : s.cu.batch.isSome = true := by
  unfold orderDue at h
  split at h
  · next b _ => simp [*]
  · cases h
  · cases h
  · cases h

theorem executeOrder_due {order : Instr} (h : orderDue s = some order) (effect : State → State × OrderResult) :
    executeOrder s order effect = endOrder (effect s).1 (effect s).2 := if_pos h

/-- R168: an order that is refused changes nothing but the batch. -/
theorem start_refused {rollId s0 : Word} {result : OrderResult} (hq : Quiescent s)
    (hd : orderDue s = some (.start rollId s0)) (hr : orderStart s rollId s0.toInt = (s, result)) :
    ∃ t, exec (.start rollId s0) s = .next t ∧ OrderEnded s result t := by
  refine ⟨_, rfl, ?_⟩
  rw [executeOrder_due hd, hr]
  exact settle_endOrder s result (orderDue_batch hd) hq.1

theorem orderStart_done {part : Sourced SharedPart} (hi : s.cu.state = .idle) (hs : s.rs.shared = some part)
    (rollId : Word) {s0 : Int} (h1 : -1000000000 ≤ s0) (h2 : s0 ≤ 1000000000) :
    orderStart s rollId s0 = (wantStatus (rollOpened s part rollId s0) Owed.none, plainResult .done) := by
  have range : ¬(s0 < -Config.startLimit ∨ Config.startLimit < s0) := by
    unfold Config.startLimit
    omega
  unfold orderStart
  rw [if_neg (not_not.2 hi), hs, Option.isNone_some, if_neg Bool.false_ne_true, if_neg range, startRoll_eq hs]

/-- Settles O42: the tests in their order, then the opened roll block by block, which the batch's end leaves as it is. -/
theorem startOpensRoll : Obligations.StartOpensRoll := by
  intro rollId s0 s hq
  refine ⟨fun hd => exec_onlyStatus rfl (if_neg hd) hq.1, fun hd => ⟨fun hi => ?_, fun hi hs => ?_, fun hi hs hr => ?_, ?_⟩⟩
  · exact start_refused hq hd (if_pos hi)
  · refine start_refused hq hd ?_
    unfold orderStart
    rw [if_neg (not_not.2 hi), hs]
    rfl
  · obtain ⟨part, hs⟩ := Option.ne_none_iff_exists'.1 hs
    refine start_refused hq hd ?_
    unfold orderStart
    rw [if_neg (not_not.2 hi), hs]
    exact if_pos hr
  · intro part b hi hs h1 h2 hb face released moved
    let opened := rollOpened s part rollId s0.toInt
    let written := wantStatus opened Owed.none
    have batch : written.cu.batch = some b := (congrArg ControlUnit.batch (wantStatus_cu opened _)).trans hb
    have limit : written.cu.limitEvent = false := (congrArg ControlUnit.limitEvent (wantStatus_cu opened _)).trans hq.1
    have run : exec (.start rollId s0) s = .next (settle s (endOrder written (plainResult .done))) := by
      show Host.Outcome.next (settle s _) = _
      rw [executeOrder_due hd, orderStart_done hi hs rollId h1 h2]
    refine ⟨_, run, ?_⟩
    have ends : OrderEnded written (plainResult .done) (settle s (endOrder written (plainResult .done))) :=
      settle_endOrder s _ (by rw [batch]; rfl) limit
    generalize settle s (endOrder written (plainResult .done)) = t at ends
    obtain ⟨frame, noted⟩ := ends.frame batch
    obtain ⟨xu, out, hwritten, same⟩ := wantStatus_exchange opened Owed.none
    replace frame : OrderFrame { opened with xu := xu, out := out } t := hwritten ▸ frame
    have luFace : ∀ f, t.luFace f = opened.luFace f := fun f => congrArg (fun l : LinkUnit => l.faces.get f) frame.lu
    have head : ∀ p, t.head p = opened.head p := fun p => congrArg (fun l : LinkUnit => l.heads[p]) frame.lu
    have rxFace : ∀ f, t.rxFace f = opened.rxFace f := fun f => congrArg (fun r : PerFace RxFace => r.get f) frame.rx
    have teFace : ∀ f, t.teFace f = opened.teFace f := fun f => congrArg (fun e : TrackEngine => e.faces.get f) frame.te
    have smFace : ∀ f, t.smFace f = opened.smFace f := fun f => congrArg (fun m : PerFace SmFace => m.get f) frame.sm
    have puFace : ∀ f, t.puFace f = opened.puFace f := fun f => congrArg (fun p : PairingUnit => p.faces.get f) frame.pu
    have cu := frame.cu
    refine ⟨noted, ?_, ?_, ?_, ?_, ?_, ?_, ?_, ?_, ?_, ?_, ?_, ?_, ?_, ?_, ?_, ?_, ?_, ?_, ?_, ?_, ?_,
      ?_, ?_, ?_, frame.filling.trans same.filling, frame.posting.trans same.posting,
      frame.levels.trans same.levels, frame.consumed.trans same.consumed, frame.pagesTaken.trans same.pagesTaken,
      frame.nextPage.trans same.nextPage, frame.lastPosted.trans same.lastPosted, frame.emptySpell.trans same.emptySpell⟩
    · rw [cu]; rfl
    · rw [cu]; rfl
    · rw [cu]; rfl
    · rw [cu]; rfl
    · rw [cu]; rfl
    · rw [cu]; rfl
    · exact frame.pins.trans (rollOpened_pins part rollId s0.toInt)
    · exact frame.rs.trans (rollOpened_rs part rollId s0.toInt)
    · exact frame.mu.trans (rollOpened_mu part rollId s0.toInt)
    · exact fun f => (luFace f).trans (rollOpened_luFace part rollId _ f)
    · exact fun p => (head p).trans (rollOpened_head part rollId _ p)
    · exact fun f => (rxFace f).trans (rollOpened_rxFace part rollId _ f)
    · exact tablesFree_of_powerOn (fun f => by rw [teFace, rollOpened_teFace]) fun f => by rw [smFace, rollOpened_smFace]
    · rw [frame.te]; rfl
    · intro f
      rw [teFace, rollOpened_teFace]
      exact ⟨rfl, rfl, rfl, rfl, rfl⟩
    · intro f
      rw [smFace, rollOpened_smFace]
      exact ⟨rfl, rfl, rfl, rfl, rfl⟩
    · rw [frame.pu]
      exact rollOpened_active hs rollId s0.toInt
    · rw [frame.pu]; rfl
    · rw [frame.pu]; rfl
    · rw [frame.pu]; rfl
    · exact fun f => (puFace f).trans (rollOpened_puFace part rollId _ f)
    · exact frame.ku.trans (rollOpened_ku part rollId s0.toInt)
    · exact frame.ru
    · intro hx hw
      have begins : written.xu = _ := wantStatus_begins (s := opened) Owed.none hx hw
      have unwanted : s.xu.statusWanted = none := hq.2.resolve_right (by rw [hw]; decide)
      obtain ⟨write, stamp, wanted⟩ := ends.write batch (by rw [begins]; rfl) (by rw [begins]; exact unwanted)
      rw [write, stamp, begins]
      exact ⟨⟨_, rfl, rfl, rfl⟩, rfl, wanted⟩

end Sys2Proof.Machine
end

section
/-! SUPPORT. The samples of the mark and splice inputs, and the splice queue. -/

namespace Sys2Proof.Machine

variable {s t : State} {f : Face}

/-! ## One sample of an input (R9) -/

theorem sampleInput_immediate (level : Bool) (stamp : Int) :
    sampleInput none (!level) level stamp 0 = { begun := none, accepted := some stamp } := by cases level <;> rfl

theorem sampleInput_begins {filter : Nat} (level : Bool) (stamp : Int) (h : filter ≠ 0) :
    sampleInput none (!level) level stamp filter = { begun := some { stamp := stamp, left := filter }, accepted := none } := by
  cases level <;> exact if_neg h

theorem sampleInput_waits {b : BegunEdge} (level : Bool) (stamp : Int) (filter : Nat) (h : 1 < b.left) :
    sampleInput (some b) (!level) level stamp filter = { begun := some { b with left := b.left - 1 }, accepted := none } := by
  cases level <;> exact if_neg (Nat.not_le.2 h)

theorem sampleInput_accepts {b : BegunEdge} (level : Bool) (stamp : Int) (filter : Nat) (h : b.left ≤ 1) :
    sampleInput (some b) (!level) level stamp filter = { begun := none, accepted := some b.stamp } := by
  cases level <;> exact if_pos h

/-! ## The mark inputs (R9, R10) -/

/-- The sample of a face's mark input, as `sampleMark` takes it. -/
def markSample (s : State) (sp : SharedPart) (f : Face) : Sampled :=
  sampleInput (s.muFace f).begun (s.muFace f).acceptedLevel (markLevel s f) (s.mu.h - markOffset sp f) sp.markFilter

theorem sampleMark_finished (sp : SharedPart) (h : (s.muFace f).finished = true) : sampleMark s sp f = s := if_pos h

theorem sampleMark_none (sp : SharedPart) (h : (s.muFace f).finished = false) (hx : (markSample s sp f).accepted = none) :
    sampleMark s sp f = s.onMuFace f fun m => { m with begun := (markSample s sp f).begun } := by
  unfold markSample at hx
  unfold sampleMark markSample
  dsimp only
  rw [if_neg (Bool.eq_false_iff.1 h), hx]

theorem sampleMark_some {stamp : Int} (sp : SharedPart) (h : (s.muFace f).finished = false)
    (hx : (markSample s sp f).accepted = some stamp) :
    sampleMark s sp f =
      s.onMuFace f fun m =>
        queueEdge (trackerPart s f) { m with begun := (markSample s sp f).begun, acceptedLevel := markLevel s f }
          { stamp := stamp, rise := markLevel s f } := by
  unfold markSample at hx
  unfold sampleMark markSample
  dsimp only
  rw [if_neg (Bool.eq_false_iff.1 h), hx]

theorem queueEdge_continuous {part : FacePart} (m : MuFace) (e : Edge) (h : part.mode = .continuous) :
    queueEdge part m e = m := if_pos h

theorem queueEdge_room {part : FacePart} {m : MuFace} (e : Edge) (h : part.mode = .intermittent) (hm : m.edges.length < 8) :
    queueEdge part m e = { m with edges := m.edges ++ [e] } := by
  have other : part.mode ≠ .continuous := by rw [h]; decide
  exact (if_neg other).trans (if_pos hm)

theorem queueEdge_full {part : FacePart} {m : MuFace} (e : Edge) (h : part.mode = .intermittent) (hm : 8 ≤ m.edges.length) :
    queueEdge part m e = { m with overflow := m.overflow.add e.stamp } := by
  have other : part.mode ≠ .continuous := by rw [h]; decide
  exact (if_neg other).trans (if_neg (Nat.not_lt.2 hm))

theorem trackerPart_active {part : FacePart} (h : s.activePart f = some part) : trackerPart s f = part := by
  unfold trackerPart
  rw [h]
  rfl

/-! ## The splice input (R9, R20) -/

/-- The sample of the splice input, as `sampleSplice` takes it. -/
def spliceSample (s : State) (sp : SharedPart) : Sampled :=
  sampleInput s.mu.spliceBegun s.mu.spliceAccepted s.pins.sensors.splice (s.mu.h - sp.qS) sp.markFilter

theorem sampleSplice_finished (sp : SharedPart) (hu : (s.muFace .upper).finished = true)
    (hl : (s.muFace .lower).finished = true) : sampleSplice s sp = s := if_pos (by rw [hu, hl]; rfl)

theorem some_unfinished (h : (s.muFace .upper).finished = false ∨ (s.muFace .lower).finished = false) :
    ((s.muFace .upper).finished && (s.muFace .lower).finished) = false := Bool.and_eq_false_iff.2 h

theorem sampleSplice_none (sp : SharedPart) (h : (s.muFace .upper).finished = false ∨ (s.muFace .lower).finished = false)
    (hx : (spliceSample s sp).accepted = none) :
    sampleSplice s sp = { s with mu := { s.mu with spliceBegun := (spliceSample s sp).begun } } := by
  unfold spliceSample at hx
  unfold sampleSplice spliceSample
  dsimp only
  rw [some_unfinished h, if_neg Bool.false_ne_true, hx]
  rfl

theorem sampleSplice_some {z : Int} (sp : SharedPart)
    (h : (s.muFace .upper).finished = false ∨ (s.muFace .lower).finished = false)
    (hx : (spliceSample s sp).accepted = some z) :
    sampleSplice s sp =
      let changed : State :=
        { s with mu := { s.mu with spliceBegun := (spliceSample s sp).begun, spliceAccepted := s.pins.sensors.splice } }
      if s.pins.sensors.splice then acceptSplice changed sp z else changed := by
  unfold spliceSample at hx
  unfold sampleSplice spliceSample
  dsimp only
  rw [some_unfinished h, if_neg Bool.false_ne_true, hx]
  rfl

/-! ## The splice queue (R20) -/

theorem purgeSplices_all {entries : List SpliceEntry} (h : ∀ e ∈ entries, (e.done.upper && e.done.lower) = false) :
    purgeSplices entries = entries :=
  List.filter_eq_self.2 fun e he => by rw [h e he]; rfl

theorem acceptSplice_full (sp : SharedPart) (z : Int) (h : 2 ≤ s.mu.splices.length) :
    acceptSplice s sp z = issueFault s .spliceOverflow .none z z 1 := if_neg (Nat.not_lt.2 h)

theorem passedZone_false {sp : SharedPart} {last : Int} (hf : (s.muFace f).finished = false)
    (h : (s.muFace f).nextLine ≤ 1 ∨ lineStamp s sp ((s.muFace f).nextLine - 1) ≤ last) : passedZone s sp last f = false := by
  unfold passedZone
  rw [hf, Bool.false_or, Bool.and_eq_false_iff, decide_eq_false_iff_not, decide_eq_false_iff_not]
  exact h.imp Nat.not_lt.2 Int.not_lt.2

theorem acceptSplice_open {sp : SharedPart} {z : Int} (hn : s.mu.splices.length < 2)
    (hd : ∀ e ∈ s.mu.splices, e.done.upper = false ∨ e.done.lower = false) (hp : ∀ f, passedZone s sp (z + sp.ea) f = false) :
    acceptSplice s sp z =
      { s with
        mu :=
          { s.mu with
            splices := s.mu.splices ++
              [{ stamp := z, first := z - sp.eb, last := z + sp.ea, entered := PerFace.both false,
                 done := PerFace.both false }] } } := by
  refine (if_pos hn).trans ?_
  dsimp only
  rw [hp .upper, hp .lower, if_neg Bool.false_ne_true]
  dsimp only [State.onMu]
  rw [purgeSplices_all]
  · rfl
  · intro e he
    rcases List.mem_append.1 he with old | new
    · exact Bool.and_eq_false_iff.2 (hd e old)
    · rw [List.mem_singleton.1 new]
      rfl

/-! ## A line meets the splice queue (R21) -/

theorem holds_iff (e : SpliceEntry) (stamp : Int) : e.holds stamp = true ↔ e.first ≤ stamp ∧ stamp ≤ e.last := by
  unfold SpliceEntry.holds
  rw [Bool.and_eq_true, decide_eq_true_eq, decide_eq_true_eq]

/-- A closure item of a splice joins the face's stream. -/
def spliceCut (s : State) (f : Face) : State :=
  { s with
    lu := { s.lu with faces := s.lu.faces.set f { s.luFace f with stream := (s.luFace f).stream ++ [.spliceClosure] } } }

theorem enterZone_enters {stamp : Int} {e : SpliceEntry} (h : e.holds stamp = true) (he : e.entered.get f = false) :
    enterZone f stamp s e =
      if f = .upper then issue (spliceCut s f) (.splice e.stamp e.first e.last) else spliceCut s f := by
  refine (if_pos (by rw [h, he]; rfl)).trans ?_
  cases f <;> rfl

theorem enterZone_passes {stamp : Int} {e : SpliceEntry} (h : e.holds stamp = false ∨ e.entered.get f = true) :
    enterZone f stamp s e = s := by
  refine if_neg ?_
  rw [Bool.and_eq_true, Bool.not_eq_true']
  rintro ⟨inside, new⟩
  rcases h with h | h
  · exact Bool.false_ne_true (h.symm.trans inside)
  · exact Bool.false_ne_true (new.symm.trans h)

theorem enterZone_mu (f : Face) (stamp : Int) (s : State) (e : SpliceEntry) :
    (enterZone f stamp s e).mu = s.mu := by
  unfold enterZone
  split
  · cases f
    · obtain ⟨_, _, _, ⟨mu, _, _⟩, _⟩ := issue_reporting (s.pushStream .upper .spliceClosure) (.splice e.stamp e.first e.last)
      exact mu
    · rfl
  · rfl

theorem meetSplices_eq (s : State) (f : Face) (stamp : Int) :
    meetSplices s f stamp =
      let t := s.mu.splices.foldl (enterZone f stamp) s
      { t with mu := { s.mu with splices := purgeSplices (s.mu.splices.map (markEntry f stamp)) } } := by
  have mu : (s.mu.splices.foldl (enterZone f stamp) s).mu = s.mu :=
    List.foldlRecOn (motive := fun t : State => t.mu = s.mu) _ _ rfl
      fun t ht e _ => (enterZone_mu f stamp t e).trans ht
  unfold meetSplices State.onMu
  dsimp only
  rw [mu]

theorem markEntry_inside {stamp : Int} {e : SpliceEntry} (h1 : e.first ≤ stamp) (h2 : stamp ≤ e.last) :
    markEntry f stamp e = { e with entered := e.entered.set f true } := by
  unfold markEntry
  rw [(holds_iff e stamp).2 ⟨h1, h2⟩, decide_eq_false (Int.not_lt.2 h2), Bool.or_true, Bool.or_false, PerFace.set_get]

theorem markEntry_same {stamp : Int} {e : SpliceEntry} (h : e.holds stamp = false ∨ e.entered.get f = true)
    (h2 : stamp ≤ e.last) : markEntry f stamp e = e := by
  have entered : (e.entered.get f || e.holds stamp) = e.entered.get f := by
    rcases h with h | h <;> rw [h]
    · exact Bool.or_false _
    · rfl
  unfold markEntry
  rw [entered, decide_eq_false (Int.not_lt.2 h2), Bool.or_false, PerFace.set_get, PerFace.set_get]

theorem markEntry_beyond {stamp : Int} {e : SpliceEntry} (h : e.last < stamp) :
    markEntry f stamp e = { e with done := e.done.set f true } := by
  have outside : e.holds stamp = false := by
    rw [Bool.eq_false_iff, ne_eq, holds_iff]
    omega
  unfold markEntry
  rw [outside, decide_eq_true h, Bool.or_true, Bool.or_false, PerFace.set_get]

theorem markOffset_eq (sp : SharedPart) (f : Face) : markOffset sp f = if f = .upper then sp.qU else sp.qL := by
  cases f <;> rfl

theorem markLevel_eq (s : State) (f : Face) :
    markLevel s f = if f = .upper then s.pins.sensors.markUpper else s.pins.sensors.markLower := by
  cases f <;> rfl

/-- R9, R10: the three outcomes of a sample of a mark input. -/
theorem sampleMark_outcomes {sp : SharedPart} {part : FacePart} (hp : s.activePart f = some part) :
    let m := s.muFace f
    let x := markSample s sp f
    let withFace : MuFace → State := fun m1 => { s with mu := { s.mu with faces := s.mu.faces.set f m1 } }
    (m.finished = true → sampleMark s sp f = s) ∧
      (m.finished = false → x.accepted = none → sampleMark s sp f = withFace { m with begun := x.begun }) ∧
      ∀ stamp, m.finished = false → x.accepted = some stamp →
        let m1 := { m with begun := x.begun, acceptedLevel := markLevel s f }
        (part.mode = .continuous → sampleMark s sp f = withFace m1) ∧
          (part.mode = .intermittent → m.edges.length < 8 →
            sampleMark s sp f = withFace { m1 with edges := m.edges ++ [{ stamp := stamp, rise := markLevel s f }] }) ∧
          (part.mode = .intermittent → 8 ≤ m.edges.length →
            sampleMark s sp f = withFace { m1 with overflow := m.overflow.add stamp }) := by
  intro m x withFace
  refine ⟨sampleMark_finished sp, fun hf hx => sampleMark_none sp hf hx, ?_⟩
  intro stamp hf hx m1
  have queued : sampleMark s sp f = withFace (queueEdge part m1 { stamp := stamp, rise := markLevel s f }) := by
    rw [sampleMark_some sp hf hx, trackerPart_active hp]
    rfl
  rw [queued]
  exact ⟨fun hc => congrArg withFace (queueEdge_continuous m1 _ hc),
    fun hi hm => congrArg withFace (queueEdge_room (m := m1) _ hi hm),
    fun hi hm => congrArg withFace (queueEdge_full (m := m1) _ hi hm)⟩

/-- R21: a line that is a face's entry into both zones of the queue. -/
theorem meetSplices_both {d e : SpliceEntry} {stamp : Int} (hs : s.mu.splices = [d, e])
    (h : ∀ x ∈ [d, e], (x.done.upper && x.done.lower) = false ∧ x.first ≤ stamp ∧ stamp ≤ x.last ∧ x.entered.get f = false) :
    let t := meetSplices s f stamp
    t.mu.splices = [{ d with entered := d.entered.set f true }, { e with entered := e.entered.set f true }] ∧
      (t.luFace f).stream = (s.luFace f).stream ++ [.spliceClosure, .spliceClosure] ∧
      (f = .lower → t.ru = s.ru) ∧
      (f = .upper → t.ru = (issue (issue s (.splice d.stamp d.first d.last)) (.splice e.stamp e.first e.last)).ru) := by
  obtain ⟨dDone, d1, d2, dNew⟩ := h d (List.mem_cons_self ..)
  obtain ⟨eDone, e1, e2, eNew⟩ := h e (List.mem_cons_of_mem _ (List.mem_cons_self ..))
  have entries : purgeSplices ([d, e].map (markEntry f stamp)) =
      [{ d with entered := d.entered.set f true }, { e with entered := e.entered.set f true }] := by
    rw [List.map_cons, List.map_cons, List.map_nil, markEntry_inside d1 d2, markEntry_inside e1 e2]
    refine purgeSplices_all fun x hx => ?_
    rcases List.mem_cons.1 hx with rfl | hx
    · exact dDone
    · rw [List.mem_singleton.1 hx]
      exact eDone
  have met : meetSplices s f stamp =
      let t := enterZone f stamp (enterZone f stamp s d) e
      { t with
        mu :=
          { s.mu with
            splices := [{ d with entered := d.entered.set f true }, { e with entered := e.entered.set f true }] } } := by
    rw [meetSplices_eq, hs, entries]
    rfl
  rw [enterZone_enters ((holds_iff d stamp).2 ⟨d1, d2⟩) dNew, enterZone_enters ((holds_iff e stamp).2 ⟨e1, e2⟩) eNew] at met
  have twice : ∀ u : State, u.lu = (spliceCut s f).lu →
      ((spliceCut u f).luFace f).stream = (s.luFace f).stream ++ [.spliceClosure, .spliceClosure] := fun u hu => by
    simp [spliceCut, State.luFace, hu]
  intro t
  dsimp only [t]
  rw [met]
  cases f with
  | upper =>
    obtain ⟨_, _, _, ⟨mu, lu, _⟩, _⟩ := issue_reporting (spliceCut s .upper) (.splice d.stamp d.first d.last)
    obtain ⟨_, _, _, ⟨_, lu', _⟩, _⟩ := issue_reporting
      (spliceCut (issue (spliceCut s .upper) (.splice d.stamp d.first d.last)) .upper) (.splice e.stamp e.first e.last)
    rw [if_pos rfl, if_pos rfl]
    refine ⟨rfl, ?_, nofun, fun _ => ?_⟩
    · exact (congrArg (fun l : LinkUnit => (l.faces.get .upper).stream) lu').trans (twice _ lu)
    · obtain ⟨_, _, _, ⟨mu', _, _⟩, _⟩ := issue_reporting s (.splice d.stamp d.first d.last)
      have first : (issue (spliceCut s .upper) (.splice d.stamp d.first d.last)).mu = s.mu := mu
      have once := issue_ru_congr (s := spliceCut s .upper) (t := s) rfl rfl (.splice d.stamp d.first d.last)
      exact issue_ru_congr (s := spliceCut (issue (spliceCut s .upper) (.splice d.stamp d.first d.last)) .upper)
        (t := issue s (.splice d.stamp d.first d.last)) once (congrArg MotionUnit.h (first.trans mu'.symm))
        (.splice e.stamp e.first e.last)
  | lower => exact ⟨rfl, twice _ rfl, fun _ => rfl, nofun⟩

/-- R21: a line that meets one splice entry: its entry, between first line and entry, and beyond the zone. -/
theorem meetSplices_one {e : SpliceEntry} {stamp : Int} (hs : s.mu.splices = [e])
    (hd : (e.done.upper && e.done.lower) = false) :
    (e.first ≤ stamp → stamp ≤ e.last → e.entered.get f = false →
      meetSplices s f stamp =
        (let t := if f = .upper then issue (spliceCut s f) (.splice e.stamp e.first e.last) else spliceCut s f
         { t with mu := { t.mu with splices := [{ e with entered := e.entered.set f true }] } })) ∧
      ((stamp < e.first ∨ (stamp ≤ e.last ∧ e.entered.get f = true)) → stamp ≤ e.last → meetSplices s f stamp = s) ∧
      (e.last < stamp →
        (e.done.get (otherFace f) = true → (meetSplices s f stamp).mu.splices = []) ∧
          (e.done.get (otherFace f) = false →
            (meetSplices s f stamp).mu.splices = [{ e with done := e.done.set f true }])) := by
  have met : meetSplices s f stamp =
      let t := enterZone f stamp s e
      { t with mu := { s.mu with splices := purgeSplices [markEntry f stamp e] } } := by
    rw [meetSplices_eq, hs]
    rfl
  have stays : ∀ x : SpliceEntry, (x.done.upper && x.done.lower) = false → purgeSplices [x] = [x] := fun x hx =>
    purgeSplices_all fun y hy => by rw [List.mem_singleton.1 hy]; exact hx
  refine ⟨fun h1 h2 hn => ?_, fun h h2 => ?_, fun h => ?_⟩
  · rw [met, markEntry_inside h1 h2, stays _ (by exact hd)]
    have mu := enterZone_mu f stamp s e
    rw [enterZone_enters ((holds_iff e stamp).2 ⟨h1, h2⟩) hn] at mu ⊢
    dsimp only
    rw [mu]
  · have outside : e.holds stamp = false ∨ e.entered.get f = true := by
      refine h.imp (fun h1 => ?_) And.right
      rw [Bool.eq_false_iff, ne_eq, holds_iff]
      omega
    rw [met, markEntry_same outside h2, stays e hd, enterZone_passes outside, ← hs]
  · rw [met, markEntry_beyond h]
    refine ⟨fun ho => ?_, fun ho => stays _ ?_⟩
    · cases f <;> simp_all [purgeSplices, PerFace.get, PerFace.set, otherFace]
    · cases f <;> simp_all [PerFace.get, PerFace.set, otherFace]

/-- Settles O51, sample by sample and entry by entry. -/
theorem edgesAndSplicesAccepted : Obligations.EdgesAndSplicesAccepted := by
  refine ⟨fun begun b level stamp filter => ?_, fun f sp part s hp => ?_, fun sp z s => ?_⟩
  · exact ⟨sampleInput_accepted begun level stamp filter, sampleInput_immediate level stamp, sampleInput_begins level stamp,
      sampleInput_waits level stamp filter, sampleInput_accepts level stamp filter⟩
  · intro m level x
    have level_eq : markLevel s f = level := markLevel_eq s f
    have x_eq : markSample s sp f = x := by
      unfold markSample
      rw [level_eq, markOffset_eq]
    have outcomes := sampleMark_outcomes (sp := sp) hp
    rw [x_eq, level_eq] at outcomes
    exact outcomes
  · refine ⟨sampleSplice_finished sp, fun h => ⟨sampleSplice_none sp h, fun stamp hx => sampleSplice_some sp h hx⟩,
      acceptSplice_full sp z, fun hn hd hp => acceptSplice_open hn hd fun f => ?_, fun f d e stamp hs h => meetSplices_both hs h,
      fun f e stamp hs hd => meetSplices_one hs hd⟩
    obtain ⟨hf, hl⟩ := hp f
    exact passedZone_false hf hl

end Sys2Proof.Machine
end

section
/-! SUPPORT. The next line of a face: when it is due, what its preparation comes to with no boundary and no zone before it, and its
triggers. -/

namespace Sys2Proof.Machine

variable {s t : State} {f : Face} {sp : SharedPart}

/-! ## The triggers of a line (R27, R40) -/

theorem onHead_eq (s : State) (p : Port) (g : Head → Head) :
    s.onHead p g = { s with lu := { s.lu with heads := s.lu.heads.set p.val (g (s.head p)) } } := rfl

theorem head_set (heads : Vector Head 8) (p q : Port) (h : Head) :
    (heads.set p.val h)[q] = if q = p then h else heads[q] := by
  split
  · next e =>
    subst e
    exact Vector.getElem_set_self _
  · next e => exact Vector.getElem_set_ne _ _ fun same => e (Fin.ext same.symm)

/-- A TRIGGER has gone to head `p`, which now stands at `h`. -/
def triggered (s : State) (p : Port) (desc : LineDesc) (h : Head) : State :=
  { s with
    lu := { s.lu with heads := s.lu.heads.set p.val h }
    out := s.out ++ [.link p (triggerPacket desc.number desc.lighting)] }

/-- A head at the TRIGGER of a line. -/
def triggeredHead (h : Head) (desc : LineDesc) : Head :=
  { h with link := .live, outstanding := h.outstanding ++ [desc.number] }

theorem sendTrigger_plain {p : Port} (desc : LineDesc) (h : (s.head p).link ≠ .ready ∨ (s.head p).recovering = false) :
    sendTrigger desc s p = triggered s p desc (triggeredHead (s.head p) desc) := by
  refine if_neg ?_
  rintro ⟨ready, recovering⟩
  rcases h with h | h
  · exact h ready
  · exact Bool.false_ne_true (h.symm.trans recovering)

theorem triggered_onHead (s : State) (p : Port) (desc : LineDesc) (h : Head) (g : Head → Head) :
    (triggered s p desc h).onHead p g = triggered s p desc (g h) := by
  have stands : (triggered s p desc h).head p = h := (head_set s.lu.heads p p h).trans (if_pos rfl)
  rw [onHead_eq, stands]
  unfold triggered
  dsimp only
  rw [Vector.set_set]

/-- R40: the TRIGGER goes out before the report of the head's recovery. -/
theorem sendTrigger_recovers {p : Port} (desc : LineDesc) (hl : (s.head p).link = .ready) (hr : (s.head p).recovering = true) :
    let u := triggered s p desc { triggeredHead (s.head p) desc with recovering := false }
    (s.inspecting = false → sendTrigger desc s p = u) ∧
      (s.inspecting = true → (s.head p).failedLine = none →
        sendTrigger desc s p = issueFault u .headRecovered (.head p) s.mu.s0 desc.stamp (desc.number - 1)) ∧
      ∀ line, s.inspecting = true → (s.head p).failedLine = some line →
        sendTrigger desc s p =
          issueFault u .headRecovered (.head p) line.stamp desc.stamp (desc.number - line.number - 1) := by
  intro u
  let sent := triggered s p desc (triggeredHead (s.head p) desc)
  have recovers : sendTrigger desc s p = recoverHead sent p desc := if_pos ⟨hl, hr⟩
  have cleared : (sent.onHead p fun h => { h with recovering := false }) = u := triggered_onHead _ _ _ _ _
  have stands : sent.head p = triggeredHead (s.head p) desc := (head_set s.lu.heads p p _).trans (if_pos rfl)
  have failed : (sent.head p).failedLine = (s.head p).failedLine := by
    rw [stands]
    rfl
  have inspecting : sent.inspecting = s.inspecting := rfl
  have origin : sent.mu.s0 = s.mu.s0 := rfl
  rw [recovers]
  unfold recoverHead
  dsimp only
  rw [cleared, failed, inspecting, origin]
  refine ⟨fun hi => ?_, fun hi hn => ?_, fun line hi hn => ?_⟩
  · rw [hi, if_neg Bool.false_ne_true]
  · rw [hi, hn, if_pos rfl]
  · rw [hi, hn, if_pos rfl]

theorem mem_triggerSet (p : Port) :
    p ∈ triggerSet s f ↔
      ∃ e, s.entry p = some e ∧ e.face = f ∧ ((s.head p).link = .ready ∨ (s.head p).link = .live) := by
  have every : p ∈ allPorts := by revert p; decide
  unfold triggerSet
  rw [List.mem_filter]
  cases h : s.entry p with
  | none => simp
  | some e => simp [every]

theorem triggerSet_nodup (s : State) (f : Face) : (triggerSet s f).Nodup :=
  List.Nodup.filter _ (by decide : allPorts.Nodup)

/-- R27: heads none of which is recovering are triggered. -/
theorem foldl_sendTrigger_plain (desc : LineDesc) {l : List Port} (hn : l.Nodup)
    (h : ∀ p ∈ l, (s.head p).recovering = false) :
    ∃ heads : Vector Head 8,
      l.foldl (sendTrigger desc) s =
        { s with
          lu := { s.lu with heads := heads }
          out := s.out ++ l.map fun p => .link p (triggerPacket desc.number desc.lighting) } ∧
        ∀ p : Port, heads[p] = if p ∈ l then triggeredHead (s.head p) desc else s.head p := by
  induction l generalizing s with
  | nil => exact ⟨s.lu.heads, by rw [List.foldl_nil, List.map_nil, List.append_nil], fun p => rfl⟩
  | cons p rest ih =>
    obtain ⟨fresh, hn⟩ := List.nodup_cons.1 hn
    have first := sendTrigger_plain desc (.inr (h p (List.mem_cons_self ..)))
    have heads : ∀ q, (triggered s p desc (triggeredHead (s.head p) desc)).head q =
        if q = p then triggeredHead (s.head p) desc else s.head q := fun q => head_set _ _ _ _
    obtain ⟨after, hafter, each⟩ := ih (s := triggered s p desc (triggeredHead (s.head p) desc)) hn fun q hq => by
      rw [heads, if_neg fun e : q = p => fresh (e ▸ hq)]
      exact h q (List.mem_cons_of_mem _ hq)
    refine ⟨after, ?_, fun q => ?_⟩
    · rw [List.foldl_cons, first, hafter]
      simp only [triggered, List.map_cons, List.append_assoc, List.singleton_append]
    · rw [each, heads]
      by_cases hq : q = p
      · subst hq
        simp [fresh]
      · simp [hq]

/-! ## A triggered line (R27, R35, R36) -/

theorem openLines_append (a b : List StreamItem) : openLines (a ++ b) = openLines a ++ openLines b := List.filterMap_append

/-- The line has joined its face's stream unassembled. -/
def lineOpened (s : State) (f : Face) (line : OpenLine) : State :=
  { s with
    lu :=
      { s.lu with
        faces :=
          s.lu.faces.set f
            { s.luFace f with
              stream := (s.luFace f).stream ++ [.opened line]
              lastTriggered := some { number := line.desc.number, stamp := line.desc.stamp } } } }

theorem triggerLine_eq (s : State) (f : Face) (desc : LineDesc) :
    triggerLine s f desc =
      let r := makeRoom s f
      assembleReady
        (lineOpened ((triggerSet r f).foldl (sendTrigger desc) r) f
          { desc := desc, expected := triggerSet r f, givenUp := [], triggerTime := s.mu.us }) f := by
  unfold triggerLine lineOpened State.pushStream State.onLuFace State.onLu PerFace.modify
  dsimp only
  rw [PerFace.get_set_same, PerFace.set_set]
  rfl

theorem makeRoom_few (h : (openLines (s.luFace f).stream).length < 2) : makeRoom s f = s := if_neg (Nat.not_le.2 h)

theorem makeRoom_two {line next : OpenLine} {more : List OpenLine} {r : State}
    (h : openLines (s.luFace f).stream = line :: next :: more) (hr : ReadyAssembled f (assembleLine s f line) r) :
    makeRoom s f = r := by
  have two : 2 ≤ (openLines (s.luFace f).stream).length := by
    rw [h, List.length_cons, List.length_cons]
    omega
  refine (if_pos two).trans ?_
  unfold assembleOldest
  rw [h]
  exact hr.eq_ready.symm

/-- R35: a line is complete by the packets its heads hold. -/
theorem lineComplete_congr (h : ∀ p, (t.head p).buffers = (s.head p).buffers) (line : OpenLine) :
    lineComplete t line = lineComplete s line := by
  unfold lineComplete goodPacket
  simp only [h]

/-- R27: a trigger that finds at most one unassembled line, no recovering head, and the oldest line incomplete. -/
theorem triggerLine_quiet {desc : LineDesc} (hn : (openLines (s.luFace f).stream).length < 2)
    (hr : ∀ p ∈ triggerSet s f, (s.head p).recovering = false) :
    let line : OpenLine := { desc := desc, expected := triggerSet s f, givenUp := [], triggerTime := s.mu.us }
    (∀ x ∈ (openLines (s.luFace f).stream ++ [line]).head?, lineComplete s x = false) →
      ∃ heads : Vector Head 8,
        triggerLine s f desc =
          { s with
            lu :=
              { heads := heads
                faces :=
                  s.lu.faces.set f
                    { s.luFace f with
                      stream := (s.luFace f).stream ++ [.opened line]
                      lastTriggered := some { number := desc.number, stamp := desc.stamp } } }
            out := s.out ++ (triggerSet s f).map fun p => .link p (triggerPacket desc.number desc.lighting) } ∧
          ∀ p : Port, heads[p] = if p ∈ triggerSet s f then triggeredHead (s.head p) desc else s.head p := by
  intro line hc
  obtain ⟨heads, sent, each⟩ := foldl_sendTrigger_plain desc (triggerSet_nodup s f) hr
  refine ⟨heads, ?_, each⟩
  rw [triggerLine_eq, makeRoom_few hn]
  dsimp only
  rw [sent]
  let u : State :=
    { s with
      lu := { s.lu with heads := heads }
      out := s.out ++ (triggerSet s f).map fun p => .link p (triggerPacket desc.number desc.lighting) }
  have lines : openLines ((lineOpened u f line).luFace f).stream = openLines (s.luFace f).stream ++ [line] := by
    unfold lineOpened State.luFace
    dsimp only
    rw [PerFace.get_set_same]
    exact openLines_append _ _
  refine assembleComplete_waits f _ (lineOpened u f line) ?_
  rw [lines]
  intro x hx
  have buffers : ∀ p : Port, (heads[p]).buffers = (s.head p).buffers := fun p => by
    rw [each]
    split <;> rfl
  exact (lineComplete_congr (s := s) (t := lineOpened u f line) buffers x).trans (hc x hx)

/-! ## Skip stretches (R7) -/

theorem closeSkip_eq (s : State) (f : Face) :
    closeSkip s f =
      issueTally
        { s with mu := { s.mu with faces := s.mu.faces.set f { s.muFace f with skip := Tally.empty } } } .overspeed f
        (s.muFace f).skip := rfl

theorem closeSkip_reports (h : (s.muFace f).skip.count ≠ 0) :
    closeSkip s f =
      issueFault
        { s with mu := { s.mu with faces := s.mu.faces.set f { s.muFace f with skip := Tally.empty } } } .overspeed (.face f)
        (s.muFace f).skip.first (s.muFace f).skip.last (s.muFace f).skip.count :=
  if_neg fun e => h (eq_of_beq e)

theorem closeSkip_closed (h : (s.muFace f).skip = Tally.empty) : closeSkip s f = s := by
  rw [closeSkip_eq, h, issueTally_empty, ← h]
  dsimp only
  rw [State.muFace, PerFace.set_get]

/-- R7: what closing a skip stretch leaves of the blocks a line's preparation reads. -/
theorem closeSkip_frame (s : State) (f : Face) :
    (closeSkip s f).mu = { s.mu with faces := s.mu.faces.set f { s.muFace f with skip := Tally.empty } } ∧
      (closeSkip s f).rs = s.rs := by
  obtain ⟨_, _, _, ⟨mu, _, _⟩, _, rs⟩ := issueTally_reporting
    { s with mu := { s.mu with faces := s.mu.faces.set f { s.muFace f with skip := Tally.empty } } } .overspeed f
    (s.muFace f).skip
  rw [closeSkip_eq]
  exact ⟨mu, rs⟩

theorem closeSkip_muFace (s : State) (f : Face) : (closeSkip s f).muFace f = { s.muFace f with skip := Tally.empty } := by
  unfold State.muFace
  rw [(closeSkip_frame s f).1]
  exact PerFace.get_set_same _ _ _

/-! ## Due lines (R6, R7, R11) -/

theorem lineDue_iff :
    lineDue s sp f = true ↔
      (s.muFace f).finished = false ∧ lineStamp s sp (s.muFace f).nextLine + cameraOffset sp f ≤ s.mu.h := by
  unfold lineDue
  rw [Bool.and_eq_true, Bool.not_eq_true', decide_eq_true_eq]

theorem periodOver_iff :
    periodOver s sp f = true ↔
      ∀ t0, (s.muFace f).prevTrigger = some t0 → sp.minPeriod ≤ (s.mu.us - t0).toNat := by
  unfold periodOver
  cases h : (s.muFace f).prevTrigger with
  | none => simp
  | some t0 => simp

/-- R11: with no boundary at or below the stamp nothing is applied, whatever the fuel. -/
theorem applyBoundaries_none {stamp : Int}
    (h : (s.muFace f).finished = true ∨ ∀ b, nextBoundary s f = some b → stamp < b.stamp) (n : Nat) :
    applyBoundaries n s f stamp = s := by
  cases n with
  | zero => rfl
  | succ n =>
    unfold applyBoundaries
    split
    · rfl
    · next unfinished =>
      have far := h.resolve_left unfinished
      split
      · rfl
      · next b hb => exact if_neg (Int.not_le.2 (far b hb))

theorem meetSplices_none (h : s.mu.splices = []) (stamp : Int) : meetSplices s f stamp = s := by
  rw [meetSplices_eq, h]
  show { s with mu := { s.mu with splices := [] } } = s
  rw [← h]

/-- R6, R7: a due line with no boundary before it and no splice queued is triggered or skipped. -/
theorem prepareIfDue_clear (hf : (s.muFace f).finished = false)
    (hd : lineStamp s sp (s.muFace f).nextLine + cameraOffset sp f ≤ s.mu.h) (hs : s.mu.splices = [])
    (hb : ∀ b, nextBoundary s f = some b → lineStamp s sp (s.muFace f).nextLine < b.stamp) :
    prepareIfDue s sp f =
      (if periodOver s sp f then sendLine s sp f (s.muFace f).nextLine false
        else skipLine s sp f (s.muFace f).nextLine false).onMuFace f fun m =>
          { m with nextLine := (s.muFace f).nextLine + 1 } := by
  unfold prepareIfDue
  rw [if_pos (lineDue_iff.2 ⟨hf, hd⟩)]
  unfold prepareLine
  dsimp only
  rw [applyBoundaries_none (.inr hb), if_neg (Bool.eq_false_iff.1 hf), meetSplices_none hs, hs]
  rfl

theorem nextBoundary_closeSkip (s : State) (f : Face) : nextBoundary (closeSkip s f) f = nextBoundary s f := by
  have part : trackerPart (closeSkip s f) f = trackerPart s f := by
    unfold trackerPart State.activePart State.rsFace
    rw [(closeSkip_frame s f).2]
  unfold nextBoundary
  rw [closeSkip_muFace, (closeSkip_frame s f).1, part]
  rfl

theorem sendLine_closed {number : Nat} {excluded : Bool} (h : (s.muFace f).skip = Tally.empty) :
    sendLine s sp f number excluded =
      triggerLine { s with mu := { s.mu with faces := s.mu.faces.set f { s.muFace f with prevTrigger := some s.mu.us } } } f
        (describeLine s sp f number excluded false) := by
  unfold sendLine
  rw [closeSkip_closed h]
  rfl

theorem sendLine_closeSkip (s : State) (sp : SharedPart) (f : Face) (number : Nat) (excluded : Bool) :
    sendLine (closeSkip s f) sp f number excluded = sendLine s sp f number excluded := by
  have closed : closeSkip (closeSkip s f) f = closeSkip s f := closeSkip_closed (by rw [closeSkip_muFace])
  obtain ⟨mu, _⟩ := closeSkip_frame s f
  have described : describeLine (closeSkip s f) sp f number excluded false = describeLine s sp f number excluded false := by
    unfold describeLine lineStamp
    rw [closeSkip_muFace, mu]
  unfold sendLine
  rw [closed, described, mu]

/-- R7: the skip stretch is closed before the line that is triggered is described. -/
theorem prepareIfDue_closeSkip (hf : (s.muFace f).finished = false)
    (hd : lineStamp s sp (s.muFace f).nextLine + cameraOffset sp f ≤ s.mu.h) (hs : s.mu.splices = [])
    (hb : ∀ b, nextBoundary s f = some b → lineStamp s sp (s.muFace f).nextLine < b.stamp)
    (hp : periodOver s sp f = true) : prepareIfDue s sp f = prepareIfDue (closeSkip s f) sp f := by
  obtain ⟨mu, _⟩ := closeSkip_frame s f
  have past : periodOver (closeSkip s f) sp f = true := by
    unfold periodOver at hp ⊢
    rw [closeSkip_muFace, mu]
    exact hp
  have stamp : ∀ n, lineStamp (closeSkip s f) sp n = lineStamp s sp n := fun n => by
    unfold lineStamp
    rw [mu]
  rw [prepareIfDue_clear hf hd hs hb, prepareIfDue_clear (s := closeSkip s f), if_pos hp, if_pos past, closeSkip_muFace,
    sendLine_closeSkip]
  · rw [closeSkip_muFace]
    exact hf
  · rw [closeSkip_muFace, stamp, mu]
    exact hd
  · rw [mu]
    exact hs
  · rw [closeSkip_muFace, nextBoundary_closeSkip, stamp]
    exact hb

/-- Settles O48: the preparation of a line with nothing before it, then any trigger, then each head. -/
theorem lineScheduled : Obligations.LineScheduled := by
  refine ⟨fun sp f s => ?_, fun f desc s r v hr => ?_, fun p desc s => ?_⟩
  · intro m n stamp point desc late stream t
    have offset : point = stamp + cameraOffset sp f := by
      cases f
      · exact (Int.add_zero _).symm
      · rfl
    have described : ∀ skipped, describeLine s sp f n false skipped = { desc with skipped := skipped } := fun _ => rfl
    refine ⟨fun h => if_neg ?_, closeSkip_reports, fun p => mem_triggerSet p, ?_⟩
    · rw [lineDue_iff]
      rintro ⟨unfinished, due⟩
      rcases h with finished | early
      · exact Bool.false_ne_true (unfinished.symm.trans finished)
      · rw [offset] at early
        exact absurd due (Int.not_le.2 early)
    · intro hf hd hs hb
      rw [offset] at hd
      have clear := prepareIfDue_clear (sp := sp) hf hd hs hb
      have trigger : late → m.skip = Tally.empty → t =
          (triggerLine { s with mu := { s.mu with faces := s.mu.faces.set f { m with prevTrigger := some s.mu.us } } } f
            desc).onMuFace f fun m => { m with nextLine := n + 1 } := fun hl hskip => by
        refine clear.trans ?_
        rw [if_pos (periodOver_iff.2 hl), sendLine_closed hskip]
        rfl
      refine ⟨fun hl => ?_, fun hl => prepareIfDue_closeSkip hf hd hs hb (periodOver_iff.2 hl), ?_,
        fun hl hskip => trigger hl hskip⟩
      · refine clear.trans ?_
        rw [if_neg fun past => hl (periodOver_iff.1 past)]
        unfold skipLine
        rw [described, onMuFace_eq, onMuFace_eq]
        unfold State.pushStream State.onLuFace State.onLu PerFace.modify State.muFace
        dsimp only
        rw [PerFace.get_set_same, PerFace.set_set]
        rfl
      · intro hl hskip hn hr line hc
        let begun : State :=
          { s with mu := { s.mu with faces := s.mu.faces.set f { m with prevTrigger := some s.mu.us } } }
        obtain ⟨heads, sent, each⟩ := triggerLine_quiet (s := begun) (f := f) (desc := desc) hn hr hc
        have ht : t = _ := (trigger hl hskip).trans (congrArg (fun u : State => u.onMuFace f _) sent)
        rw [ht, onMuFace_eq]
        refine ⟨?_, rfl, each, rfl, rfl⟩
        unfold State.muFace
        dsimp only [begun]
        rw [PerFace.get_set_same, PerFace.set_set]
  · intro sent line hv
    have room : makeRoom s f = r := by
      rcases hr with ⟨few, rfl⟩ | ⟨oldest, next, more, lines, assembled⟩
      · exact makeRoom_few few
      · exact makeRoom_two lines assembled
    rw [triggerLine_eq, room]
    exact hv.eq_ready.symm
  · exact ⟨sendTrigger_plain desc, fun hl hr => sendTrigger_recovers desc hl hr⟩

end Sys2Proof.Machine
end

section
/-! SUPPORT. The section tracker: the boundary that is next, and what patch ends and patch starts make of a face. -/

namespace Sys2Proof.Machine

variable {s t : State} {f : Face}

/-! ## A face's tracker and its stream -/

/-- The tracker of a face stands at `m` and the items have joined its stream. -/
def sectioned (s : State) (f : Face) (m : MuFace) (items : List StreamItem) : State :=
  { s with
    mu := { s.mu with faces := s.mu.faces.set f m }
    lu := { s.lu with faces := s.lu.faces.set f { s.luFace f with stream := (s.luFace f).stream ++ items } } }

@[simp] theorem sectioned_muFace (s : State) (f : Face) (m : MuFace) (items : List StreamItem) :
    (sectioned s f m items).muFace f = m := PerFace.get_set_same _ _ _

@[simp] theorem sectioned_luFace (s : State) (f : Face) (m : MuFace) (items : List StreamItem) :
    (sectioned s f m items).luFace f = { s.luFace f with stream := (s.luFace f).stream ++ items } :=
  PerFace.get_set_same _ _ _

theorem sectioned_sectioned (s : State) (f : Face) (m n : MuFace) (before items : List StreamItem) :
    sectioned (sectioned s f m before) f n items = sectioned s f n (before ++ items) := by
  have face := sectioned_luFace s f m before
  unfold sectioned at face ⊢
  rw [face]
  simp only [PerFace.set_set, List.append_assoc]

theorem onMuFace_sectioned (s : State) (f : Face) (g : MuFace → MuFace) :
    s.onMuFace f g = sectioned s f (g (s.muFace f)) [] := by
  have face : ({ s.luFace f with stream := (s.luFace f).stream ++ [] } : LuFace) = s.luFace f := by rw [List.append_nil]
  rw [onMuFace_eq, sectioned, face, State.luFace, PerFace.set_get]

theorem pushStream_sectioned (s : State) (f : Face) (item : StreamItem) :
    s.pushStream f item = sectioned s f (s.muFace f) [item] := by
  rw [sectioned, State.muFace, PerFace.set_get]
  rfl

theorem sectioned_self (s : State) (f : Face) : sectioned s f (s.muFace f) [] = s :=
  (onMuFace_sectioned s f id).symm.trans (onMuFace_same rfl)

/-! ## The boundary that is next (R11, R13, R14) -/

theorem syntheticStamp_wait {m : MuFace} (part : FacePart) (h : m.sect = .wait) : syntheticStamp m part = none := by
  unfold syntheticStamp
  rw [h]

theorem syntheticStamp_patch {m : MuFace} (part : FacePart) (h : m.sect ≠ .wait) :
    syntheticStamp m part =
      some (if m.sect = .coated then m.startStamp + part.nominal + part.tolerance else m.lastEnd + part.maxGap) := by
  unfold syntheticStamp
  cases hs : m.sect with
  | wait => exact absurd hs h
  | coated => rfl
  | gap => rfl

section Intermittent

variable {part : FacePart}

theorem nextBoundary_edge_only (hp : s.activePart f = some part) (hm : part.mode = .intermittent)
    (hx : syntheticStamp (s.muFace f) part = none) : nextBoundary s f = (s.muFace f).edges.head?.map .edge := by
  unfold nextBoundary
  rw [trackerPart_active hp]
  dsimp only
  rw [hm, hx]
  cases (s.muFace f).edges with
  | nil => rfl
  | cons e rest => rfl

theorem nextBoundary_synthetic_only {x : Int} (hp : s.activePart f = some part) (hm : part.mode = .intermittent)
    (he : (s.muFace f).edges = []) (hx : syntheticStamp (s.muFace f) part = some x) :
    nextBoundary s f = some (.synthetic x) := by
  unfold nextBoundary
  rw [trackerPart_active hp]
  dsimp only
  rw [hm, hx, he]

/-- R11: an edge goes before a synthetic boundary of the same stamp. -/
theorem nextBoundary_earlier {x : Int} {e : Edge} {rest : List Edge} (hp : s.activePart f = some part)
    (hm : part.mode = .intermittent) (he : (s.muFace f).edges = e :: rest)
    (hx : syntheticStamp (s.muFace f) part = some x) :
    nextBoundary s f = some (if e.stamp ≤ x then .edge e else .synthetic x) := by
  unfold nextBoundary
  rw [trackerPart_active hp]
  dsimp only
  rw [hm, hx, he, apply_ite some]

end Intermittent

/-- R14: the segment boundary is the first multiple of the segment length beyond the start of the patch. -/
theorem nextBoundary_continuous {part : FacePart} (hp : s.activePart f = some part) (hm : part.mode = .continuous)
    (hs : part.segment ≠ 0) (h0 : s.mu.s0 ≤ (s.muFace f).startStamp) :
    ∃ n : Int, 1 ≤ n ∧ nextBoundary s f = some (.segment (s.mu.s0 + n * part.segment)) ∧
      (s.muFace f).startStamp < s.mu.s0 + n * part.segment ∧
        s.mu.s0 + (n - 1) * part.segment ≤ (s.muFace f).startStamp := by
  have positive : (0 : Int) < part.segment := by omega
  let q := ((s.muFace f).startStamp - s.mu.s0) / (part.segment : Int)
  have nonneg : 0 ≤ q := Int.ediv_nonneg (by omega) positive.le
  have below : q * part.segment ≤ (s.muFace f).startStamp - s.mu.s0 := Int.ediv_mul_le _ positive.ne'
  have above : (s.muFace f).startStamp - s.mu.s0 < (q + 1) * part.segment := Int.lt_ediv_add_one_mul_self _ positive
  refine ⟨q + 1, by omega, ?_, by omega, by rw [Int.add_sub_cancel]; omega⟩
  have first : max 1 (q + 1) = q + 1 := max_eq_right (by omega)
  unfold nextBoundary
  rw [trackerPart_active hp]
  dsimp only
  rw [hm]
  dsimp only
  unfold segmentStamp
  rw [if_neg hs]
  exact congrArg (fun n : Int => some (Boundary.segment (s.mu.s0 + n * part.segment))) first

/-! ## Patch ends (R12, R13, R14, R19) -/

/-- The stream item of the end of the patch a face is in. -/
def patchEndItem (m : MuFace) (stamp : Int) (flags : PatchFlags) (finishing : Bool) : StreamItem :=
  .patchEnd { index := m.patchIndex, first := m.startStamp, last := stamp, flags := flags, finishing := finishing }

theorem makePatchEnd_eq (s : State) (f : Face) (stamp : Int) (flags : PatchFlags) :
    makePatchEnd s f stamp flags =
      let t := sectioned s f { s.muFace f with sect := .gap, lastEnd := stamp }
        [patchEndItem (s.muFace f) stamp flags (s.muFace f).finishRequest]
      if (s.muFace f).finishRequest then finishFace t f else t := by
  unfold makePatchEnd
  dsimp only
  rw [onMuFace_sectioned, pushStream_sectioned, sectioned_muFace, sectioned_sectioned]
  rfl

theorem makePatchEnd_open (stamp : Int) (flags : PatchFlags) (h : (s.muFace f).finishRequest = false) :
    makePatchEnd s f stamp flags =
      sectioned s f { s.muFace f with sect := .gap, lastEnd := stamp } [patchEndItem (s.muFace f) stamp flags false] := by
  refine (makePatchEnd_eq s f stamp flags).trans ((if_neg (Bool.eq_false_iff.1 h)).trans ?_)
  exact congrArg (fun b => sectioned s f { s.muFace f with sect := .gap, lastEnd := stamp }
    [patchEndItem (s.muFace f) stamp flags b]) h

theorem issueTally_eq (s : State) (code : FaultCode) (f : Face) (x : Tally) :
    issueTally s code f x = if x.count = 0 then s else issueFault s code (.face f) x.first x.last x.count := by
  unfold issueTally Tally.isEmpty
  simp only [beq_iff_eq]

theorem issueTally_ru_congr (h : s.ru = t.ru) (hh : s.mu.h = t.mu.h) (code : FaultCode) (f : Face) (x : Tally) :
    (issueTally s code f x).ru = (issueTally t code f x).ru := by
  rw [issueTally_eq, issueTally_eq]
  split
  · exact h
  · exact issue_ru_congr h hh _

/-- R19: a patch end from `s`, whose edges have come down to `edges`, has finished the face. -/
def EndFinishes (s : State) (f : Face) (stamp : Int) (edges : List Edge) (flags : PatchFlags) (t : State) : Prop :=
  let m := s.muFace f
  (t.muFace f).finished = true ∧ (t.muFace f).sect = .gap ∧ (t.muFace f).lastEnd = stamp ∧
    (t.muFace f).edges = edges ∧ (t.muFace f).skip = Tally.empty ∧
    (t.luFace f).stream = (s.luFace f).stream ++ [patchEndItem m stamp flags true] ∧ t.rs = s.rs ∧
    t.ru = (if m.skip.count = 0 then s else issueFault s .overspeed (.face f) m.skip.first m.skip.last m.skip.count).ru

theorem finishFace_face (s : State) (f : Face) :
    (finishFace s f).muFace f = { s.muFace f with finished := true, skip := Tally.empty } ∧
      (finishFace s f).luFace f = s.luFace f ∧ (finishFace s f).rs = s.rs ∧
      (finishFace s f).ru = (issueTally s .overspeed f (s.muFace f).skip).ru := by
  let done : State :=
    (s.onMuFace f fun m => { m with finished := true }).onMu fun m =>
      { m with splices := purgeSplices (m.splices.map fun e => { e with done := e.done.set f true }) }
  have face : done.muFace f = { s.muFace f with finished := true } := PerFace.get_set_same _ _ _
  obtain ⟨_, _, _, ⟨_, lu, _⟩, _, rs⟩ := issueTally_reporting
    { done with mu := { done.mu with faces := done.mu.faces.set f { done.muFace f with skip := Tally.empty } } }
    .overspeed f (done.muFace f).skip
  have closed : finishFace s f = closeSkip done f := rfl
  rw [closed]
  refine ⟨?_, congrArg (fun l : LinkUnit => l.faces.get f) lu, rs, ?_⟩
  · rw [closeSkip_muFace, face]
  · rw [closeSkip_eq, face]
    exact issueTally_ru_congr (by rfl) (by rfl) _ _ (s.muFace f).skip

theorem makePatchEnd_finishes (stamp : Int) (flags : PatchFlags) (h : (s.muFace f).finishRequest = true) :
    EndFinishes s f stamp (s.muFace f).edges flags (makePatchEnd s f stamp flags) := by
  obtain ⟨face, stream, rs, ru⟩ := finishFace_face (sectioned s f { s.muFace f with sect := .gap, lastEnd := stamp }
    [patchEndItem (s.muFace f) stamp flags (s.muFace f).finishRequest]) f
  rw [sectioned_muFace] at face ru
  rw [makePatchEnd_eq]
  dsimp only
  rw [if_pos h]
  unfold EndFinishes
  dsimp only
  rw [face, stream, rs, ru, sectioned_luFace, ← issueTally_eq]
  refine ⟨rfl, rfl, rfl, rfl, rfl, ?_, rfl, issueTally_ru_congr (by rfl) (by rfl) _ _ (s.muFace f).skip⟩
  exact congrArg (fun b => (s.luFace f).stream ++ [patchEndItem (s.muFace f) stamp flags b]) h

/-- A patch end that an edge makes has taken that edge off the queue first. -/
theorem makePatchEnd_finishes_edge (stamp : Int) (edges : List Edge) (flags : PatchFlags)
    (h : (s.muFace f).finishRequest = true) :
    EndFinishes s f stamp edges flags
      (makePatchEnd (sectioned s f { s.muFace f with edges := edges } []) f stamp flags) := by
  have ends := makePatchEnd_finishes (s := sectioned s f { s.muFace f with edges := edges } []) (f := f) stamp flags
    (by rw [sectioned_muFace]; exact h)
  unfold EndFinishes at ends ⊢
  rw [sectioned_muFace, sectioned_luFace, List.append_nil] at ends
  obtain ⟨finished, sect, last, queue, skip, stream, rs, ru⟩ := ends
  refine ⟨finished, sect, last, queue, skip, stream, rs, ?_⟩
  rw [ru, ← issueTally_eq, ← issueTally_eq]
  exact issueTally_ru_congr (by rfl) (by rfl) _ _ (s.muFace f).skip

/-! ## Patch starts (R12, R13, R14, R156) -/

/-- The tracker of a face as its next patch starts. -/
def patchStarted (m : MuFace) (stamp : Int) (flags : StartFlags) : MuFace :=
  { m with sect := .coated, patchIndex := m.patchIndex + 1, startStamp := stamp, startFlags := flags }

theorem makePatchStart_eq (s : State) (f : Face) (stamp : Int) (flags : StartFlags) :
    makePatchStart s f stamp flags =
      let r := applyPending (sectioned s f (patchStarted (s.muFace f) stamp flags) []) f stamp
      r.1.pushStream f (.patchStart { index := (s.muFace f).patchIndex + 1, stamp := stamp, part := r.2 }) := by
  rw [← onMuFace_sectioned s f fun m => patchStarted m stamp flags]
  rfl

theorem makePatchStart_plain (stamp : Int) (flags : StartFlags) (h : (s.rsFace f).pending = none) :
    makePatchStart s f stamp flags =
      sectioned s f (patchStarted (s.muFace f) stamp flags)
        [.patchStart { index := (s.muFace f).patchIndex + 1, stamp := stamp, part := none }] := by
  have started : ((sectioned s f (patchStarted (s.muFace f) stamp flags) []).rsFace f).pending = none := h
  rw [makePatchStart_eq]
  unfold applyPending
  rw [started]
  dsimp only
  rw [pushStream_sectioned, sectioned_muFace, sectioned_sectioned]
  rfl

theorem makePatchStart_plain_after (m : MuFace) (before : List StreamItem) (stamp : Int) (flags : StartFlags)
    (h : (s.rsFace f).pending = none) :
    makePatchStart (sectioned s f m before) f stamp flags =
      sectioned s f (patchStarted m stamp flags)
        (before ++ [.patchStart { index := m.patchIndex + 1, stamp := stamp, part := none }]) := by
  rw [makePatchStart_plain stamp flags (by exact h), sectioned_muFace, sectioned_sectioned]

/-- R156: a patch start from `s`, where `before` joins the stream ahead of it, has applied the pending face part. -/
def StartApplies (s : State) (f : Face) (source : Sourced FacePart) (stamp : Int) (edges : List Edge) (flags : StartFlags)
    (before : List StreamItem) (t : State) : Prop :=
  let m := s.muFace f
  (t.rsFace f).active = some source ∧ (t.rsFace f).pending = none ∧ (t.muFace f).sect = .coated ∧
    (t.muFace f).patchIndex = m.patchIndex + 1 ∧ (t.muFace f).startStamp = stamp ∧ (t.muFace f).startFlags = flags ∧
    (t.muFace f).edges = (if source.part.mode = .continuous then [] else edges) ∧
    (t.luFace f).stream =
      (s.luFace f).stream ++ before ++
        [.patchStart { index := m.patchIndex + 1, stamp := stamp, part := some source.part }] ∧
    t.ru = (issue s (.recipe f source.slot source.id stamp)).ru

theorem makePatchStart_pending {source : Sourced FacePart} (stamp : Int) (flags : StartFlags)
    (hp : (s.rsFace f).pending = some source) :
    makePatchStart s f stamp flags =
      let m := s.muFace f
      let applied : State :=
        sectioned (s.onRsFace f fun r => { r with active := some source, pending := none }) f
          { patchStarted m stamp flags with edges := if source.part.mode = .continuous then [] else m.edges } []
      (issue applied (.recipe f source.slot source.id stamp)).pushStream f
        (.patchStart { index := m.patchIndex + 1, stamp := stamp, part := some source.part }) := by
  have started : ((sectioned s f (patchStarted (s.muFace f) stamp flags) []).rsFace f).pending = some source := hp
  have applied : ((sectioned s f (patchStarted (s.muFace f) stamp flags) []).onRsFace f
        fun r => { r with active := some source, pending := none }) =
      sectioned (s.onRsFace f fun r => { r with active := some source, pending := none }) f
        (patchStarted (s.muFace f) stamp flags) [] := rfl
  rw [makePatchStart_eq]
  unfold applyPending
  rw [started]
  dsimp only
  rw [applied, onMuFace_sectioned, sectioned_sectioned, sectioned_muFace]
  rfl

theorem makePatchStart_applies {source : Sourced FacePart} (stamp : Int) (flags : StartFlags)
    (hp : (s.rsFace f).pending = some source) :
    StartApplies s f source stamp (s.muFace f).edges flags [] (makePatchStart s f stamp flags) := by
  let applied : State :=
    sectioned (s.onRsFace f fun r => { r with active := some source, pending := none }) f
      { patchStarted (s.muFace f) stamp flags with
        edges := if source.part.mode = .continuous then [] else (s.muFace f).edges } []
  let issued := issue applied (.recipe f source.slot source.id stamp)
  obtain ⟨_, _, _, ⟨mu, lu, _⟩, _, rs⟩ := issue_reporting applied (.recipe f source.slot source.id stamp)
  have face : issued.muFace f = _ :=
    (congrArg (fun m : MotionUnit => m.faces.get f) mu).trans (sectioned_muFace _ f _ _)
  have stream : (issued.luFace f).stream = (s.luFace f).stream :=
    (congrArg (fun l : LinkUnit => (l.faces.get f).stream) lu).trans
      ((congrArg LuFace.stream (sectioned_luFace _ f _ _)).trans (List.append_nil _))
  have store : issued.rsFace f = { s.rsFace f with active := some source, pending := none } :=
    (congrArg (fun r : RecipeStore => r.faces.get f) rs).trans (PerFace.get_modify_same _ _ _)
  have kept : ∀ (u : State) (m : MuFace) (items : List StreamItem),
      (sectioned u f m items).rsFace f = u.rsFace f ∧ (sectioned u f m items).ru = u.ru := fun _ _ _ => ⟨rfl, rfl⟩
  unfold StartApplies
  rw [makePatchStart_pending stamp flags hp]
  dsimp only
  rw [pushStream_sectioned, sectioned_muFace, sectioned_luFace]
  rw [(kept issued _ _).1, (kept issued _ _).2, store, face, List.append_nil]
  refine ⟨rfl, rfl, rfl, rfl, rfl, rfl, rfl, ?_, issue_ru_congr (by rfl) (by rfl) _⟩
  exact congrArg (· ++ _) stream

/-- A patch start whose face has first come to `m`, with the items of `before` in its stream. -/
theorem makePatchStart_applies_after {source : Sourced FacePart} {m : MuFace} (stamp : Int) (flags : StartFlags)
    (before : List StreamItem) (hp : (s.rsFace f).pending = some source) (hi : m.patchIndex = (s.muFace f).patchIndex) :
    StartApplies s f source stamp m.edges flags before (makePatchStart (sectioned s f m before) f stamp flags) := by
  have starts := makePatchStart_applies (s := sectioned s f m before) (f := f) stamp flags hp
  unfold StartApplies at starts ⊢
  rw [sectioned_muFace, sectioned_luFace, List.append_nil] at starts
  dsimp only at starts
  rw [hi] at starts
  obtain ⟨active, pending, sect, index, start, startFlags, edges, stream, ru⟩ := starts
  exact ⟨active, pending, sect, index, start, startFlags, edges, stream, ru.trans (issue_ru_congr (by rfl) (by rfl) _)⟩

/-! ## What each boundary makes (R11 to R14) -/

section Edges

variable {e : Edge} {rest : List Edge}

theorem pop_edge (hm : (s.muFace f).edges = e :: rest) :
    (s.onMuFace f fun m => { m with edges := m.edges.tail }) = sectioned s f { s.muFace f with edges := rest } [] := by
  rw [onMuFace_sectioned, hm, List.tail_cons]

theorem applyEdge_redundant (hm : (s.muFace f).edges = e :: rest) (h : e.rise = true ↔ (s.muFace f).sect = .coated) :
    applyBoundary s f (.edge e) = sectioned s f { s.muFace f with edges := rest, edgeExtra := true } [] := by
  have marked : sectioned s f { s.muFace f with edges := rest, edgeExtra := true } [] =
      (sectioned s f { s.muFace f with edges := rest } []).onMuFace f fun m => { m with edgeExtra := true } := by
    rw [onMuFace_sectioned, sectioned_sectioned, sectioned_muFace]
    rfl
  unfold applyBoundary applyEdge
  dsimp only
  rw [pop_edge hm, marked]
  generalize sectioned s f { s.muFace f with edges := rest } [] = popped
  cases hs : (s.muFace f).sect with
  | coated => rw [h.2 hs]
  | wait => rw [Bool.eq_false_iff.2 fun hr => absurd (hs.symm.trans (h.1 hr)) (by decide)]
  | gap => rw [Bool.eq_false_iff.2 fun hr => absurd (hs.symm.trans (h.1 hr)) (by decide)]

theorem applyEdge_start (hm : (s.muFace f).edges = e :: rest) (hr : e.rise = true) (hs : (s.muFace f).sect ≠ .coated) :
    applyBoundary s f (.edge e) =
      makePatchStart (sectioned s f { s.muFace f with edges := rest } []) f e.stamp
        { synthStart := false, segment := false } := by
  unfold applyBoundary applyEdge
  dsimp only
  rw [pop_edge hm, hr]
  generalize sectioned s f { s.muFace f with edges := rest } [] = popped
  cases h : (s.muFace f).sect with
  | coated => exact absurd h hs
  | wait => rfl
  | gap => rfl

theorem applyEdge_end {part : FacePart} (hp : s.activePart f = some part) (hm : (s.muFace f).edges = e :: rest)
    (hr : e.rise = false) (hs : (s.muFace f).sect = .coated) :
    applyBoundary s f (.edge e) =
      makePatchEnd (sectioned s f { s.muFace f with edges := rest } []) f e.stamp (fallFlags (s.muFace f) part e.stamp) := by
  unfold applyBoundary applyEdge
  dsimp only
  rw [pop_edge hm, hr, trackerPart_active hp]
  generalize sectioned s f { s.muFace f with edges := rest } [] = popped
  rw [hs]

end Edges

theorem applySynthetic_end (stamp : Int) (hs : (s.muFace f).sect = .coated) :
    applyBoundary s f (.synthetic stamp) = makePatchEnd s f stamp (synthFlags (s.muFace f)) := by
  unfold applyBoundary applySynthetic
  rw [hs]

theorem applySynthetic_start (stamp : Int) (hs : (s.muFace f).sect = .gap) :
    applyBoundary s f (.synthetic stamp) = makePatchStart s f stamp { synthStart := true, segment := false } := by
  unfold applyBoundary applySynthetic
  rw [hs]

/-- R14: the face goes on, so the patch end is followed by a patch start. -/
theorem applySegment_both (stamp : Int) (hr : (s.muFace f).finishRequest = false) (hf : (s.muFace f).finished = false) :
    applyBoundary s f (.segment stamp) =
      makePatchStart
        (sectioned s f { s.muFace f with sect := .gap, lastEnd := stamp }
          [patchEndItem (s.muFace f) stamp (segmentFlags (s.muFace f)) false])
        f stamp { synthStart := false, segment := true } := by
  unfold applyBoundary applySegment
  dsimp only
  rw [makePatchEnd_open _ _ hr, sectioned_muFace]
  exact if_neg (Bool.eq_false_iff.1 hf)

theorem applySegment_finishes (stamp : Int) (hr : (s.muFace f).finishRequest = true) :
    EndFinishes s f stamp (s.muFace f).edges (segmentFlags (s.muFace f)) (applyBoundary s f (.segment stamp)) := by
  have ends := makePatchEnd_finishes stamp (segmentFlags (s.muFace f)) hr
  have alone : applyBoundary s f (.segment stamp) = makePatchEnd s f stamp (segmentFlags (s.muFace f)) := by
    unfold applyBoundary applySegment
    exact if_pos ends.1
  rw [alone]
  exact ends

theorem applyBoundaries_next {n : Nat} {stamp : Int} {b : Boundary} (hf : (s.muFace f).finished = false)
    (hb : nextBoundary s f = some b) (hs : b.stamp ≤ stamp) :
    applyBoundaries (n + 1) s f stamp = applyBoundaries n (applyBoundary s f b) f stamp := by
  rw [applyBoundaries, if_neg (Bool.eq_false_iff.1 hf), hb]
  exact if_pos hs

/-- Settles O49: the next boundary, then each boundary by the patch end or patch start it makes. -/
theorem boundariesMade : Obligations.BoundariesMade := by
  intro f part s hp m withFace ends starts started finishes applies synthetic
  refine ⟨fun hm => ?_, fun hm hseg h0 => nextBoundary_continuous hp hm hseg h0, fun n stamp =>
    ⟨fun b hf hb hs => applyBoundaries_next hf hb hs, fun h => applyBoundaries_none h n⟩, fun e rest he => ?_, fun stamp => ?_,
    fun source hpending => ?_⟩
  · refine ⟨fun hw => ?_, fun hw he => ?_, fun e rest hw he => ?_⟩
    · exact nextBoundary_edge_only hp hm (syntheticStamp_wait part hw)
    · exact nextBoundary_synthetic_only hp hm he (syntheticStamp_patch part hw)
    · exact nextBoundary_earlier hp hm he (syntheticStamp_patch part hw)
  · refine ⟨applyEdge_redundant he, fun hr hs hn => ?_, fun hr hs hreq => ?_, fun hr hs hreq => ?_⟩
    · rw [applyEdge_start he hr hs, makePatchStart_plain_after _ _ _ _ hn]
      rfl
    · rw [applyEdge_end hp he hr hs, makePatchEnd_open _ _ (by rw [sectioned_muFace]; exact hreq), sectioned_sectioned,
        sectioned_muFace]
      rfl
    · show EndFinishes s f e.stamp rest (fallFlags m part e.stamp) (applyBoundary s f (.edge e))
      rw [applyEdge_end hp he hr hs]
      exact makePatchEnd_finishes_edge _ _ _ hreq
  · refine ⟨fun hs hreq => ?_, fun hs hn => ?_, fun hreq hf hn => ?_, fun hs hreq => ?_, applySegment_finishes stamp⟩
    · exact (applySynthetic_end stamp hs).trans (makePatchEnd_open _ _ hreq)
    · exact (applySynthetic_start stamp hs).trans (makePatchStart_plain _ _ hn)
    · rw [applySegment_both stamp hreq hf, makePatchStart_plain_after _ _ _ _ hn]
      rfl
    · show EndFinishes s f stamp m.edges (synthFlags m) (applyBoundary s f (.synthetic stamp))
      rw [applySynthetic_end stamp hs]
      exact makePatchEnd_finishes _ _ hreq
  · refine ⟨fun stamp hs => ?_, fun e rest he hr hs => ?_, fun stamp hreq hf => ?_⟩
    · show StartApplies s f source stamp m.edges _ [] (applyBoundary s f (.synthetic stamp))
      rw [applySynthetic_start stamp hs]
      exact makePatchStart_applies _ _ hpending
    · show StartApplies s f source e.stamp rest _ [] (applyBoundary s f (.edge e))
      rw [applyEdge_start he hr hs]
      exact makePatchStart_applies_after (m := { m with edges := rest }) _ _ _ hpending rfl
    · show StartApplies s f source stamp m.edges _ [_] (applyBoundary s f (.segment stamp))
      rw [applySegment_both stamp hreq hf]
      exact makePatchStart_applies_after (m := { m with sect := .gap, lastEnd := stamp }) _ _ _ hpending rfl

end Sys2Proof.Machine
end

section
/-! SUPPORT. What records, marks, tracks, spots, pairing, items and pages leave as it stood: the scan links, the recipe, the straps, and of
the Control Unit all but the fault capture and the limit event. One lemma for each operation, each citing those of the operations it is
made of. -/

namespace Sys2Proof.Machine

/-- From `s` to `t` the Link Unit, the Recipe Store, the straps and the Control Unit stand, but for the fault capture and the limit
event. -/
structure Aside (s t : State) : Prop where
  straps : t.straps = s.straps
  lu     : t.lu = s.lu
  rs     : t.rs = s.rs
  cu     : ∃ capture limit, t.cu = { s.cu with capture := capture, limitEvent := limit }

variable {s t : State}

theorem Aside.refl (s : State) : Aside s s := ⟨rfl, rfl, rfl, _, _, rfl⟩

theorem Aside.state (h : Aside s t) : t.cu.state = s.cu.state := by
  obtain ⟨capture, limit, e⟩ := h.cu
  rw [e]

theorem Aside.phase (h : Aside s t) : t.cu.phase = s.cu.phase := by
  obtain ⟨capture, limit, e⟩ := h.cu
  rw [e]

theorem Aside.capture (h : Aside s t) (x : Option FaultCapture) : Aside s (t.onCu fun c => { c with capture := x }) := by
  obtain ⟨capture, limit, e⟩ := h.cu
  exact { h with cu := ⟨x, limit, by rw [State.onCu_cu, e]⟩ }

theorem Aside.limit (h : Aside s t) (x : Bool) : Aside s (t.onCu fun c => { c with limitEvent := x }) := by
  obtain ⟨capture, limit, e⟩ := h.cu
  exact { h with cu := ⟨capture, x, by rw [State.onCu_cu, e]⟩ }

theorem foldl_aside {α : Type} (g : State → α → State) (hg : ∀ u x, Aside s u → Aside s (g u x)) (l : List α)
    (h : Aside s t) : Aside s (l.foldl g t) := by
  induction l generalizing t with
  | nil => exact h
  | cons x xs ih => exact ih (hg t x h)

theorem onMu_aside (h : Aside s t) (g : MotionUnit → MotionUnit) : Aside s (t.onMu g) := { h with }
theorem onMuFace_aside (h : Aside s t) (f : Face) (g : MuFace → MuFace) : Aside s (t.onMuFace f g) := { h with }
theorem onRxFace_aside (h : Aside s t) (f : Face) (g : RxFace → RxFace) : Aside s (t.onRxFace f g) := { h with }
theorem onTe_aside (h : Aside s t) (g : TrackEngine → TrackEngine) : Aside s (t.onTe g) := { h with }
theorem onTeFace_aside (h : Aside s t) (f : Face) (g : TeFace → TeFace) : Aside s (t.onTeFace f g) := { h with }
theorem onSmFace_aside (h : Aside s t) (f : Face) (g : SmFace → SmFace) : Aside s (t.onSmFace f g) := { h with }
theorem onPu_aside (h : Aside s t) (g : PairingUnit → PairingUnit) : Aside s (t.onPu g) := { h with }
theorem onPuFace_aside (h : Aside s t) (f : Face) (g : PuFace → PuFace) : Aside s (t.onPuFace f g) := { h with }
theorem onKu_aside (h : Aside s t) (g : MarkUnit → MarkUnit) : Aside s (t.onKu g) := { h with }
theorem onRu_aside (h : Aside s t) (g : RecordUnit → RecordUnit) : Aside s (t.onRu g) := { h with }
theorem onXu_aside (h : Aside s t) (g : ExchangeUnit → ExchangeUnit) : Aside s (t.onXu g) := { h with }
theorem emit_aside (h : Aside s t) (o : Output) : Aside s (t.emit o) := { h with }
theorem setTrack_aside (h : Aside s t) (f : Face) (i : Fin 24) (x : Option Track) : Aside s (t.setTrack f i x) := { h with }
theorem setSpot_aside (h : Aside s t) (f : Face) (i : Fin 64) (x : Option Spot) : Aside s (t.setSpot f i x) := { h with }

/-! ## Attention and marks -/

theorem raise_aside (h : Aside s t) (c : Cause) : Aside s (raise t c) := by
  rw [raise_eq]
  exact { h with }

theorem captureFault_aside (h : Aside s t) (code : FaultCode) : Aside s (captureFault t code) :=
  raise_aside (h.capture _) _

theorem layMark_aside (h : Aside s t) (o : MarkOut) (stop : Int) : Aside s (layMark t o stop) := by
  unfold layMark
  split <;> exact { h with }

theorem takeRequest_aside (h : Aside s t) (entry : MarkEntry) : Aside s (takeRequest t entry).1 := by
  unfold takeRequest
  split
  · exact { h with }
  · split
    · split
      · exact h
      · exact layMark_aside h _ _
    · exact { h with }
  · exact raise_aside (onKu_aside h _) _
  · exact raise_aside (onKu_aside h _) _
  · exact h

theorem markRequest_aside (h : Aside s t) (kind : PolicyEntry) (stamp : Int) (source : Word) :
    Aside s (markRequest t kind stamp source).1 := by
  unfold markRequest
  dsimp only
  split
  · exact h
  · split
    · split
      · exact h
      · exact takeRequest_aside h _
      · exact takeRequest_aside h _
    · exact h

theorem cutOutput_aside (h : Aside s t) (o : MarkOut) : Aside s (cutOutput t o) := by
  unfold cutOutput
  split <;> exact { h with }

theorem cutPulses_aside (h : Aside s t) : Aside s (cutPulses t) := cutOutput_aside (cutOutput_aside h _) _

theorem endPulse_aside (h : Aside s t) (o : MarkOut) : Aside s (endPulse t o) := by
  unfold endPulse
  split
  · split <;> exact { h with }
  all_goals exact h

theorem breakActivated_aside (h : Aside s t) : Aside s (breakActivated t) := by
  have cut := cutPulses_aside h
  unfold breakActivated
  dsimp only
  split
  · exact raise_aside h _
  · refine raise_aside ?_ _
    split <;> exact { cut with }

theorem autoResume_aside (h : Aside s t) : Aside s (autoResume t) := by
  unfold autoResume
  split
  · exact h
  · split <;> exact { h with }

/-! ## Records -/

theorem takeNumber_aside (h : Aside s t) : Aside s (takeNumber t).1 := by
  unfold takeNumber
  dsimp only
  split
  · dsimp only
    split
    · exact (onRu_aside h _).limit _
    · exact { h with }
  · exact h

theorem placeRecord_aside (h : Aside s t) (number : Option Nat) (mark : MarkState) (body : RecordBody) :
    Aside s (placeRecord t number mark body) := by
  unfold placeRecord
  split
  · exact { h with }
  · dsimp only
    split <;> exact { h with }

theorem countRecord_aside (h : Aside s t) (body : RecordBody) : Aside s (countRecord t body) := by
  unfold countRecord
  split
  case h_3 => exact captureFault_aside h _
  all_goals exact { h with }

theorem issue_aside (h : Aside s t) (body : RecordBody) : Aside s (issue t body) :=
  countRecord_aside (placeRecord_aside (takeNumber_aside h) _ _ _) _

theorem issueMissed_aside (h : Aside s t) (entry : MarkEntry) (reason : MissReason) :
    Aside s (issueMissed t entry reason) := by
  have key := issue_aside h (.markMissed entry.out entry.fire entry.source reason)
  exact { key with }

theorem settleMissed_aside (h : Aside s t) (answer : MarkAnswer) : Aside s (settleMissed t answer) := by
  unfold settleMissed
  split
  · exact h
  · exact issueMissed_aside h _ _

theorem sourceOf_aside (h : Aside s t) (number : Option Nat) : Aside s (sourceOf t number).1 := by
  cases number <;> exact { h with }

theorem issueMarked_aside (h : Aside s t) (body : RecordBody) (kind : PolicyEntry) (stamp : Int) :
    Aside s (issueMarked t body kind stamp).1 :=
  settleMissed_aside (countRecord_aside (placeRecord_aside (markRequest_aside (sourceOf_aside (takeNumber_aside h)
    _) _ _ _) _ _ _) _) _

theorem requestOnly_aside (h : Aside s t) (kind : PolicyEntry) (stamp : Int) (source : Word) :
    Aside s (requestOnly t kind stamp source) :=
  settleMissed_aside (markRequest_aside h _ _ _) _

theorem issueFault_aside (h : Aside s t) (code : FaultCode) (subject : FaultSubject) (first last : Int) (count : Nat) :
    Aside s (issueFault t code subject first last count) :=
  issue_aside h _

theorem issueTally_aside (h : Aside s t) (code : FaultCode) (f : Face) (tally : Tally) :
    Aside s (issueTally t code f tally) := by
  unfold issueTally
  split
  · exact h
  · exact issueFault_aside h _ _ _ _ _

theorem issueLoss_aside (h : Aside s t) (run : LossRun) : Aside s (issueLoss t run) := by
  have key := takeNumber_aside h
  unfold issueLoss
  rcases e : takeNumber t with ⟨t1, number⟩
  rw [e] at key
  cases number with
  | none => exact key
  | some n => exact raise_aside (onRu_aside key _) _

theorem lossRecords_aside (n : Nat) (h : Aside s t) : Aside s (lossRecords n t) := by
  induction n generalizing t with
  | zero => exact h
  | succ n ih =>
    unfold lossRecords
    split
    · split
      · exact ih (issueLoss_aside (onRu_aside h _) _)
      · split
        · exact h
        · exact issueLoss_aside (onRu_aside h _) _
    · exact h

theorem closeTally_aside (h : Aside s t) : Aside s (closeTally t) := by
  unfold closeTally
  split <;> exact { h with }

theorem closeLoss_aside (n : Nat) (h : Aside s t) : Aside s (closeLoss n t) := by
  induction n generalizing t with
  | zero => exact h
  | succ n ih =>
    unfold closeLoss
    split
    · exact ih (closeTally_aside (lossRecords_aside _ h))
    · exact h

theorem loseRecords_aside (h : Aside s t) (records : List Record) : Aside s (loseRecords t records) :=
  foldl_aside _ (fun _ _ hu => onRu_aside hu _) _ h

theorem abandonPage_aside (h : Aside s t) (records : List Record) : Aside s (abandonPage t records) := by
  have key : Aside s (testLoss (loseRecords t records)) := closeLoss_aside 9 (loseRecords_aside h records)
  unfold abandonPage
  dsimp only
  split
  · exact captureFault_aside key _
  · exact issueFault_aside key _ _ _ _ _

theorem takeMark_aside (h : Aside s t) (entry : MarkEntry) : Aside s (takeMark t entry) := by
  unfold takeMark
  split
  · exact issueMissed_aside h _ _
  · exact layMark_aside h _ _

theorem advanceMarks_aside (h : Aside s t) : Aside s (advanceMarks t) :=
  endPulse_aside (endPulse_aside (foldl_aside _ (fun _ _ hu => takeMark_aside hu _) _ (onKu_aside h _)) _) _

/-! ## Samples, stock and pages -/

theorem startSample_aside (h : Aside s t) : Aside s (startSample t) := by
  unfold startSample
  split
  · exact h
  · split <;> exact { h with }

theorem endSample_aside (h : Aside s t) : Aside s (endSample t) := by
  unfold endSample
  dsimp only
  split
  · exact startSample_aside (onXu_aside h _)
  · exact { h with }

theorem skipInvalid_aside (n : Nat) (h : Aside s t) : Aside s (skipInvalid n t) := by
  induction n generalizing t with
  | zero => exact h
  | succ n ih =>
    unfold skipInvalid
    split
    · exact h
    · exact ih (captureFault_aside (onXu_aside h _) _)

theorem stockEmpty_aside (h : Aside s t) : Aside s (stockEmpty t) := by
  unfold stockEmpty
  split
  · exact h
  · exact raise_aside (onXu_aside h _) _

theorem beginPost_aside (h : Aside s t) (reason : PostReason) : Aside s (beginPost t reason) := by
  unfold beginPost
  split
  · exact h
  · split <;> exact { h with }

theorem drainInto_aside (h : Aside s t) (page : Page) (rec : Record) (rest : List Record) :
    Aside s (drainInto t page rec rest) := by
  have key : Aside s (testLoss (writeRecord t page rec rest)) := closeLoss_aside 9 (emit_aside (onXu_aside (onRu_aside h _) _) _)
  unfold drainInto postWhenFull
  split
  · split
    · exact key
    · split
      · exact beginPost_aside key _
      · exact key
  · exact beginPost_aside h _

/-! ## Skip stretches, samples of the mark and splice inputs -/

theorem closeSkip_aside (h : Aside s t) (f : Face) : Aside s (closeSkip t f) :=
  issueTally_aside (onMuFace_aside h _ _) _ _ _

theorem finishFace_aside (h : Aside s t) (f : Face) : Aside s (finishFace t f) :=
  closeSkip_aside (onMu_aside (onMuFace_aside h _ _) _) _

theorem sampleMark_aside (h : Aside s t) (sp : SharedPart) (f : Face) : Aside s (sampleMark t sp f) := by
  unfold sampleMark
  dsimp only
  split
  · exact h
  · split <;> exact { h with }

theorem acceptSplice_aside (h : Aside s t) (sp : SharedPart) (z : Int) : Aside s (acceptSplice t sp z) := by
  unfold acceptSplice
  dsimp only
  split
  · split
    · exact issue_aside (onMu_aside h _) _
    · exact { h with }
  · exact issueFault_aside h _ _ _ _ _

theorem sampleSplice_aside (h : Aside s t) (sp : SharedPart) : Aside s (sampleSplice t sp) := by
  unfold sampleSplice
  dsimp only
  split
  · exact h
  · split
    · exact { h with }
    · split
      · exact acceptSplice_aside (onMu_aside (onMu_aside h _) _) _ _
      · exact { h with }

/-! ## Tracks -/

theorem repeatMark_aside (h : Aside s t) (f : Face) (i : Fin 24) (x : Track) (stamp : Int) :
    Aside s (repeatMark t f i x stamp) := by
  unfold repeatMark
  split
  · exact h
  · split
    · exact h
    · split
      · exact h
      · exact setTrack_aside (requestOnly_aside h _ _ _) _ _ _

theorem countOne_aside (h : Aside s t) (part : FacePart) (f : Face) (item : LineItem) (claims : List Claimed)
    (x : Fin 24 × Track) : Aside s (countOne part f item claims t x) := by
  unfold countOne
  dsimp only
  split
  · exact repeatMark_aside (setTrack_aside h _ _ _) _ _ _ _
  · exact setTrack_aside h _ _ _

theorem failTrack_aside (h : Aside s t) (f : Face) (i : Fin 24) (x : Track) (cut : Bool) :
    Aside s (failTrack t f i x cut) :=
  onTeFace_aside (setTrack_aside (issueMarked_aside h _ _ _) _ _ _) _ _

theorem openStreak_aside (h : Aside s t) (f : Face) (i : Fin 24) (x : Track) (stamp : Int) :
    Aside s (openStreak t f i x stamp) := by
  unfold openStreak
  exact onTeFace_aside (raise_aside (setTrack_aside (issueMarked_aside (onTe_aside h _) _ _ _) _ _ _) _) _ _

theorem confirmTrack_aside (h : Aside s t) (f : Face) (i : Fin 24) (x : Track) (stamp : Int) :
    Aside s (confirmTrack t f i x stamp) := by
  unfold confirmTrack
  split
  · exact failTrack_aside h _ _ _ _
  · exact openStreak_aside h _ _ _ _

theorem closeTrack_aside (h : Aside s t) (f : Face) (i : Fin 24) (x : Track) (reason : CloseReason) (survivor : Nat) :
    Aside s (closeTrack t f i x reason survivor) :=
  onTeFace_aside (setTrack_aside (issue_aside h _) _ _ _) _ _

theorem changeOne_aside (h : Aside s t) (part : FacePart) (f : Face) (desc : LineDesc) (i : Fin 24) :
    Aside s (changeOne part f desc t i) := by
  unfold changeOne
  dsimp only
  split
  · exact h
  · split
    · split
      · exact confirmTrack_aside h _ _ _ _
      · split
        · exact failTrack_aside h _ _ _ _
        · exact h
    · split
      · exact setTrack_aside h _ _ _
      · exact h
    · split
      · exact closeTrack_aside h _ _ _ _ _
      · exact h

theorem settleSurvivor_aside (h : Aside s t) (f : Face) (i : Fin 24) (x : Track) (lane : Lane) (stamp : Int) :
    Aside s (settleSurvivor t f i x lane stamp) := by
  unfold settleSurvivor
  split
  · split
    · exact confirmTrack_aside h _ _ _ _
    · exact setTrack_aside h _ _ _
  · exact setTrack_aside h _ _ _
  · split
    · exact setTrack_aside h _ _ _
    · exact setTrack_aside h _ _ _

theorem mergeOne_aside (h : Aside s t) (part : FacePart) (f : Face) (stamp : Int) (i j : Fin 24) :
    Aside s (mergeOne part f stamp i t j) := by
  unfold mergeOne
  split
  · dsimp only
    split
    · unfold freeYounger
      split
      · exact setTrack_aside (settleSurvivor_aside h _ _ _ _ _) _ _ _
      · exact closeTrack_aside (settleSurvivor_aside h _ _ _ _ _) _ _ _ _ _
      · exact closeTrack_aside (settleSurvivor_aside h _ _ _ _ _) _ _ _ _ _
    · exact h
  all_goals exact h

theorem mergeAged_aside (part : FacePart) (f : Face) (stamp : Int) (l : List (Fin 24)) (h : Aside s t) :
    Aside s (mergeAged part f stamp l t) := by
  induction l generalizing t with
  | nil => exact h
  | cons i rest ih => exact ih (foldl_aside _ (fun _ _ hu => mergeOne_aside hu _ _ _ _ _) _ h)

theorem mergeLane_aside (h : Aside s t) (part : FacePart) (f : Face) (stamp : Int) (lane : Nat) :
    Aside s (mergeLane part f stamp t lane) :=
  mergeAged_aside _ _ _ _ h

theorem trackLine_aside (h : Aside s t) (f : Face) (part : FacePart) (item : LineItem) :
    Aside s (trackLine t f part item).1 :=
  foldl_aside _ (fun _ _ hu => mergeLane_aside hu _ _ _ _) _
    (foldl_aside _ (fun _ _ hu => changeOne_aside hu _ _ _ _) _
      (foldl_aside _ (fun _ _ hu => countOne_aside hu _ _ _ _ _) _ h))

theorem takeHandover_aside (h : Aside s t) (f : Face) (part : FacePart) (desc : LineDesc) (q : Request) :
    Aside s (takeHandover t f part desc q).1 := by
  unfold takeHandover
  split
  · exact { h with }
  · refine mergeLane_aside ?_ _ _ _ _
    split
    · exact confirmTrack_aside (setTrack_aside h _ _ _) _ _ _ _
    · exact setTrack_aside h _ _ _

theorem cutTracks_aside (h : Aside s t) (f : Face) (reason : CloseReason) : Aside s (cutTracks t f reason) :=
  foldl_aside _ (fun _ _ hu => by
    unfold cutOne
    split
    · exact failTrack_aside hu _ _ _ _
    · exact closeTrack_aside hu _ _ _ _ _
    · exact closeTrack_aside hu _ _ _ _ _) _ h

theorem trackPatchEnd_aside (h : Aside s t) (f : Face) (part : FacePart) : Aside s (trackPatchEnd t f part) := by
  unfold trackPatchEnd
  split
  · exact cutTracks_aside h _ _
  · exact h

theorem trackPatchStart_aside (h : Aside s t) (f : Face) (item : PatchStart) : Aside s (trackPatchStart t f item) := by
  have cut := cutTracks_aside h f .recipe
  unfold trackPatchStart
  dsimp only
  split
  · exact { cut with }
  · exact { h with }

/-! ## Pairing -/

theorem discardLogs_aside (h : Aside s t) : Aside s (discardLogs t) := { h with }

theorem issueSingle_aside (h : Aside s t) (result : PinholeResult) (c : Closure) :
    Aside s (issueSingle result t c) :=
  onPu_aside (issueMarked_aside h _ _ _) _

theorem issueThrough_aside (h : Aside s t) (a b : Closure) : Aside s (issueThrough t a b) := by
  unfold issueThrough
  exact raise_aside (onPu_aside (issueMarked_aside h _ _ _) _) _

theorem resolvePassed_aside (h : Aside s t) (g : Face) : Aside s (resolvePassed t g) := by
  unfold resolvePassed
  exact foldl_aside _ (fun _ _ hu => issueSingle_aside hu _ _) _ (onPu_aside h _)

theorem insertClosure_aside (h : Aside s t) (e : PairEntry) : Aside s (insertClosure t e) := by
  unfold insertClosure
  split
  · exact onPu_aside h _
  · split
    · exact onPu_aside h _
    · exact discardLogs_aside (onPu_aside (issueSingle_aside (onPu_aside h _) _ _) _)

theorem placeClosure_aside (h : Aside s t) (c : Closure) : Aside s (placeClosure t c) := by
  unfold placeClosure
  dsimp only
  split
  · exact issueSingle_aside h _ _
  · split
    · exact issueSingle_aside h _ _
    · exact insertClosure_aside h _

theorem takeClosure_aside (h : Aside s t) (closure : Closure) : Aside s (takeClosure t closure) := by
  unfold takeClosure
  dsimp only
  split
  · split
    · exact discardLogs_aside (issueThrough_aside (onPu_aside h _) _ _)
    · exact placeClosure_aside h _
  · exact issueSingle_aside h _ _

theorem settleProgress_aside (h : Aside s t) (f : Face) : Aside s (settleProgress t f) :=
  discardLogs_aside (resolvePassed_aside h f)

theorem lineProgress_aside (h : Aside s t) (f : Face) (item : LineItem) (horizon : Option Int) :
    Aside s (lineProgress t f item horizon) := by
  unfold lineProgress
  exact settleProgress_aside (onPuFace_aside h _ _) _

theorem eventProgress_aside (h : Aside s t) (f : Face) : Aside s (eventProgress t f) :=
  settleProgress_aside (onPuFace_aside h _ _) _

theorem unresolvedPairing_aside (h : Aside s t) : Aside s (unresolvedPairing t) := by
  unfold unresolvedPairing
  exact foldl_aside _ (fun _ _ hu => issueSingle_aside hu _ _) _ (onPu_aside h _)

/-! ## Spots -/

theorem closeSpot_aside (part : FacePart) (f : Face) (c : Closing) (x : Fin 64 × Spot) (h : Aside s c.state) :
    Aside s (closeSpot part f c x).state := by
  unfold closeSpot
  split
  · exact setSpot_aside (onSmFace_aside h _ _) _ _ _
  · exact setSpot_aside (onSmFace_aside h _ _) _ _ _
  · exact setSpot_aside (onSmFace_aside (issueMarked_aside h _ _ _) _ _) _ _ _
  · exact setSpot_aside (onSmFace_aside (issueMarked_aside h _ _ _) _ _) _ _ _

theorem foldl_closeSpot_aside (part : FacePart) (f : Face) (l : List (Fin 64 × Spot)) (c : Closing)
    (h : Aside s c.state) : Aside s (l.foldl (closeSpot part f) c).state := by
  induction l generalizing c with
  | nil => exact h
  | cons x rest ih => exact ih _ (closeSpot_aside _ _ _ _ h)

theorem quietStep_aside (h : Aside s t) (f : Face) (part : FacePart) (item : LineItem) :
    Aside s (quietStep t f part item).state := by
  unfold quietStep
  dsimp only
  split
  · exact h
  · exact foldl_closeSpot_aside _ _ _ _ (onSmFace_aside h _ _)

theorem offerSpot_aside (h : Aside s t) (part : FacePart) (f : Face) (desc : LineDesc) (x : Fin 64 × Spot) :
    Aside s (offerSpot part f desc t x) := by
  have key := takeHandover_aside h f part desc (requestFor x.2)
  unfold offerSpot
  split
  · next e =>
    rw [e] at key
    exact setSpot_aside key _ _ _
  · next e =>
    rw [e] at key
    exact setSpot_aside key _ _ _

theorem deliver_aside (c : Closing) (h : Aside s c.state) : Aside s (deliver c) :=
  foldl_aside _ (fun _ _ hu => takeClosure_aside hu _) _ h

theorem cutAndDeliver_aside (h : Aside s t) (f : Face) : Aside s (cutAndDeliver t f) :=
  deliver_aside _ (foldl_closeSpot_aside _ _ _ _ (onSmFace_aside h _ _))

/-! ## Items -/

theorem processLine_aside (h : Aside s t) (f : Face) (part : FacePart) (item : LineItem) :
    Aside s (processLine t f part item) := by
  have key := trackLine_aside h f part item
  unfold processLine
  rcases e : trackLine t f part item with ⟨t1, unclaimed⟩
  rw [e] at key
  have quiet := quietStep_aside (onSmFace_aside (onTeFace_aside key f fun e => { e with lastPart := some part }) f
    fun m => unclaimed.foldl (offerRun part item.desc) m) f part item
  exact lineProgress_aside (deliver_aside _ (foldl_aside _ (fun _ _ hu => offerSpot_aside hu _ _ _ _) _ quiet)) _ _ _

theorem processSplice_aside (h : Aside s t) (f : Face) : Aside s (processSplice t f) :=
  eventProgress_aside (cutAndDeliver_aside (cutTracks_aside h _ _) _) _

theorem processPatchStart_aside (h : Aside s t) (f : Face) (item : PatchStart) :
    Aside s (processPatchStart t f item) := by
  have key := eventProgress_aside (cutAndDeliver_aside (trackPatchStart_aside h f item) f) f
  unfold processPatchStart
  cases f with
  | upper => exact autoResume_aside key
  | lower => exact key

theorem clearPatchCounts_aside (h : Aside s t) (f : Face) : Aside s (clearPatchCounts t f) := { h with }

theorem reportJumps_aside (h : Aside s t) : Aside s (reportJumps t) :=
  issueTally_aside (onMu_aside h _) _ _ _

theorem reportOverflow_aside (h : Aside s t) (f : Face) : Aside s (reportOverflow t f) :=
  issueTally_aside (onMuFace_aside h _ _) _ _ _

theorem reportSpotFull_aside (h : Aside s t) (f : Face) : Aside s (reportSpotFull t f) :=
  issueTally_aside (onSmFace_aside h _ _) _ _ _

theorem reportTrackFull_aside (h : Aside s t) (f : Face) : Aside s (reportTrackFull t f) :=
  issueTally_aside (onTeFace_aside h _ _) _ _ _

theorem reportMotion_aside (h : Aside s t) (f : Face) : Aside s (reportMotion t f) := by
  cases f with
  | upper => exact reportOverflow_aside (reportJumps_aside h) _
  | lower => exact reportOverflow_aside h _

theorem reportPatch_aside (h : Aside s t) (f : Face) (item : PatchEnd) (runFull : Tally) :
    Aside s (reportPatch t f item runFull) := by
  unfold reportPatch
  exact reportTrackFull_aside (reportSpotFull_aside (issueTally_aside (reportMotion_aside (onMuFace_aside
    (clearPatchCounts_aside (issue_aside h _) _) _ _) _) _ _ _) _) _

theorem processPatchEnd_aside (h : Aside s t) (f : Face) (item : PatchEnd) (runFull : Tally) (part : FacePart) :
    Aside s (processPatchEnd t f item runFull part) := by
  have key := reportPatch_aside (eventProgress_aside (cutAndDeliver_aside (trackPatchEnd_aside h f part) f) f) f item
    runFull
  unfold processPatchEnd
  dsimp only
  split
  · exact startSample_aside key
  · exact key

/-! ## The status block write, pages and reads -/

theorem OnlyExchange.aside (h : OnlyExchange s t) : Aside s t := by
  obtain ⟨xu, out, rfl, _⟩ := h
  exact { Aside.refl s with }

theorem Aside.trans {u : State} (h : Aside s t) (k : Aside t u) : Aside s u := by
  obtain ⟨c, l, e⟩ := h.cu
  obtain ⟨c', l', e'⟩ := k.cu
  exact ⟨k.straps.trans h.straps, k.lu.trans h.lu, k.rs.trans h.rs, c', l', by rw [e', e]⟩

theorem wantStatus_aside (h : Aside s t) (owed : Owed) : Aside s (wantStatus t owed) :=
  h.trans (wantStatus_exchange t owed).aside

theorem endStatus_aside (h : Aside s t) : Aside s (endStatus t) := by
  unfold endStatus
  split
  · exact h
  · next w _ =>
    have paid := Aside.trans (onXu_aside h fun x => { x with statusWrite := none, statusWanted := none })
      (payOwed_exchange _ w.owed).aside
    dsimp only
    split
    · exact paid
    · unfold beginStatus
      split
      · exact paid.trans (payOwed_exchange _ _).aside
      · exact paid.trans (writeStatus_exchange _ _).aside

theorem failStatus_aside (h : Aside s t) : Aside s (failStatus t) := by
  unfold failStatus
  split
  · exact h
  · exact endStatus_aside (captureFault_aside (onXu_aside h _) _)

theorem clearFlags_aside (h : Aside s t) (mask : Byte) : Aside s (clearFlags t mask) := by
  have cleared : Aside s (t.onXu fun x =>
      { x with flags := t.xu.flags &&& ~~~mask, outstanding := highestLevel (t.xu.flags &&& ~~~mask) t.xu.levels }) :=
    onXu_aside h _
  unfold clearFlags sendMessage
  dsimp only
  split
  · split
    · exact emit_aside cleared _
    · exact cleared
  · exact cleared

theorem takeFromStock_aside (h : Aside s t) : Aside s (takeFromStock t) := by
  have key := skipInvalid_aside (Config.listEntries + 1) h
  unfold takeFromStock
  dsimp only
  split
  · exact stockEmpty_aside key
  · unfold takePage
    exact onXu_aside key _

theorem completeSample_aside (h : Aside s t) (generation count written : Word) :
    Aside s (completeSample t generation count written) := by
  have copied : Aside s (if copyWanted t generation then startCopy t generation count else t) := by
    split
    · exact emit_aside (onXu_aside h _) _
    · exact h
  unfold completeSample
  dsimp only
  split
  · refine endSample_aside ?_
    split
    · exact emit_aside (onXu_aside copied _) _
    · exact copied
  · exact h

theorem completeReread_aside (h : Aside s t) (bytes : StockBytes) : Aside s (completeReread t bytes) := by
  unfold completeReread
  split
  · exact h
  · dsimp only
    split
    · exact { h with }
    · split
      · exact { h with }
      · exact captureFault_aside (onXu_aside (onXu_aside h _) _) _

theorem pollTick_aside (h : Aside s t) : Aside s (pollTick t) := by
  have sampled := startSample_aside (onXu_aside h fun x => { x with pollCount := 0, pollDue := false })
  unfold pollTick
  dsimp only
  split
  · split
    · exact wantStatus_aside sampled _
    · exact sampled
  · exact h

theorem markChanged_aside (h : Aside s t) (before : State) : Aside s (markChanged before t) := by
  unfold markChanged
  split <;> exact { h with }

/-! ## Close-out steps 1 to 6 (R164) -/

theorem reportTallies_aside (h : Aside s t) (f : Face) : Aside s (reportTallies t f) :=
  reportTrackFull_aside (reportSpotFull_aside (issueTally_aside (onRxFace_aside (reportOverflow_aside h _) _ _) _ _ _) _) _

theorem closeoutSteps_aside (h : Aside s t) : Aside s (closeoutSteps t) := by
  have spots : Aside s (closeAllSpots t) := cutAndDeliver_aside (cutAndDeliver_aside h _) _
  have tracks : Aside s (closeAllTracks (closeAllSpots t)) :=
    clearPatchCounts_aside (clearPatchCounts_aside (cutTracks_aside (cutTracks_aside spots _ _) _ _) _) _
  have marks : Aside s (missAllMarks (unresolvedPairing (closeAllTracks (closeAllSpots t)))) :=
    foldl_aside _ (fun _ _ hu => issueMissed_aside hu _ _) _ (onKu_aside (unresolvedPairing_aside tracks) _)
  unfold closeoutSteps issueRollEnd
  exact onRu_aside (issue_aside (reportTallies_aside (reportTallies_aside (reportJumps_aside marks) _) _) _) _

theorem finishPairing_aside (h : Aside s t) (f : Face) : Aside s (finishPairing t f) := by
  unfold finishPairing
  exact discardLogs_aside (foldl_aside _ (fun _ _ hu => issueSingle_aside hu _ _) _ (onPu_aside (onPuFace_aside h _ _) _))

/-! ## The clock -/

theorem countPoll_aside (h : Aside s t) : Aside s (countPoll t) := by
  rw [countPoll_eq]
  exact { h with }

theorem countStall_aside (h : Aside s t) : Aside s (countStall t) := by
  rw [countStall_eq]
  exact { h with }

end Sys2Proof.Machine
end

section
/-! SUPPORT. What giving a head up, judging it and freeing its buffers do to the heads and to the unassembled lines, and what they leave
alone. -/

namespace Sys2Proof.Machine

variable {s t u : State} {f : Face} {p q : Port}

/-! ## Items of a stream in which heads are given up (R30, R34) -/

/-- The second item is the first, but that the heads given up in an unassembled line may differ. -/
inductive SameItem : StreamItem → StreamItem → Prop where
  | same (item : StreamItem) : SameItem item item
  | opened (line : OpenLine) (givenUp : List Port) : SameItem (.opened line) (.opened { line with givenUp := givenUp })

theorem SameItem.trans {a b c : StreamItem} (h : SameItem a b) (k : SameItem b c) : SameItem a c := by
  cases h with
  | same => exact k
  | opened line givenUp =>
    cases k with
    | same => exact .opened line givenUp
    | opened _ givenUp' => exact .opened line givenUp'

theorem giveUpIn_sameItem (p : Port) (numbers : List Nat) (item : StreamItem) : SameItem item (giveUpIn p numbers item) := by
  cases item with
  | opened line =>
    unfold giveUpIn
    dsimp only
    split
    · exact .opened line _
    · exact .same _
  | _ => exact .same _

/-- Two streams with the same items in the same places, but for the heads given up. -/
abbrev SameStream : List StreamItem → List StreamItem → Prop := List.Forall₂ SameItem

theorem SameStream.refl (xs : List StreamItem) : SameStream xs xs := List.forall₂_same.2 fun x _ => .same x

theorem SameStream.trans {xs ys zs : List StreamItem} (h : SameStream xs ys) (k : SameStream ys zs) : SameStream xs zs := by
  induction h generalizing zs with
  | nil => exact k
  | cons first _ ih =>
    cases k with
    | cons first' rest' => exact .cons (first.trans first') (ih rest')

/-- The line, but for the heads given up in it. -/
def SameLine (a b : OpenLine) : Prop := b = { a with givenUp := b.givenUp }

theorem SameStream.openLines {xs ys : List StreamItem} (h : SameStream xs ys) :
    List.Forall₂ SameLine (openLines xs) (openLines ys) := by
  induction h with
  | nil => exact .nil
  | @cons x y _ _ first _ ih =>
    cases first with
    | opened line givenUp => exact .cons rfl ih
    | same =>
      cases x with
      | opened line => exact .cons rfl ih
      | _ => exact ih

theorem SameStream.eq_of_closed {xs ys : List StreamItem} (h : SameStream xs ys) (hn : Machine.openLines xs = []) :
    ys = xs := by
  induction h with
  | nil => rfl
  | @cons x y _ _ first _ ih =>
    cases first with
    | opened line givenUp => cases hn
    | same =>
      cases x with
      | opened line => cases hn
      | _ => rw [ih hn]

/-! ## What judging heads leaves alone -/

/-- Between `s` and `t` heads have changed, heads may have been given up in unassembled lines, and records may have been issued. -/
structure OnlyHeads (s t : State) : Prop where
  straps  : t.straps = s.straps
  mu      : t.mu = s.mu
  rx      : t.rx = s.rx
  defects : SameDefects s t
  rs      : t.rs = s.rs
  cu      : ∃ capture limit, t.cu = { s.cu with capture := capture, limitEvent := limit }
  faces   : ∀ g, (t.luFace g).assembled = (s.luFace g).assembled ∧ (t.luFace g).lastTriggered = (s.luFace g).lastTriggered
  streams : ∀ g, SameStream (s.luFace g).stream (t.luFace g).stream

theorem OnlyHeads.refl (s : State) : OnlyHeads s s :=
  ⟨rfl, rfl, rfl, ⟨rfl, rfl, rfl⟩, rfl, ⟨_, _, rfl⟩, fun _ => ⟨rfl, rfl⟩, fun _ => .refl _⟩

theorem OnlyHeads.trans (h : OnlyHeads s t) (k : OnlyHeads t u) : OnlyHeads s u := by
  obtain ⟨te, sm, pu⟩ := h.defects
  obtain ⟨te', sm', pu'⟩ := k.defects
  obtain ⟨c, l, e⟩ := h.cu
  obtain ⟨c', l', e'⟩ := k.cu
  exact ⟨k.straps.trans h.straps, k.mu.trans h.mu, k.rx.trans h.rx, ⟨te'.trans te, sm'.trans sm, pu'.trans pu⟩,
    k.rs.trans h.rs, ⟨c', l', by rw [e', e]⟩,
    fun g => ⟨(k.faces g).1.trans (h.faces g).1, (k.faces g).2.trans (h.faces g).2⟩,
    fun g => (h.streams g).trans (k.streams g)⟩

theorem foldl_onlyHeads {α : Type} (g : State → α → State) (hg : ∀ u x, OnlyHeads u (g u x)) (l : List α) (s : State) :
    OnlyHeads s (l.foldl g s) := by
  induction l generalizing s with
  | nil => exact .refl s
  | cons x rest ih => exact (hg s x).trans (ih _)

theorem OnlyHeads.shared (h : OnlyHeads s t) : t.shared = s.shared := by
  unfold State.shared
  rw [h.rs]

theorem OnlyHeads.headTable (h : OnlyHeads s t) : t.headTable = s.headTable := by
  unfold State.headTable
  rw [h.shared]

theorem OnlyHeads.entry (h : OnlyHeads s t) (p : Port) : t.entry p = s.entry p := by
  unfold State.entry
  rw [h.shared, h.straps]

theorem OnlyHeads.headFace (h : OnlyHeads s t) (p : Port) : headFace t p = headFace s p := by
  unfold Machine.headFace
  rw [h.entry]

theorem OnlyHeads.inspecting (h : OnlyHeads s t) : t.inspecting = s.inspecting := by
  obtain ⟨c, l, e⟩ := h.cu
  unfold State.inspecting
  rw [e]

theorem onHead_onlyHeads (s : State) (p : Port) (g : Head → Head) : OnlyHeads s (s.onHead p g) :=
  { OnlyHeads.refl s with }

theorem giveUp_onlyHeads (s : State) (p : Port) (numbers : List Nat) : OnlyHeads s (giveUp s p numbers) := by
  refine { OnlyHeads.refl s with faces := fun g => ?_, streams := fun g => ?_ }
  · unfold giveUp
    rw [luFace_onLuFace]
    split
    · next e => rw [e]; exact ⟨rfl, rfl⟩
    · exact ⟨rfl, rfl⟩
  · unfold giveUp
    rw [luFace_onLuFace]
    split
    · next e =>
      rw [e]
      exact List.forall₂_map_right_iff.2 (List.forall₂_same.2 fun item _ => giveUpIn_sameItem p numbers item)
    · exact .refl _

theorem leaveLive_onlyHeads (s : State) (p : Port) : OnlyHeads s (leaveLive s p) := by
  unfold leaveLive
  split
  · exact (onHead_onlyHeads s p _).trans (giveUp_onlyHeads _ p _)
  · exact .refl s

theorem issueFault_onlyHeads (s : State) (code : FaultCode) (subject : FaultSubject) (first last : Int) (count : Nat) :
    OnlyHeads s (issueFault s code subject first last count) := by
  obtain ⟨_, straps, _, ⟨mu, lu, rx⟩, defects, rs⟩ := issueFault_reporting s code subject first last count
  have face : ∀ g, (issueFault s code subject first last count).luFace g = s.luFace g := fun g => by
    unfold State.luFace
    rw [lu]
  exact ⟨straps, mu, rx, defects, rs, (issueFault_aside (Aside.refl s) code subject first last count).cu,
    fun g => by rw [face]; exact ⟨rfl, rfl⟩, fun g => by rw [face]; exact .refl _⟩

theorem failHead_onlyHeads (s : State) (p : Port) (desc : LineDesc) (limit : Nat) : OnlyHeads s (failHead s p desc limit) := by
  unfold failHead
  dsimp only
  split
  · exact ((leaveLive_onlyHeads s p).trans (onHead_onlyHeads _ p _)).trans (issueFault_onlyHeads _ _ _ _ _ _)
  · exact (leaveLive_onlyHeads s p).trans (onHead_onlyHeads _ p _)

theorem countMiss_onlyHeads (s : State) (p : Port) (desc : LineDesc) : OnlyHeads s (countMiss s p desc) := by
  unfold countMiss
  dsimp only
  split
  · exact onHead_onlyHeads s p _
  · split
    · exact (onHead_onlyHeads s p _).trans (failHead_onlyHeads _ _ _ _)
    · exact onHead_onlyHeads s p _

theorem judgeHead_onlyHeads (desc : LineDesc) (s : State) (p : Port) : OnlyHeads s (judgeHead desc s p) := by
  unfold judgeHead
  dsimp only
  split
  · exact onHead_onlyHeads s p _
  · split
    · exact (onHead_onlyHeads s p _).trans (countMiss_onlyHeads _ _ _)
    · exact onHead_onlyHeads s p _

theorem freeBuffers_onlyHeads (number : Nat) (s : State) (p : Port) : OnlyHeads s (freeBuffers number s p) :=
  onHead_onlyHeads s p _

/-- The line has taken its place in the stream and is counted; no head has been judged yet (R35). -/
def lineBuilt (s : State) (f : Face) (line : OpenLine) : State :=
  s.onLuFace f fun l =>
    { l with stream := replaceOldest (buildLine s f line.desc) l.stream, assembled := l.assembled + 1 }

/-- R35, R36: after the line has been built the heads of its expected set are judged, and their buffers freed. -/
theorem assembleLine_eq (s : State) (f : Face) (line : OpenLine) :
    assembleLine s f line =
      line.expected.foldl (freeBuffers line.desc.number) (line.expected.foldl (judgeHead line.desc) (lineBuilt s f line)) :=
  rfl

theorem assembleLine_onlyHeads (s : State) (f : Face) (line : OpenLine) :
    OnlyHeads (lineBuilt s f line) (assembleLine s f line) :=
  (foldl_onlyHeads _ (judgeHead_onlyHeads line.desc) _ _).trans
    (foldl_onlyHeads _ (freeBuffers_onlyHeads line.desc.number) _ _)

theorem lineBuilt_luFace (s : State) (f g : Face) (line : OpenLine) :
    (lineBuilt s f line).luFace g =
      if g = f then
        { s.luFace f with
          stream := replaceOldest (buildLine s f line.desc) (s.luFace f).stream
          assembled := (s.luFace f).assembled + 1 }
      else s.luFace g := luFace_onLuFace s f g _

theorem openLines_replaceOldest_tail (line : FaceLine) (stream : List StreamItem) :
    openLines (replaceOldest line stream) = (openLines stream).tail := by
  induction stream with
  | nil => rfl
  | cons item rest ih =>
    cases item with
    | opened x => rfl
    | _ => exact ih

theorem replaceOldest_split (line : FaceLine) (x : OpenLine) {before : List StreamItem} (after : List StreamItem)
    (hb : openLines before = []) : replaceOldest line (before ++ .opened x :: after) = before ++ .line line :: after := by
  induction before with
  | nil => rfl
  | cons item rest ih =>
    cases item with
    | opened y => cases hb
    | _ => exact congrArg (List.cons _) (ih hb)

end Sys2Proof.Machine
end

section
/-! SUPPORT. The heads an unassembled line waits for: an operation waits for no head that was not waited for before, but for the trigger
of a line, and entry to CLOSING leaves no line unassembled. -/

namespace Sys2Proof.Machine

variable {s t u : State} {f : Face}

/-- Every line that stands unassembled in `t` waits for the heads of one that stood so in `s`, under the same head table, and the
inspection state and close-out's phase mean the same for it. -/
structure LinesFrom (s t : State) : Prop where
  straps     : t.straps = s.straps
  shared     : t.rs.shared = s.rs.shared
  inspecting : t.inspecting = s.inspecting
  phase      : t.cu.phase = s.cu.phase
  lines      : ∀ f, ∀ line ∈ openLines (t.luFace f).stream, ∃ old ∈ openLines (s.luFace f).stream, line.expected = old.expected

theorem LinesFrom.refl (s : State) : LinesFrom s s := ⟨rfl, rfl, rfl, rfl, fun _ line h => ⟨line, h, rfl⟩⟩

theorem LinesFrom.trans (h : LinesFrom s t) (k : LinesFrom t u) : LinesFrom s u where
  straps := k.straps.trans h.straps
  shared := k.shared.trans h.shared
  inspecting := k.inspecting.trans h.inspecting
  phase := k.phase.trans h.phase
  lines f line hline := by
    obtain ⟨mid, hmid, e⟩ := k.lines f line hline
    obtain ⟨old, hold, e'⟩ := h.lines f mid hmid
    exact ⟨old, hold, e.trans e'⟩

theorem foldl_linesFrom {α : Type} (g : State → α → State) (hg : ∀ u x, LinesFrom u (g u x)) (l : List α) (s : State) :
    LinesFrom s (l.foldl g s) := by
  induction l generalizing s with
  | nil => exact .refl s
  | cons x rest ih => exact (hg s x).trans (ih _)

theorem inspecting_congr (h : t.cu.state = s.cu.state) : t.inspecting = s.inspecting := by
  unfold State.inspecting
  rw [h]

theorem Aside.linesFrom (h : Aside s t) : LinesFrom s t where
  straps := h.straps
  shared := by rw [h.rs]
  inspecting := inspecting_congr h.state
  phase := h.phase
  lines f line hline := by
    unfold State.luFace at hline
    rw [h.lu] at hline
    exact ⟨line, hline, rfl⟩

theorem exists_sameLine {xs ys : List OpenLine} (h : List.Forall₂ SameLine xs ys) {y : OpenLine} (hy : y ∈ ys) :
    ∃ x ∈ xs, SameLine x y := by
  induction h with
  | nil => cases hy
  | @cons x _ _ _ first _ ih =>
    rcases List.mem_cons.1 hy with rfl | hy
    · exact ⟨x, List.mem_cons_self .., first⟩
    · obtain ⟨old, hold, same⟩ := ih hy
      exact ⟨old, List.mem_cons_of_mem _ hold, same⟩

theorem OnlyHeads.linesFrom (h : OnlyHeads s t) : LinesFrom s t where
  straps := h.straps
  shared := by rw [h.rs]
  inspecting := h.inspecting
  phase := by
    obtain ⟨capture, limit, e⟩ := h.cu
    rw [e]
  lines f line hline := by
    obtain ⟨old, hold, same⟩ := exists_sameLine (h.streams f).openLines hline
    unfold SameLine at same
    exact ⟨old, hold, by rw [same]⟩

/-- The lines that stand unassembled keep what `LinesOk` says of them. -/
theorem LinesFrom.linesOk (h : LinesFrom s t) (k : LinesOk s) : LinesOk t := by
  obtain ⟨entered, closed, phase⟩ := k
  have entry : ∀ p, t.entry p = s.entry p := fun p => by
    unfold State.entry State.shared
    rw [h.shared, h.straps]
  refine ⟨fun f line hline => ?_, fun hi f => ?_, fun hi => h.phase.trans (phase (h.inspecting ▸ hi))⟩
  · obtain ⟨old, hold, e⟩ := h.lines f line hline
    rw [e]
    exact ⟨(entered f old hold).1, fun p hp => by rw [entry]; exact (entered f old hold).2 p hp⟩
  · refine List.eq_nil_iff_forall_not_mem.2 fun line hline => ?_
    obtain ⟨old, hold, _⟩ := h.lines f line hline
    rw [closed (h.inspecting ▸ hi) f] at hold
    cases hold

/-- With no line unassembled outside RUNNING and STOPPING there is nothing to say of heads. -/
theorem linesOk_of_closed (hi : t.inspecting = false) (h : ∀ f, openLines (t.luFace f).stream = []) : LinesOk t := by
  refine ⟨fun f line hline => ?_, fun _ => h, fun k => absurd k (Bool.eq_false_iff.1 hi)⟩
  rw [h f] at hline
  cases hline

/-- Outside RUNNING and STOPPING no line stands unassembled, so nothing that leaves the Link Unit alone there matters. -/
theorem LinesOk.outside (h : LinesOk s) (hs : s.inspecting = false) (hl : t.lu = s.lu) (ht : t.inspecting = false) :
    LinesOk t := by
  refine linesOk_of_closed ht fun f => ?_
  unfold State.luFace
  rw [hl]
  exact h.2.1 hs f

/-! ## Assembly, HELLOs and packets -/

theorem lineBuilt_lines (s : State) (f : Face) (line : OpenLine) : LinesFrom s (lineBuilt s f line) := by
  refine { LinesFrom.refl s with lines := fun g x hx => ?_ }
  rw [lineBuilt_luFace] at hx
  split at hx
  · next e =>
    rw [openLines_replaceOldest_tail, ← e] at hx
    exact ⟨x, List.mem_of_mem_tail hx, rfl⟩
  · exact ⟨x, hx, rfl⟩

theorem assembleLine_lines (s : State) (f : Face) (line : OpenLine) : LinesFrom s (assembleLine s f line) :=
  (lineBuilt_lines s f line).trans (assembleLine_onlyHeads s f line).linesFrom

theorem assembleOldest_lines (s : State) (f : Face) : LinesFrom s (assembleOldest s f) := by
  unfold assembleOldest
  split
  · exact .refl s
  · exact assembleLine_lines s f _

theorem assembleComplete_lines (n : Nat) (s : State) (f : Face) : LinesFrom s (assembleComplete n s f) := by
  induction n generalizing s with
  | zero => exact .refl s
  | succ n ih =>
    unfold assembleComplete
    split
    · exact .refl s
    · split
      · exact (assembleLine_lines s f _).trans (ih _)
      · exact .refl s

theorem assembleReady_lines (s : State) (f : Face) : LinesFrom s (assembleReady s f) := assembleComplete_lines _ s f

theorem assembleOverdue_lines (n : Nat) (s : State) (f : Face) : LinesFrom s (assembleOverdue n s f) := by
  induction n generalizing s with
  | zero => exact .refl s
  | succ n ih =>
    unfold assembleOverdue
    split
    · exact .refl s
    · split
      · exact ((assembleLine_lines s f _).trans (assembleReady_lines _ f)).trans (ih _)
      · exact .refl s

theorem readyHead_onlyHeads (s : State) (p : Port) : OnlyHeads s (readyHead s p) :=
  (leaveLive_onlyHeads s p).trans (onHead_onlyHeads _ p _)

theorem mismatchHead_onlyHeads (s : State) (p : Port) (f : Face) (hello : Hello) :
    OnlyHeads s (mismatchHead s p f hello) := by
  unfold mismatchHead
  dsimp only
  split
  · exact ((leaveLive_onlyHeads s p).trans (onHead_onlyHeads _ p _)).trans (issueFault_onlyHeads _ _ _ _ _ _)
  · exact (leaveLive_onlyHeads s p).trans (onHead_onlyHeads _ p _)

theorem takeHello_lines (s : State) (p : Port) (hello : Hello) : LinesFrom s (takeHello s p hello) := by
  have remembered := onHead_onlyHeads s p fun h => { h with hello := some hello }
  unfold takeHello
  dsimp only
  split
  · exact remembered.linesFrom
  · split
    · exact remembered.linesFrom
    · refine LinesFrom.trans ?_ (assembleReady_lines _ _)
      split
      · exact (remembered.trans (readyHead_onlyHeads _ p)).linesFrom
      · exact (remembered.trans (mismatchHead_onlyHeads _ p _ _)).linesFrom

theorem receiveHello_lines (s : State) (p : Port) (packet : Packet) : LinesFrom s (receiveHello s p packet) := by
  unfold receiveHello
  split
  · split
    · exact takeHello_lines s p _
    · exact (onHead_onlyHeads s p _).linesFrom
  · exact .refl s

theorem sendRetrain_onlyHeads (s : State) (p : Port) : OnlyHeads s (sendRetrain s p) := { OnlyHeads.refl s with }

theorem resetHead_lines (s : State) (p : Port) : LinesFrom s (resetHead s p) := by
  have sent := sendRetrain_onlyHeads s p
  unfold resetHead
  dsimp only
  split
  · exact sent.linesFrom
  · exact ((sent.trans (leaveLive_onlyHeads _ p)).trans (onHead_onlyHeads _ p _)).linesFrom.trans (assembleReady_lines _ _)

theorem matchLine_lines (s : State) (p : Port) (packet : Packet) : LinesFrom s (matchLine s p packet) := by
  unfold matchLine
  dsimp only
  split
  · exact (onHead_onlyHeads s p _).linesFrom
  · exact ((giveUp_onlyHeads s p _).trans (onHead_onlyHeads _ p _)).linesFrom.trans (assembleReady_lines _ _)

theorem receiveLine_lines (s : State) (p : Port) (packet : Packet) : LinesFrom s (receiveLine s p packet) := by
  have counted : ∀ g, LinesFrom s (s.onCounters p g) := fun _ => (onHead_onlyHeads s p _).linesFrom
  unfold receiveLine
  split
  · split
    · exact counted _
    · split
      · exact counted _
      · split
        · exact counted _
        · split
          · exact counted _
          · exact matchLine_lines s p packet
  · exact .refl s

theorem takeItem_lines (s : State) (f : Face) : LinesFrom s (takeItem s f) := by
  unfold takeItem
  split
  · exact .refl s
  · refine { LinesFrom.refl s with lines := fun g x hx => ?_ }
    have face := luFace_onLuFace s f g fun l => { l with stream := l.stream.tail }
    unfold State.luFace at face
    unfold State.luFace at hx
    rw [State.onRxFace_lu, face] at hx
    split at hx
    · next e =>
      subst e
      exact ⟨x, ((List.tail_sublist _).filterMap _).subset hx, rfl⟩
    · exact ⟨x, hx, rfl⟩

/-! ## The trigger of a line (R27) -/

theorem recoverHead_onlyHeads (s : State) (p : Port) (desc : LineDesc) : OnlyHeads s (recoverHead s p desc) := by
  unfold recoverHead
  dsimp only
  split
  · split <;> exact (onHead_onlyHeads s p _).trans (issueFault_onlyHeads _ _ _ _ _ _)
  · exact onHead_onlyHeads s p _

theorem sendTrigger_onlyHeads (desc : LineDesc) (s : State) (p : Port) : OnlyHeads s (sendTrigger desc s p) := by
  have sent : OnlyHeads s ((s.onHead p fun h =>
      { h with link := .live, outstanding := h.outstanding ++ [desc.number] }).emit
        (.link p (triggerPacket desc.number desc.lighting))) := { OnlyHeads.refl s with }
  unfold sendTrigger
  dsimp only
  split
  · exact sent.trans (recoverHead_onlyHeads _ p desc)
  · exact sent

theorem makeRoom_lines (s : State) (f : Face) : LinesFrom s (makeRoom s f) := by
  unfold makeRoom
  split
  · exact (assembleOldest_lines s f).trans (assembleReady_lines _ f)
  · exact .refl s

/-- R27, R163: a roll stands in RUNNING or STOPPING, and its unassembled lines wait for heads of their faces. -/
def Rolling (s : State) : Prop := LinesOk s ∧ s.inspecting = true

theorem LinesFrom.rolling (h : LinesFrom s t) (k : Rolling s) : Rolling t := ⟨h.linesOk k.1, h.inspecting.trans k.2⟩

theorem lineOpened_luFace (s : State) (f g : Face) (line : OpenLine) :
    openLines ((lineOpened s f line).luFace g).stream =
      if g = f then openLines (s.luFace f).stream ++ [line] else openLines (s.luFace g).stream := by
  unfold lineOpened
  split
  · next e =>
    rw [e, State.luFace, PerFace.get_set_same]
    exact openLines_append _ _
  · next e => rw [State.luFace, PerFace.get_set_other _ _ e]; rfl

/-- R27: the heads a TRIGGER goes to are entered for the line's face. -/
theorem lineOpened_rolling {line : OpenLine} (h : Rolling s) (hn : line.expected.Nodup)
    (he : ∀ p ∈ line.expected, ∃ e, s.entry p = some e ∧ e.face = f) : Rolling (lineOpened s f line) := by
  obtain ⟨⟨entered, _, phase⟩, hi⟩ := h
  refine ⟨⟨fun g x hx => ?_, fun k => absurd hi (Bool.eq_false_iff.1 k), phase⟩, hi⟩
  rw [lineOpened_luFace] at hx
  split at hx
  · next e =>
    subst e
    rcases List.mem_append.1 hx with hx | hx
    · exact entered g x hx
    · rw [List.mem_singleton.1 hx]
      exact ⟨hn, he⟩
  · exact entered g x hx

theorem triggerLine_rolling (h : Rolling s) (f : Face) (desc : LineDesc) : Rolling (triggerLine s f desc) := by
  have room := (makeRoom_lines s f).rolling h
  have sent := foldl_onlyHeads _ (sendTrigger_onlyHeads desc) (triggerSet (makeRoom s f) f) (makeRoom s f)
  rw [triggerLine_eq]
  refine (assembleReady_lines _ f).rolling (lineOpened_rolling (sent.linesFrom.rolling room) (triggerSet_nodup _ f) ?_)
  intro p hp
  obtain ⟨e, he, hf, _⟩ := (mem_triggerSet p).1 hp
  exact ⟨e, (sent.entry p).trans he, hf⟩

/-! ## Boundaries, splices and the line -/

theorem pushStream_lines {item : StreamItem} (hi : openLines [item] = []) (s : State) (f : Face) :
    LinesFrom s (s.pushStream f item) := by
  refine { LinesFrom.refl s with lines := fun g x hx => ?_ }
  unfold State.pushStream at hx
  rw [luFace_onLuFace] at hx
  split at hx
  · next e =>
    rw [openLines_append, hi, List.append_nil, ← e] at hx
    exact ⟨x, hx, rfl⟩
  · exact ⟨x, hx, rfl⟩

theorem onMuFace_lines (s : State) (f : Face) (g : MuFace → MuFace) : LinesFrom s (s.onMuFace f g) :=
  (onMuFace_aside (Aside.refl s) f g).linesFrom

theorem makePatchEnd_lines (s : State) (f : Face) (stamp : Int) (flags : PatchFlags) :
    LinesFrom s (makePatchEnd s f stamp flags) := by
  have pushed := fun item => (onMuFace_lines s f fun m => { m with sect := .gap, lastEnd := stamp }).trans
    (pushStream_lines (item := .patchEnd item) rfl _ f)
  unfold makePatchEnd
  dsimp only
  split
  · exact (pushed _).trans (finishFace_aside (Aside.refl _) f).linesFrom
  · exact pushed _

theorem applyPending_lines (s : State) (f : Face) (stamp : Int) : LinesFrom s (applyPending s f stamp).1 := by
  unfold applyPending
  split
  · exact .refl s
  · dsimp only
    refine LinesFrom.trans ?_ (issue_aside (Aside.refl _) _).linesFrom
    exact { LinesFrom.refl s with }

theorem makePatchStart_lines (s : State) (f : Face) (stamp : Int) (flags : StartFlags) :
    LinesFrom s (makePatchStart s f stamp flags) := by
  unfold makePatchStart
  exact ((onMuFace_lines s f _).trans (applyPending_lines _ f stamp)).trans (pushStream_lines rfl _ f)

theorem applyBoundary_lines (s : State) (f : Face) (b : Boundary) : LinesFrom s (applyBoundary s f b) := by
  cases b with
  | edge e =>
    have popped := onMuFace_lines s f fun m => { m with edges := m.edges.tail }
    unfold applyBoundary applyEdge
    dsimp only
    split
    · exact popped.trans (makePatchStart_lines _ f _ _)
    · exact popped.trans (makePatchStart_lines _ f _ _)
    · exact popped.trans (makePatchEnd_lines _ f _ _)
    all_goals exact popped.trans (onMuFace_lines _ f _)
  | synthetic x =>
    unfold applyBoundary applySynthetic
    dsimp only
    split
    · exact makePatchEnd_lines s f _ _
    · exact makePatchStart_lines s f _ _
    · exact .refl s
  | segment x =>
    have ended := makePatchEnd_lines s f x (segmentFlags (s.muFace f))
    unfold applyBoundary applySegment
    dsimp only
    split
    · exact ended
    · exact ended.trans (makePatchStart_lines _ f _ _)

theorem applyBoundaries_lines (n : Nat) (s : State) (f : Face) (stamp : Int) : LinesFrom s (applyBoundaries n s f stamp) := by
  induction n generalizing s with
  | zero => exact .refl s
  | succ n ih =>
    unfold applyBoundaries
    split
    · exact .refl s
    · split
      · exact .refl s
      · split
        · exact (applyBoundary_lines s f _).trans (ih _)
        · exact .refl s

theorem meetSplices_lines (s : State) (f : Face) (stamp : Int) : LinesFrom s (meetSplices s f stamp) := by
  have each : ∀ u e, LinesFrom u (enterZone f stamp u e) := fun u e => by
    have pushed := pushStream_lines (item := .spliceClosure) rfl u f
    unfold enterZone
    split
    · cases f with
      | upper => exact pushed.trans (issue_aside (Aside.refl _) _).linesFrom
      | lower => exact pushed
    · exact .refl u
  exact (foldl_linesFrom _ each s.mu.splices s).trans (onMu_aside (Aside.refl _) _).linesFrom

theorem prepareLine_rolling (h : Rolling s) (sp : SharedPart) (f : Face) : Rolling (prepareLine s sp f) := by
  have bounds := (applyBoundaries_lines (boundaryFuel s f (lineStamp s sp (s.muFace f).nextLine)) s f
    (lineStamp s sp (s.muFace f).nextLine)).rolling h
  have met := (meetSplices_lines _ f (lineStamp s sp (s.muFace f).nextLine)).rolling bounds
  unfold prepareLine
  dsimp only
  split
  · exact bounds
  · refine (onMuFace_lines _ f _).rolling ?_
    split
    · exact triggerLine_rolling
        (((closeSkip_aside (Aside.refl _) f).linesFrom.trans (onMuFace_lines _ f _)).rolling met) f _
    · exact ((onMuFace_lines _ f _).trans (pushStream_lines rfl _ f)).rolling met

theorem prepareIfDue_rolling (h : Rolling s) (sp : SharedPart) (f : Face) : Rolling (prepareIfDue s sp f) := by
  unfold prepareIfDue
  split
  · exact prepareLine_rolling h sp f
  · exact h

/-! ## The encoder (R2 to R5) -/

theorem inspectAdvance_rolling (h : Rolling s) : Rolling (inspectAdvance s) := by
  have sampled : ∀ sp, Aside s (sampleSplice (sampleMark (sampleMark (sendLimit s) sp .upper) sp .lower) sp) := fun sp => by
    refine sampleSplice_aside (sampleMark_aside (sampleMark_aside ?_ sp _) sp _) sp
    unfold sendLimit
    split
    · exact (onMu_aside (Aside.refl s) _).limit true
    · exact Aside.refl s
  unfold inspectAdvance
  split
  · exact h
  · next sp _ => exact prepareIfDue_rolling (prepareIfDue_rolling ((sampled sp).linesFrom.rolling h) sp _) sp _

theorem advance_linesOk (h : LinesOk s) : LinesOk (advance s) := by
  have moved : LinesFrom s (s.onMu fun m => { m with h := m.p }) := (onMu_aside (Aside.refl s) _).linesFrom
  unfold advance
  refine (advanceMarks_aside (Aside.refl _)).linesFrom.linesOk ?_
  split
  · next hi => exact (inspectAdvance_rolling ⟨moved.linesOk h, hi⟩).1
  · exact moved.linesOk h

theorem decodeStep_linesOk (h : LinesOk s) (before after : Fin 4) : LinesOk (decodeStep s before after) := by
  have forward : LinesOk (forwardStep s) := by
    have moved : ∀ p, LinesOk (movePosition (s.onMu fun m => { m with direction := .forward }) p) := fun p =>
      (onMu_aside (onMu_aside (Aside.refl s) _) _).linesFrom.linesOk h
    unfold forwardStep
    dsimp only
    split
    · split
      · exact advance_linesOk (moved _)
      · exact moved _
    · exact (onMu_aside (Aside.refl s) _).linesFrom.linesOk h
  have back : Aside s (reverseStep s) := by
    have cut := cutPulses_aside (onMu_aside (Aside.refl s) fun m => { m with direction := .reverse })
    have turned : Aside s (if s.mu.direction = .forward then cutPulses (s.onMu fun m => { m with direction := .reverse }) else s) := by
      split
      · exact cut
      · exact Aside.refl s
    unfold reverseStep movePosition
    dsimp only
    split
    · exact onMu_aside turned _
    · exact turned
  have jump : Aside s (encoderJump s) := by
    unfold encoderJump
    split
    · exact onMu_aside (Aside.refl s) _
    · exact Aside.refl s
  unfold decodeStep
  split
  · exact h
  · split
    · exact forward
    · split
      · exact back.linesFrom.linesOk h
      · exact jump.linesFrom.linesOk h

theorem decodeLevels_linesOk (h : LinesOk s) (a b : Phase) : LinesOk (decodeLevels s a b) :=
  decodeStep_linesOk ((onMu_aside (Aside.refl s) _).linesFrom.linesOk h) _ _

theorem holdExpiry_linesOk (h : LinesOk s) (phases : Phases) (sensors : Sensors) : LinesOk (holdExpiry s phases sensors) := by
  have set : LinesOk (setSensors s sensors) := h
  unfold holdExpiry
  dsimp only
  split
  · cases phases <;> exact decodeLevels_linesOk set _ _
  · exact set

/-! ## Closing and close-out (R163 to R165) -/

theorem assembleOldest_openCount (s : State) (f : Face) : openCount (assembleOldest s f) f = openCount s f - 1 := by
  unfold assembleOldest
  split
  · next e => rw [openCount, e]; rfl
  · exact assembleLine_openCount s f _

/-- R42: no line of the face is left unassembled. -/
theorem assembleAll_closes (s : State) (f : Face) : openLines ((assembleAll s f).luFace f).stream = [] := by
  have count : ∀ (l : List OpenLine) (u : State), openCount (l.foldl (fun t _ => assembleOldest t f) u) f =
      openCount u f - l.length := fun l => by
    induction l with
    | nil => exact fun _ => rfl
    | cons x rest ih =>
      intro u
      rw [List.foldl_cons, ih, assembleOldest_openCount, List.length_cons]
      omega
  refine List.length_eq_zero_iff.1 ((count _ s).trans ?_)
  unfold openCount
  omega

theorem assembleAll_lines (s : State) (f : Face) : LinesFrom s (assembleAll s f) :=
  foldl_linesFrom _ (fun u _ => assembleOldest_lines u f) _ s

theorem LinesFrom.closed (h : LinesFrom s t) (hs : openLines (s.luFace f).stream = []) :
    openLines (t.luFace f).stream = [] := by
  refine List.eq_nil_iff_forall_not_mem.2 fun line hline => ?_
  obtain ⟨old, hold, _⟩ := h.lines f line hline
  rw [hs] at hold
  cases hold

theorem discardPending_lines (s : State) : LinesFrom s (discardPending s) := { LinesFrom.refl s with }

/-- R42, R163: entry to CLOSING leaves no line unassembled. -/
theorem enterClosing_closed (hi : s.inspecting = true) (reason : EndReason) (f : Face) :
    openLines ((enterClosing s reason).luFace f).stream = [] := by
  have both : ∀ u, openLines ((assembleAll (assembleAll u .upper) .lower).luFace f).stream = [] := fun u => by
    cases f with
    | upper => exact (assembleAll_lines _ .lower).closed (assembleAll_closes u .upper)
    | lower => exact assembleAll_closes _ .lower
  unfold enterClosing
  rw [if_pos hi]
  exact (wantStatus_aside (Aside.refl _) _).linesFrom.closed ((discardPending_lines _).closed (both _))

theorem enterClosing_linesOk (h : LinesOk s) (reason : EndReason) : LinesOk (enterClosing s reason) := by
  cases hi : s.inspecting with
  | false =>
    rw [enterClosing_ignored hi]
    exact h
  | true =>
    obtain ⟨state, _⟩ := enterClosing_closes hi reason
    refine linesOk_of_closed ?_ (enterClosing_closed hi reason)
    unfold State.inspecting
    rw [state]

theorem stopIfFinished_linesOk (h : LinesOk s) : LinesOk (stopIfFinished s) := by
  unfold stopIfFinished
  split
  · exact enterClosing_linesOk h _
  · exact h

theorem finishNotice_linesOk (h : LinesOk s) (f : Face) : LinesOk (finishNotice s f) :=
  stopIfFinished_linesOk ((finishPairing_aside (Aside.refl s) f).linesFrom.linesOk h)

theorem endCloseout_linesOk (h : LinesOk s) (hi : s.inspecting = false) : LinesOk (endCloseout s) := by
  unfold endCloseout
  dsimp only
  refine (wantStatus_aside (Aside.refl _) _).linesFrom.linesOk ?_
  cases he : s.xu.enable <;> exact h.outside hi rfl rfl

theorem closing_inspecting (h : s.cu.state = .closing) : s.inspecting = false := by
  unfold State.inspecting
  rw [h]

theorem setPhase_linesOk (h : LinesOk s) (hi : s.inspecting = false) (phase : ClosePhase) :
    LinesOk (s.onCu fun c => { c with phase := phase }) := h.outside hi rfl hi

theorem closeoutCheck_linesOk (h : LinesOk s) : LinesOk (closeoutCheck s) := by
  unfold closeoutCheck
  split
  · next hc =>
    have outside := closing_inspecting hc.1
    split
    · have post := (beginPost_aside (Aside.refl s) (finalReason s)).linesFrom
      exact setPhase_linesOk (post.linesOk h) (post.inspecting.trans outside) .final
    · exact endCloseout_linesOk h outside
  · exact h

theorem actAbandon_linesOk (h : LinesOk s) : LinesOk (actAbandon s) :=
  closeoutCheck_linesOk ((loseRecords_aside (onRu_aside (Aside.refl s) _) _).linesFrom.linesOk h)

theorem beginCloseout_linesOk (h : LinesOk s) : LinesOk (beginCloseout s) := by
  unfold beginCloseout
  dsimp only
  split
  · next hc =>
    have steps := (closeoutSteps_aside (Aside.refl s)).linesFrom
    have drain := setPhase_linesOk (steps.linesOk h) (steps.inspecting.trans (closing_inspecting hc.1)) .drain
    split
    · exact actAbandon_linesOk drain
    · exact closeoutCheck_linesOk drain
  · exact h

theorem afterPost_linesOk (h : LinesOk s) (written : Bool) : LinesOk (afterPost s written) := by
  unfold afterPost
  split
  · next final =>
    have outside : s.inspecting = false := by
      refine Bool.eq_false_iff.2 fun hi => ?_
      rw [h.2.2 hi] at final
      cases final
    split
    · exact endCloseout_linesOk h outside
    · exact closeoutCheck_linesOk (setPhase_linesOk h outside .drain)
  · exact closeoutCheck_linesOk h

/-! ## Batches and orders (R167 to R177) -/

theorem onCu_lines (s : State) (g : ControlUnit → ControlUnit) (hs : (g s.cu).state = s.cu.state)
    (hp : (g s.cu).phase = s.cu.phase) : LinesFrom s (s.onCu g) :=
  { LinesFrom.refl s with inspecting := inspecting_congr hs, phase := hp }

theorem finishBatch_lines (s : State) (generation : Word) (results : Vector OrderResult 16) :
    LinesFrom s (finishBatch s generation results) :=
  (onCu_lines s (fun c => { c with batch := none }) rfl rfl).trans
    (wantStatus_aside (onXu_aside (Aside.refl _) _) _).linesFrom

theorem endOrder_lines (s : State) (result : OrderResult) : LinesFrom s (endOrder s result) := by
  unfold endOrder
  split
  · exact .refl s
  · dsimp only
    split
    · exact onCu_lines s _ rfl rfl
    · exact finishBatch_lines s _ _

theorem executeOrder_linesOk (h : LinesOk s) (order : Instr) (effect : State → State × OrderResult)
    (he : LinesOk (effect s).1) : LinesOk (executeOrder s order effect) := by
  unfold executeOrder
  split
  · exact (endOrder_lines _ _).linesOk he
  · exact h

theorem orderStart_linesOk (h : LinesOk s) (rollId : Word) (s0 : Int) : LinesOk (orderStart s rollId s0).1 := by
  unfold orderStart
  split
  · exact h
  · split
    · exact h
    · next unready =>
      split
      · exact h
      · obtain ⟨part, hs⟩ := Option.ne_none_iff_exists'.1 fun e => unready (Option.isNone_iff_eq_none.2 e)
        rw [startRoll_eq hs]
        refine (wantStatus_aside (Aside.refl _) _).linesFrom.linesOk ⟨fun f line hl => ?_, nofun, fun _ => rfl⟩
        rw [rollOpened_luFace] at hl
        cases hl

theorem requestFinish_lines (s : State) (f : Face) : LinesFrom s (requestFinish s f) := by
  have asked := onMuFace_aside (Aside.refl s) f fun m => { m with finishRequest := true }
  unfold requestFinish
  dsimp only
  split
  · exact (finishPairing_aside (finishFace_aside asked f) f).linesFrom
  · exact asked.linesFrom

theorem orderStop_linesOk (h : LinesOk s) : LinesOk (orderStop s).1 := by
  unfold orderStop
  split
  case h_1 running =>
    have inspecting : s.inspecting = true := by
      unfold State.inspecting
      rw [running]
    have stopping : LinesFrom s (s.onCu fun c => { c with state := .stopping }) :=
      { LinesFrom.refl s with inspecting := inspecting.symm }
    exact stopIfFinished_linesOk ((((stopping.trans (wantStatus_aside (Aside.refl _) _).linesFrom).trans
      (requestFinish_lines _ _)).trans (requestFinish_lines _ _)).linesOk h)
  all_goals exact h

theorem orderHalt_linesOk (h : LinesOk s) : LinesOk (orderHalt s).1 := by
  have marked := (onCu_lines s (fun c => { c with abandon := true }) rfl rfl).linesOk h
  unfold orderHalt haltClosing
  split
  · exact enterClosing_linesOk h _
  · exact enterClosing_linesOk h _
  · dsimp only
    split
    · exact h
    · split
      · exact actAbandon_linesOk marked
      · exact actAbandon_linesOk marked
      all_goals exact marked
  all_goals exact h

/-- R154: a recipe becomes active in IDLE alone, where no line stands unassembled. -/
theorem activateRecipe_linesOk (h : LinesOk s) (hi : s.cu.state = .idle) (slot : BitVec 2) (bytes : List Byte) :
    LinesOk (activateRecipe s slot bytes) := by
  have outside : s.inspecting = false := by
    unfold State.inspecting
    rw [hi]
  have heads : ∀ u, OnlyHeads u (activateHeads u) := fun u => foldl_onlyHeads _ (fun v p => onHead_onlyHeads v p _) _ u
  unfold activateRecipe
  dsimp only
  refine (cutPulses_aside (onMu_aside (onRxFace_aside (onRxFace_aside (Aside.refl _) _ _) _ _) _)).linesFrom.linesOk
    ((heads _).linesFrom.linesOk (linesOk_of_closed ?_ ?_))
  · exact outside
  · exact h.2.1 outside

theorem judgeRecipe_linesOk (h : LinesOk s) (slot : BitVec 2) (bytes : List Byte) :
    LinesOk (judgeRecipe s slot bytes).1 := by
  have pending : LinesFrom s (pendRecipe s slot bytes) := { LinesFrom.refl s with }
  unfold judgeRecipe settleRecipe
  split
  · exact h
  · split
    · next idle => exact activateRecipe_linesOk h idle slot bytes
    case h_2 | h_3 =>
      split
      · exact pending.linesOk h
      · exact h
    all_goals exact h

/-! ## Pages and reads -/

theorem failPost_linesOk (h : LinesOk s) (p : Posting) : LinesOk (failPost s p) :=
  afterPost_linesOk ((wantStatus_aside (abandonPage_aside (onXu_aside (Aside.refl s) _) _) _).linesFrom.linesOk h) _

theorem failPage_linesOk (h : LinesOk s) : LinesOk (failPage s) := by
  unfold failPage failFilling
  split
  · exact failPost_linesOk h _
  · split
    · exact h
    · exact closeoutCheck_linesOk ((abandonPage_aside (onXu_aside (Aside.refl s) _) _).linesFrom.linesOk h)
  · exact h

theorem completePost_linesOk (h : LinesOk s) : LinesOk (completePost s) := by
  unfold completePost postDone
  split
  · exact h
  · exact afterPost_linesOk ((wantStatus_aside (onXu_aside (Aside.refl s) _) _).linesFrom.linesOk h) _

theorem drainQueue_linesOk (h : LinesOk s) : LinesOk (drainQueue s) := by
  unfold drainQueue
  split
  · exact closeoutCheck_linesOk ((drainInto_aside (Aside.refl s) _ _ _).linesFrom.linesOk h)
  all_goals exact h

theorem completeCopy_lines (s : State) (entries : OrderListBytes) : LinesFrom s (completeCopy s entries) := by
  have copied : ∀ c : Option BatchCopy, LinesFrom s (s.onXu fun x => { x with copy := c }) := fun c =>
    (onXu_aside (Aside.refl s) _).linesFrom
  unfold completeCopy handBatch
  split
  · exact .refl s
  · dsimp only
    split
    · exact copied none
    · split
      · exact (copied none).trans (onCu_lines _ _ rfl rfl)
      · exact (copied none).trans (finishBatch_lines _ _ _)

theorem failRead_linesOk (h : LinesOk s) (read : ReadKind) : LinesOk (failRead s read) := by
  have r := Aside.refl s
  cases read with
  | sample => exact (endSample_aside (captureFault_aside r _)).linesFrom.linesOk h
  | batchCopy => exact (captureFault_aside (onXu_aside r _) _).linesFrom.linesOk h
  | stockReread => exact (captureFault_aside (onXu_aside r _) _).linesFrom.linesOk h
  | recipeLoad =>
    have ended : LinesFrom s (s.onRs fun r => { r with load := none }) := { LinesFrom.refl s with }
    exact ((ended.trans (captureFault_aside (Aside.refl _) _).linesFrom).trans (endOrder_lines _ _)).linesOk h
  | postCompletion =>
    unfold failRead
    dsimp only
    split
    · exact h
    · exact failPost_linesOk h _
  | statusCompletion => exact (failStatus_aside r).linesFrom.linesOk h

/-- R161: the part enters IDLE from OFF. -/
theorem enterIdle_linesOk (h : LinesOk s) : LinesOk (enterIdle s) := by
  unfold enterIdle
  split
  · next hc =>
    have outside : s.inspecting = false := by
      unfold State.inspecting
      rw [hc.1]
    refine (wantStatus_aside (startSample_aside (Aside.refl _)) _).linesFrom.linesOk ?_
    exact h.outside outside rfl rfl
  · exact h

/-! ## The end of a step, and the clock -/

theorem settle_linesOk (before : State) (h : LinesOk s) : LinesOk (settle before s) := by
  unfold settle takeLimit
  refine (markChanged_aside (Aside.refl _) before).linesFrom.linesOk ?_
  split
  · exact (onCu_lines _ _ rfl rfl).linesOk (enterClosing_linesOk h _)
  · exact h

theorem tick_lines (s : State) : LinesFrom s (tick s) := by
  have read : ∀ u, LinesFrom u (countReads u) := fun u => { LinesFrom.refl u with }
  have ms : ∀ u, LinesFrom u (msTick u) := fun u =>
    (countStall_aside (countPoll_aside (Aside.refl u))).linesFrom.trans (read _)
  have cycle := onMu_aside (Aside.refl s) fun m => { m with phaseA := m.phaseA.age, phaseB := m.phaseB.age }
  unfold tick countMicrosecond
  dsimp only
  split
  · exact (onMu_aside cycle _).linesFrom
  · split
    · exact (onMu_aside (onMu_aside (onMu_aside cycle _) _) _).linesFrom
    · exact (onMu_aside (onMu_aside (onMu_aside cycle _) _) _).linesFrom.trans (ms _)

/-! ## Commands -/

theorem comeUp_lines (s : State) : LinesFrom s (comeUp s) := by
  have sent : OnlyHeads s (retrainAll s) := foldl_onlyHeads _ (fun u p => by
    split
    · exact sendRetrain_onlyHeads u p
    · exact .refl u) _ s
  unfold comeUp
  refine sent.linesFrom.trans (markChanged_aside ?_ s).linesFrom
  split
  · exact breakActivated_aside (Aside.refl _)
  · exact Aside.refl _

theorem exec_linesOk (c : Instr) (h : LinesOk s) : ∃ t, exec c s = .next t ∧ LinesOk t := by
  have r := Aside.refl s
  have aside : ∀ u, Aside s u → LinesOk (settle s u) := fun u k => settle_linesOk s (k.linesFrom.linesOk h)
  have lines : ∀ u, LinesFrom s u → LinesOk (settle s u) := fun u k => settle_linesOk s (k.linesOk h)
  have order : ∀ i effect, LinesOk (effect s).1 → LinesOk (settle s (executeOrder s i effect)) := fun i effect k =>
    settle_linesOk s (executeOrder_linesOk h i effect k)
  have fresh : ∀ u : State, u.cu = ControlUnit.powerOn → u.lu.faces = { upper := LuFace.powerOn, lower := LuFace.powerOn } →
      LinesOk (comeUp u) := fun u cu faces => by
    refine (comeUp_lines u).linesOk (linesOk_of_closed ?_ fun f => ?_)
    · unfold State.inspecting
      rw [cu]
      rfl
    · unfold State.luFace
      rw [faces]
      cases f <;> rfl
  cases c with
  | powerOn straps => exact ⟨_, rfl, fresh _ rfl rfl⟩
  | partReset => exact ⟨_, rfl, fresh _ rfl rfl⟩
  | xbaseWrite half value =>
    refine ⟨_, rfl, settle_linesOk s ?_⟩
    split
    · exact enterIdle_linesOk ((onXu_aside r _).linesFrom.linesOk h)
    · exact h
  | enableSet => exact ⟨_, rfl, settle_linesOk s (enterIdle_linesOk ((onXu_aside r _).linesFrom.linesOk h))⟩
  | enableClear =>
    have disabled := (onXu_aside r fun x => { x with enable := false }).linesFrom.linesOk h
    refine ⟨_, rfl, settle_linesOk s ?_⟩
    split
    · next idle =>
      have outside : s.inspecting = false := by
        unfold State.inspecting
        rw [idle]
      refine (wantStatus_aside (Aside.refl _) _).linesFrom.linesOk ?_
      exact h.outside outside rfl rfl
    · exact enterClosing_linesOk disabled _
    · exact enterClosing_linesOk disabled _
    all_goals exact disabled
  | pollIntervalWrite value =>
    refine ⟨_, rfl, aside _ ?_⟩
    split
    · exact r
    · exact onXu_aside r _
  | attnWrite value => exact ⟨_, rfl, aside _ (clearFlags_aside r _)⟩
  | registerWriteIgnored offset value => exact ⟨_, rfl, aside _ r⟩
  | encoderRawChange a b sensors =>
    have changed : LinesOk ((setSensors s sensors).onPins fun p => { p with encA := a, encB := b }) := h
    exact ⟨_, rfl, settle_linesOk s (decodeLevels_linesOk changed _ _)⟩
  | encoderHoldExpiry phases sensors => exact ⟨_, rfl, settle_linesOk s (holdExpiry_linesOk h phases sensors)⟩
  | breakInputActive =>
    refine ⟨_, rfl, aside _ ?_⟩
    split
    · exact r
    · exact breakActivated_aside { r with }
  | breakInputInactive => exact ⟨_, rfl, aside _ { r with }⟩
  | helloReceived port packet => exact ⟨_, rfl, lines _ (receiveHello_lines s port packet)⟩
  | linePacketReceived port packet => exact ⟨_, rfl, lines _ (receiveLine_lines s port packet)⟩
  | lineDeadlineExpiry face => exact ⟨_, rfl, lines _ (assembleOverdue_lines _ s face)⟩
  | rxTakeItem face => exact ⟨_, rfl, lines _ (takeItem_lines s face)⟩
  | teLineItem face =>
    refine ⟨_, rfl, aside _ ?_⟩
    unfold takeLineItem
    split
    · exact r
    · split
      · exact processLine_aside (onRxFace_aside r _ _) _ _ _
      all_goals exact r
  | tePatchEndItem face =>
    have passed : ∀ item runFull part, LinesOk (processPatchEnd (popHanded s face) face item runFull part) :=
      fun item runFull part => (processPatchEnd_aside (onRxFace_aside r _ _) _ _ _ _).linesFrom.linesOk h
    refine ⟨_, rfl, settle_linesOk s ?_⟩
    unfold takePatchEndItem
    split
    · exact h
    · split
      · dsimp only
        split
        · exact finishNotice_linesOk (passed _ _ _) _
        · exact passed _ _ _
      all_goals exact h
  | tePatchStartItem face =>
    refine ⟨_, rfl, aside _ ?_⟩
    unfold takePatchStartItem
    split
    · exact r
    · split
      · exact processPatchStart_aside (onRxFace_aside r _ _) _ _
      all_goals exact r
  | teSpliceClosureItem face =>
    refine ⟨_, rfl, aside _ ?_⟩
    unfold takeSpliceItem
    split
    · exact r
    · split
      · exact processSplice_aside (onRxFace_aside r _ _) _
      all_goals exact r
  | holdingQueueDrain => exact ⟨_, rfl, settle_linesOk s (drainQueue_linesOk h)⟩
  | pageTake =>
    refine ⟨_, rfl, aside _ ?_⟩
    split
    · exact takeFromStock_aside r
    · exact r
  | postComplete => exact ⟨_, rfl, settle_linesOk s (completePost_linesOk h)⟩
  | pageWriteFailure => exact ⟨_, rfl, settle_linesOk s (failPage_linesOk h)⟩
  | statusWriteComplete => exact ⟨_, rfl, aside _ (endStatus_aside r)⟩
  | statusWriteFailure => exact ⟨_, rfl, aside _ (failStatus_aside r)⟩
  | pollTick => exact ⟨_, rfl, aside _ (pollTick_aside r)⟩
  | pageAgeExpiry =>
    refine ⟨_, rfl, aside _ ?_⟩
    unfold agePost
    split
    · exact beginPost_aside r _
    · exact r
  | stallExpiry =>
    refine ⟨_, rfl, aside _ ?_⟩
    unfold stallEvent
    split
    · exact beginPost_aside (onMu_aside r _) _
    · exact r
  | readTimeout read =>
    refine ⟨_, rfl, settle_linesOk s ?_⟩
    split
    · exact h
    · split
      · exact failRead_linesOk h read
      · exact h
  | readErrorCompletion read =>
    refine ⟨_, rfl, settle_linesOk s ?_⟩
    split
    · exact failRead_linesOk h read
    · exact h
  | sampleReadComplete generation count written => exact ⟨_, rfl, aside _ (completeSample_aside r _ _ _)⟩
  | batchCopyComplete entries => exact ⟨_, rfl, lines _ (completeCopy_lines s entries)⟩
  | stockRereadComplete descriptors => exact ⟨_, rfl, aside _ (completeReread_aside r _)⟩
  | start rollId s0 => exact ⟨_, rfl, order _ _ (orderStart_linesOk h _ _)⟩
  | stop => exact ⟨_, rfl, order _ _ (orderStop_linesOk h)⟩
  | halt => exact ⟨_, rfl, order _ _ (orderHalt_linesOk h)⟩
  | recipe slot =>
    have begun : LinesFrom s (beginLoad s (slot.setWidth 2)) := { LinesFrom.refl s with }
    refine ⟨_, rfl, lines _ ?_⟩
    split
    · split
      · exact endOrder_lines s _
      · exact begun
    · exact .refl s
  | recipeLoadComplete slot =>
    refine ⟨_, rfl, settle_linesOk s ?_⟩
    split
    · exact h
    · have ended : LinesFrom s (s.onRs fun r => { r with load := none }) := { LinesFrom.refl s with }
      exact (endOrder_lines _ _).linesOk (judgeRecipe_linesOk (ended.linesOk h) _ _)
  | flush =>
    refine ⟨_, rfl, order _ _ ?_⟩
    unfold orderFlush
    split
    · exact (beginPost_aside r _).linesFrom.linesOk h
    · split
      · exact h
      · exact h
  | note value =>
    refine ⟨_, rfl, order _ _ ?_⟩
    unfold orderNote
    split
    · exact (issue_aside r _).linesFrom.linesOk h
    · exact h
  | markon =>
    refine ⟨_, rfl, order _ _ ?_⟩
    unfold orderMarkon
    split
    · exact h
    · split
      · exact h
      · exact h
  | clear => exact ⟨_, rfl, order _ _ h⟩
  | levels levels =>
    refine ⟨_, rfl, order _ _ ?_⟩
    unfold orderLevels
    split <;> exact h
  | headreset head =>
    refine ⟨_, rfl, order _ _ ?_⟩
    unfold orderHeadreset
    split
    · split
      · exact (resetHead_lines s _).linesOk h
      · exact h
    · exact h
  | unknownOrder code => exact ⟨_, rfl, order _ _ h⟩
  | closeoutBegin => exact ⟨_, rfl, settle_linesOk s (beginCloseout_linesOk h)⟩

/-- R32: no command gives a head a third line buffer. -/
theorem exec_linksOk (c : Instr) (hl : LinksOk s.lu) (he : exec c s = .next t) : LinksOk t.lu := by
  have fresh : ∀ (straps : Straps) (u : State), u.lu = LinkUnit.powerOn straps → LinksOk (comeUp u).lu := fun straps u e =>
    (comeUp_keeps (Keeps.refl u)).links (e ▸ linksOk_powerOn straps)
  by_cases hp : ∃ x, c = .powerOn x
  · obtain ⟨straps, rfl⟩ := hp
    obtain rfl := Host.Outcome.next.inj he
    exact fresh straps _ rfl
  · by_cases hr : c = .partReset
    · subst hr
      obtain rfl := Host.Outcome.next.inj he
      exact fresh s.straps _ rfl
    · obtain ⟨u, hu, keeps⟩ := exec_keeps c (fun x e => hp ⟨x, e⟩) hr (s := s)
      obtain rfl := Host.Outcome.next.inj (hu.symm.trans he)
      exact keeps.links hl

/-- Settles O6: the clock and every command keep both limits of the Link Unit. -/
theorem stepKeepsLineBuffers : Obligations.StepKeepsLineBuffers := by
  refine ⟨fun s t hl h => ?_, fun s t hl h => ?_⟩
  · obtain rfl | ⟨c, rest, _, he⟩ := step_cases h
    · exact (tick_keeps (Keeps.refl s)).links hl
    · exact exec_linksOk (s := { s with pending := rest }) c hl he
  · obtain rfl | ⟨c, rest, _, he⟩ := step_cases h
    · exact (tick_lines s).linesOk hl
    · obtain ⟨u, hu, ok⟩ := exec_linesOk (s := { s with pending := rest }) c hl
      obtain rfl := Host.Outcome.next.inj (hu.symm.trans he)
      exact ok

end Sys2Proof.Machine
end

section
/-! SUPPORT. Single heads: what an update of one head, giving it up, judging it and freeing its buffers make of it, and that they leave
every other head as it is. -/

namespace Sys2Proof.Machine

variable {s t u : State} {f : Face} {p q : Port}

/-! ## Updates of one head -/

theorem head_onHead (s : State) (p q : Port) (g : Head → Head) :
    (s.onHead p g).head q = if q = p then g (s.head p) else s.head q := head_set _ _ _ _

theorem head_onHead_same (s : State) (p : Port) (g : Head → Head) : (s.onHead p g).head p = g (s.head p) :=
  (head_onHead s p p g).trans (if_pos rfl)

theorem onHead_onHead (s : State) (p : Port) (g k : Head → Head) :
    (s.onHead p g).onHead p k = s.onHead p fun h => k (g h) := by
  rw [onHead_eq, head_onHead_same, onHead_eq, onHead_eq]
  dsimp only
  rw [Vector.set_set]

theorem onHead_congr {g k : Head → Head} (h : g (s.head p) = k (s.head p)) : s.onHead p g = s.onHead p k := by
  rw [onHead_eq, onHead_eq, h]

theorem onHead_self {g : Head → Head} (h : g (s.head p) = s.head p) : s.onHead p g = s := by
  rw [onHead_eq, h]
  unfold State.head
  rw [Fin.getElem_fin, Vector.set_getElem_self]

theorem OnlyReporting.head (h : OnlyReporting s t) (p : Port) : t.head p = s.head p := by
  obtain ⟨_, _, _, ⟨_, lu, _⟩, _⟩ := h
  unfold State.head
  rw [lu]

theorem OnlyReporting.luFace (h : OnlyReporting s t) (f : Face) : t.luFace f = s.luFace f := by
  obtain ⟨_, _, _, ⟨_, lu, _⟩, _⟩ := h
  unfold State.luFace
  rw [lu]

/-! ## Giving a head up (R30, R34) -/

theorem headFace_entry {e : HeadEntry} (h : s.entry p = some e) : headFace s p = e.face := by
  unfold headFace
  rw [h]

/-- R30, R34: giving a head up in lines, item by item of the stream. -/
theorem givenUpIn_eq (s : State) (f : Face) (p : Port) (numbers : List Nat) :
    givenUpIn s f p numbers = s.onLuFace f fun l => { l with stream := l.stream.map (giveUpIn p numbers) } := by
  refine congrArg (fun stream : List StreamItem =>
    { s with lu := { s.lu with faces := s.lu.faces.set f { s.luFace f with stream := stream } } })
    (List.map_congr_left fun item _ => ?_)
  cases item with
  | opened line =>
    unfold giveUpIn
    simp only [List.contains_iff_mem]
    split <;> rfl
  | _ => rfl

theorem giveUp_eq (s : State) (p : Port) (numbers : List Nat) :
    giveUp s p numbers =
      givenUpIn (s.onHead p fun h => { h with outstanding := h.outstanding.filter fun n => !numbers.contains n })
        (headFace s p) p numbers := (givenUpIn_eq _ _ _ _).symm

theorem givenUpIn_head (s : State) (f : Face) (p q : Port) (numbers : List Nat) :
    (givenUpIn s f p numbers).head q = s.head q := rfl

theorem givenUpIn_onHead (s : State) (f : Face) (p q : Port) (numbers : List Nat) (g : Head → Head) :
    (givenUpIn s f p numbers).onHead q g = givenUpIn (s.onHead q g) f p numbers := rfl

theorem giveUpIn_closed {stream : List StreamItem} (h : openLines stream = []) (p : Port) (numbers : List Nat) :
    stream.map (giveUpIn p numbers) = stream := by
  induction stream with
  | nil => rfl
  | cons item rest ih =>
    cases item with
    | opened line => cases h
    | _ => exact congrArg (List.cons _) (ih h)

theorem onLuFace_same {g : LuFace → LuFace} (h : g (s.luFace f) = s.luFace f) : s.onLuFace f g = s := by
  show { s with lu := { s.lu with faces := s.lu.faces.set f (g (s.luFace f)) } } = s
  rw [h, State.luFace, PerFace.set_get]

theorem givenUpIn_closed (h : openLines (s.luFace f).stream = []) (p : Port) (numbers : List Nat) :
    givenUpIn s f p numbers = s := by
  rw [givenUpIn_eq]
  refine onLuFace_same ?_
  rw [giveUpIn_closed h]

/-- R30: a head that is LIVE no more owes nothing and has no misses. -/
def leftLive (h : Head) : Head := if h.link = .live then { h with misses := 0, outstanding := [] } else h

theorem leaveLive_live (h : (s.head p).link = .live) :
    leaveLive s p =
      givenUpIn (s.onHead p fun h => { h with misses := 0, outstanding := [] }) (headFace s p) p (s.head p).outstanding := by
  have none_left : (s.head p).outstanding.filter (fun n => !(s.head p).outstanding.contains n) = [] :=
    List.filter_eq_nil_iff.2 fun n hn => by simpa using hn
  unfold leaveLive
  rw [if_pos h, giveUp_eq, onHead_onHead, (onHead_onlyHeads s p _).headFace]
  refine congrArg (fun v => givenUpIn v _ _ _) (onHead_congr ?_)
  dsimp only
  rw [none_left]

theorem leaveLive_other (h : (s.head p).link ≠ .live) : leaveLive s p = s := if_neg h

theorem leaveLive_head (s : State) (p q : Port) : (leaveLive s p).head q = if q = p then leftLive (s.head p) else s.head q := by
  by_cases h : (s.head p).link = .live
  · rw [leaveLive_live h, givenUpIn_head, head_onHead, leftLive, if_pos h]
  · rw [leaveLive_other h, leftLive, if_neg h]
    split
    · next e => rw [e]
    · rfl

/-! ## Judging a head (R36, R39, R40) -/

/-- R39: the line is counted as missing for the head. -/
def missedHead (number : Nat) (h : Head) : Head :=
  { h with
    outstanding := h.outstanding.filter fun n => n != number
    counters := { h.counters with missing := bump16 h.counters.missing } }

/-- R39: one more consecutive miss. -/
def countedHead (stamp : Int) (h : Head) : Head :=
  { h with misses := h.misses + 1, firstMiss := if h.misses = 0 then stamp else h.firstMiss }

/-- R39, R40: the head is FAILED at a line. -/
def failedHead (desc : LineDesc) (h : Head) : Head :=
  { h with
    link := .failed, recovering := false, misses := 0, outstanding := []
    failedLine := some { number := desc.number, stamp := desc.stamp } }

theorem judgeHead_good {desc : LineDesc} (h : (goodPacket (s.head p) desc.number).isSome = true) :
    judgeHead desc s p = s.onHead p fun h => { h with misses := 0 } := if_pos h

theorem judgeHead_idle {desc : LineDesc} (h : (goodPacket (s.head p) desc.number).isSome = false)
    (hl : (s.head p).link ≠ .live) : judgeHead desc s p = s.onHead p (missedHead desc.number) := by
  unfold judgeHead
  dsimp only
  rw [if_neg (Bool.eq_false_iff.1 h), head_onHead_same, if_neg hl]
  rfl

/-- R39: the head has had one more consecutive miss, and its miss limit decides. -/
theorem judgeHead_live {desc : LineDesc} (h : (goodPacket (s.head p) desc.number).isSome = false)
    (hl : (s.head p).link = .live) :
    judgeHead desc s p =
      let v := s.onHead p fun h => countedHead desc.stamp (missedHead desc.number h)
      match s.entry p with
      | none => v
      | some e => if e.missLimit ≤ (s.head p).misses + 1 then failHead v p desc e.missLimit else v := by
  unfold judgeHead countMiss
  dsimp only
  rw [if_neg (Bool.eq_false_iff.1 h), head_onHead_same, if_pos hl, onHead_onHead, (onHead_onlyHeads s p _).entry]
  cases s.entry p with
  | none => rfl
  | some e =>
    dsimp only
    rw [head_onHead_same]
    rfl

theorem judgeHead_counts {desc : LineDesc} {e : HeadEntry} (h : (goodPacket (s.head p) desc.number).isSome = false)
    (hl : (s.head p).link = .live) (he : s.entry p = some e) (hm : (s.head p).misses + 1 < e.missLimit) :
    judgeHead desc s p = s.onHead p fun h => countedHead desc.stamp (missedHead desc.number h) := by
  rw [judgeHead_live h hl, he]
  exact if_neg (Nat.not_le.2 hm)

theorem judgeHead_fails {desc : LineDesc} {e : HeadEntry} (h : (goodPacket (s.head p) desc.number).isSome = false)
    (hl : (s.head p).link = .live) (he : s.entry p = some e) (hm : e.missLimit ≤ (s.head p).misses + 1) :
    judgeHead desc s p =
      failHead (s.onHead p fun h => countedHead desc.stamp (missedHead desc.number h)) p desc e.missLimit := by
  rw [judgeHead_live h hl, he]
  exact if_pos hm

theorem failHead_head (s : State) (p q : Port) (desc : LineDesc) (limit : Nat) (hl : (s.head p).link = .live) :
    (failHead s p desc limit).head q = if q = p then failedHead desc (s.head p) else s.head q := by
  have marked : ∀ g, ((leaveLive s p).onHead p g).head q = if q = p then g (leftLive (s.head p)) else s.head q := fun g => by
    rw [head_onHead, leaveLive_head, if_pos rfl, leaveLive_head]
    split <;> rfl
  have failed : ((leaveLive s p).onHead p fun h =>
      { h with link := .failed, recovering := false, failedLine := some { number := desc.number, stamp := desc.stamp } }).head
        q = if q = p then failedHead desc (s.head p) else s.head q := by
    rw [marked, leftLive, if_pos hl]
    rfl
  unfold failHead
  dsimp only
  split
  · rw [(issueFault_reporting _ _ _ _ _ _).head, failed]
  · exact failed

/-- R39: only the judged head changes. -/
theorem judgeHead_head_other (desc : LineDesc) (s : State) (h : q ≠ p) : (judgeHead desc s p).head q = s.head q := by
  by_cases good : (goodPacket (s.head p) desc.number).isSome = true
  · rw [judgeHead_good good, head_onHead, if_neg h]
  · by_cases live : (s.head p).link = .live
    · rw [judgeHead_live (Bool.eq_false_iff.2 good) live]
      dsimp only
      have counted : ((s.onHead p fun h => countedHead desc.stamp (missedHead desc.number h))).head q = s.head q := by
        rw [head_onHead, if_neg h]
      split
      · exact counted
      · split
        · rw [failHead_head _ _ _ _ _ (by rw [head_onHead_same]; exact live), if_neg h]
          exact counted
        · exact counted
    · rw [judgeHead_idle (Bool.eq_false_iff.2 good) live, head_onHead, if_neg h]

theorem foldl_judgeHead_head_other (desc : LineDesc) {l : List Port} (h : q ∉ l) (s : State) :
    (l.foldl (judgeHead desc) s).head q = s.head q := by
  induction l generalizing s with
  | nil => rfl
  | cons p rest ih =>
    obtain ⟨first, others⟩ := List.ne_and_not_mem_of_not_mem_cons h
    rw [List.foldl_cons, ih others, judgeHead_head_other desc s first]

/-- R39: in a set that holds a head once, it is judged as it stood at first. -/
theorem foldl_judgeHead_head (desc : LineDesc) {l : List Port} (hn : l.Nodup) (hp : p ∈ l) (s : State) :
    ∃ v, OnlyHeads s v ∧ v.head p = s.head p ∧ (l.foldl (judgeHead desc) s).head p = (judgeHead desc v p).head p := by
  induction l generalizing s with
  | nil => cases hp
  | cons q rest ih =>
    obtain ⟨fresh, hn⟩ := List.nodup_cons.1 hn
    rcases List.mem_cons.1 hp with rfl | hp
    · exact ⟨s, .refl s, rfl, foldl_judgeHead_head_other desc fresh _⟩
    · obtain ⟨v, only, stood, judged⟩ := ih hn hp (judgeHead desc s q)
      refine ⟨v, (judgeHead_onlyHeads desc s q).trans only, stood.trans (judgeHead_head_other desc s ?_), judged⟩
      exact fun e => fresh (e ▸ hp)

/-! ## Buffers (R35) -/

/-- An update that is the same when made twice, made for each head of a list. -/
theorem foldl_onHead {g : Head → Head} (hg : ∀ h, g (g h) = g h) (l : List Port) (s : State) :
    ∃ heads : Vector Head 8, l.foldl (fun t p => t.onHead p g) s = { s with lu := { s.lu with heads := heads } } ∧
      ∀ p : Port, heads[p] = if p ∈ l then g (s.head p) else s.head p := by
  induction l generalizing s with
  | nil => exact ⟨s.lu.heads, rfl, fun p => rfl⟩
  | cons p rest ih =>
    obtain ⟨heads, all, each⟩ := ih (s.onHead p g)
    refine ⟨heads, all, fun q => (each q).trans ?_⟩
    rw [head_onHead]
    by_cases e : q = p
    · subst e
      simp [hg]
    · simp [e]

/-- R35: the head holds no packet for the line any more. -/
def freedHead (number : Nat) (h : Head) : Head := { h with buffers := h.buffers.filter fun b => b.line != number }

theorem freedHead_freedHead (number : Nat) (h : Head) : freedHead number (freedHead number h) = freedHead number h := by
  simp only [freedHead, List.filter_filter, Bool.and_self]

theorem foldl_freeBuffers_head (number : Nat) (l : List Port) (s : State) (q : Port) :
    (l.foldl (freeBuffers number) s).head q = if q ∈ l then freedHead number (s.head q) else s.head q := by
  obtain ⟨heads, all, each⟩ := foldl_onHead (freedHead_freedHead number) l s
  have e : l.foldl (freeBuffers number) s = { s with lu := { s.lu with heads := heads } } := all
  rw [e]
  exact each q

theorem assembleLine_head_other {line : OpenLine} (h : q ∉ line.expected) (s : State) (f : Face) :
    (assembleLine s f line).head q = s.head q := by
  rw [assembleLine_eq, foldl_freeBuffers_head, if_neg h, foldl_judgeHead_head_other _ h]
  rfl

/-- R35, R39: a head the line waited for has been judged as it stood, and then its buffers freed. -/
theorem assembleLine_head {line : OpenLine} (hn : line.expected.Nodup) (hp : p ∈ line.expected) (s : State) (f : Face) :
    ∃ v, OnlyHeads (lineBuilt s f line) v ∧ v.head p = s.head p ∧
      (assembleLine s f line).head p = freedHead line.desc.number ((judgeHead line.desc v p).head p) := by
  obtain ⟨v, only, stood, judged⟩ := foldl_judgeHead_head line.desc hn hp (lineBuilt s f line)
  refine ⟨v, only, stood, ?_⟩
  rw [assembleLine_eq, foldl_freeBuffers_head, if_pos hp, judged]

/-! ## Heads that have all delivered (R35) -/

theorem goodPacket_isSome (h : Head) (number : Nat) :
    (goodPacket h number).isSome = true ↔ ∃ b ∈ h.buffers, b.line = number := by
  unfold goodPacket
  rw [List.find?_isSome]
  exact exists_congr fun b => and_congr_right fun _ => beq_iff_eq

theorem foldl_judgeHead_good (desc : LineDesc) (l : List Port) (s : State)
    (h : ∀ p ∈ l, (goodPacket (s.head p) desc.number).isSome = true) :
    l.foldl (judgeHead desc) s = l.foldl (fun t p => t.onHead p fun h => { h with misses := 0 }) s := by
  induction l generalizing s with
  | nil => rfl
  | cons p rest ih =>
    rw [List.foldl_cons, List.foldl_cons, judgeHead_good (h p (List.mem_cons_self ..))]
    refine ih _ fun q hq => ?_
    rw [head_onHead]
    split
    · next e => exact e ▸ h q (List.mem_cons_of_mem _ hq)
    · exact h q (List.mem_cons_of_mem _ hq)

theorem lineComplete_iff (s : State) (line : OpenLine) :
    lineComplete s line = true ↔
      ∀ q ∈ line.expected, q ∈ line.givenUp ∨ ∃ b ∈ (s.head q).buffers, b.line = line.desc.number := by
  unfold lineComplete
  rw [List.all_eq_true]
  refine forall₂_congr fun q _ => ?_
  rw [Bool.or_eq_true, List.contains_iff_mem, goodPacket_isSome]

end Sys2Proof.Machine
end

section
/-! SUPPORT. A HELLO, a line packet and a reset of a head: the head as it then stands, given up in the lines it still owed. -/

namespace Sys2Proof.Machine

variable {s t u v : State} {f : Face} {p q : Port}

/-! ## The lines that are complete (R35) -/

theorem assembleReady_closed (h : openLines (s.luFace f).stream = []) : assembleReady s f = s := by
  unfold assembleReady
  rw [h]
  rfl

theorem OnlyReporting.openLines (h : OnlyReporting s t) (f : Face) :
    openLines (t.luFace f).stream = openLines (s.luFace f).stream := by rw [h.luFace]

/-- R30: the head is given up in the lines it owes, when it leaves LIVE. -/
def givenUpIfLive (s : State) (f : Face) (p : Port) (h : Head) : State :=
  if h.link = .live then givenUpIn s f p h.outstanding else s

theorem givenUpIfLive_closed (h : openLines (s.luFace f).stream = []) (p : Port) (x : Head) :
    givenUpIfLive s f p x = s := by
  unfold givenUpIfLive
  split
  · exact givenUpIn_closed h p _
  · rfl

/-- R30: leaving LIVE, and what the head then becomes. -/
theorem leaveLive_onHead (s : State) (p : Port) (g : Head → Head) :
    (leaveLive s p).onHead p g =
      givenUpIfLive (s.onHead p fun h => g (leftLive h)) (headFace s p) p (s.head p) := by
  unfold givenUpIfLive
  by_cases h : (s.head p).link = .live
  · rw [leaveLive_live h, if_pos h, givenUpIn_onHead, onHead_onHead]
    refine congrArg (fun w => givenUpIn w _ _ _) (onHead_congr ?_)
    rw [leftLive, if_pos h]
  · rw [leaveLive_other h, if_neg h]
    refine onHead_congr ?_
    rw [leftLive, if_neg h]

/-- R130: a record that does not give the sequence limit's number sends no limit event. -/
theorem issue_limitEvent {body : RecordBody} (h : s.ru.nextSeq ≠ Config.sequenceLimit) :
    (issue s body).cu.limitEvent = s.cu.limitEvent := by
  have numbered : (takeNumber s).1.cu = s.cu := by
    unfold takeNumber
    dsimp only
    split
    · rfl
    · rfl
  obtain ⟨ru, place⟩ := placeRecord_frame (takeNumber s).1 (takeNumber s).2 .none body
  unfold issue
  dsimp only
  rw [place, ← numbered]
  unfold countRecord
  split
  case h_3 => unfold captureFault; rw [raise_cu]; rfl
  all_goals rfl

/-! ## A HELLO (R29, R30, R40) -/

/-- R29, R30: what a HELLO that is acted on does to the head but for its link state. -/
def greetedHead (hello : Hello) (h : Head) : Head := leftLive { h with hello := some hello }

theorem greetedHead_eq (hello : Hello) (h : Head) :
    greetedHead hello h =
      { h with
        hello := some hello
        misses := if h.link = .live then 0 else h.misses
        outstanding := if h.link = .live then [] else h.outstanding } := by
  unfold greetedHead leftLive
  by_cases live : h.link = .live <;> simp only [live, if_true, if_false]

theorem leaveLive_greeted (s : State) (p : Port) (hello : Hello) (g : Head → Head) :
    (leaveLive (s.onHead p fun h => { h with hello := some hello }) p).onHead p g =
      givenUpIfLive (s.onHead p fun h => g (greetedHead hello h)) (headFace s p) p (s.head p) := by
  rw [leaveLive_onHead, onHead_onHead, head_onHead_same, (onHead_onlyHeads s p _).headFace]
  rfl

theorem readyHead_greeted {e : HeadEntry} (he : s.entry p = some e) (hello : Hello) :
    readyHead (s.onHead p fun h => { h with hello := some hello }) p =
      givenUpIfLive
        (s.onHead p fun h => { greetedHead hello h with link := .ready, recovering := h.recovering || h.link == .failed })
        e.face p (s.head p) := by
  have recovering : ∀ h, (greetedHead hello h).recovering = h.recovering := fun h => by rw [greetedHead_eq]
  unfold readyHead
  rw [leaveLive_greeted, headFace_entry he]
  refine congrArg (fun w => givenUpIfLive w _ _ _) (onHead_congr ?_)
  dsimp only
  rw [recovering, head_onHead_same]

theorem mismatchHead_greeted {e : HeadEntry} (he : s.entry p = some e) (hello : Hello) :
    let last := (s.luFace e.face).lastTriggered
    let stamp := (last.map LineRef.stamp).getD s.mu.s0
    let u := givenUpIfLive
      (s.onHead p fun h =>
        { greetedHead hello h with
          link := .failed, recovering := false, failedLine := if h.link = .failed then h.failedLine else last })
      e.face p (s.head p)
    mismatchHead (s.onHead p fun h => { h with hello := some hello }) p e.face hello =
      if s.inspecting then issueFault u .headMismatch (.head p) stamp stamp hello.count.toNat else u := by
  intro last stamp u
  have failedLine : ∀ h, (greetedHead hello h).failedLine = h.failedLine := fun h => by rw [greetedHead_eq]
  have marked : ∀ g, (leaveLive (s.onHead p fun h => { h with hello := some hello }) p).onHead p g =
      givenUpIfLive (s.onHead p fun h => g (greetedHead hello h)) e.face p (s.head p) := fun g => by
    rw [leaveLive_greeted, headFace_entry he]
  have becomes : ((leaveLive (s.onHead p fun h => { h with hello := some hello }) p).onHead p fun h =>
      { h with
        link := .failed
        recovering := false
        failedLine :=
          if ((s.onHead p fun h => { h with hello := some hello }).head p).link = .failed then h.failedLine else last }) = u := by
    refine (marked _).trans (congrArg (fun w => givenUpIfLive w _ _ _) (onHead_congr ?_))
    dsimp only
    rw [failedLine, head_onHead_same]
  unfold mismatchHead
  dsimp only
  rw [show (s.onHead p fun h => { h with hello := some hello }).luFace e.face = s.luFace e.face from rfl, becomes]
  rfl

theorem helloMatches_iff (p : Port) (e : HeadEntry) (hello : Hello) :
    helloMatches p e hello = true ↔ hello.headId.toNat = p.val ∧ hello.count.toNat = e.width := by
  unfold helloMatches
  rw [Bool.and_eq_true, decide_eq_true_eq, decide_eq_true_eq]

theorem receiveHello_taken {packet : Packet} (hf : s.straps.fitted p = true) (hp : helloFramed packet = true) :
    receiveHello s p packet = takeHello s p (helloFields packet) := by
  unfold receiveHello
  rw [if_pos hf, if_pos hp]

theorem takeHello_entered {e : HeadEntry} (he : s.entry p = some e) (hl : (s.head p).link ≠ .absent) (hello : Hello) :
    takeHello s p hello =
      let s1 := s.onHead p fun h => { h with hello := some hello }
      assembleReady (if helloMatches p e hello then readyHead s1 p else mismatchHead s1 p e.face hello) e.face := by
  unfold takeHello
  rw [he]
  exact if_neg hl

theorem takeHello_remembered (h : s.entry p = none ∨ (s.head p).link = .absent) (hello : Hello) :
    takeHello s p hello = s.onHead p fun h => { h with hello := some hello } := by
  unfold takeHello
  dsimp only
  split
  · rfl
  · next e he => exact if_pos (h.resolve_left fun none => by rw [none] at he; cases he)

/-- Settles O23: along the branches of `receiveHello`, the head as it then stands, and the lines it completes. -/
theorem helloReceived : Obligations.HelloReceived := by
  intro p packet s hq
  refine ⟨fun hf => ?_, fun hf hp => ?_, fun hf hp hr => ?_, fun e hf hp he hl => ?_⟩
  · refine exec_onlyStatus rfl ?_ hq.1
    exact if_neg (Bool.eq_false_iff.1 hf)
  · refine exec_onlyStatus (u := receiveHello s p packet) rfl ?_ hq.1
    unfold receiveHello
    rw [if_pos hf, if_neg (Bool.eq_false_iff.1 hp)]
  · exact exec_onlyStatus rfl ((receiveHello_taken hf hp).trans (takeHello_remembered hr _)) hq.1
  · intro left fits answers ready last stamp mismatched reported givenUp
    have greeted : ∀ h, left h = greetedHead (helloFields packet) h := fun h => (greetedHead_eq _ h).symm
    have taken := (receiveHello_taken hf hp).trans (takeHello_entered he hl (helloFields packet))
    have matched : fits → receiveHello s p packet = assembleReady (givenUp ready) e.face := fun hm => by
      rw [taken]
      dsimp only
      rw [if_pos ((helloMatches_iff _ _ _).2 hm), readyHead_greeted he]
      simp only [ready, greeted]
      rfl
    have unmatched : ¬fits → receiveHello s p packet = assembleReady (reported (givenUp mismatched)) e.face := fun hm => by
      rw [taken]
      dsimp only
      rw [if_neg fun k => hm ((helloMatches_iff _ _ _).1 k), mismatchHead_greeted he]
      simp only [mismatched, greeted]
      rfl
    have reports : ∀ w, OnlyReporting w (reported w) := fun w => by
      simp only [reported]
      split
      · exact issueFault_reporting w _ _ _ _ _
      · exact OnlyReporting.refl w
    refine ⟨fun closed => ⟨fun hm => ?_, fun hm hn => ?_⟩, fun v hm hv hlimit => ?_, fun v hm hv hlimit => ?_⟩
    · have stands : givenUp ready = ready := givenUpIfLive_closed (s := ready) closed p (s.head p)
      refine exec_onlyStatus rfl ?_ hq.1
      rw [matched hm, stands]
      exact assembleReady_closed closed
    · have stands : givenUp mismatched = mismatched := givenUpIfLive_closed (s := mismatched) closed p (s.head p)
      refine exec_onlyStatus rfl ?_ ?_
      · rw [unmatched hm, stands]
        exact assembleReady_closed (((reports mismatched).openLines e.face).trans closed)
      · simp only [reported]
        split
        · exact (issue_limitEvent (s := mismatched) hn).trans hq.1
        · exact hq.1
    · exact exec_onlyStatus rfl ((matched hm).trans hv.eq_ready.symm) hlimit
    · exact exec_onlyStatus rfl ((unmatched hm).trans hv.eq_ready.symm) hlimit

/-! ## A line packet (R32 to R34) -/

theorem takeWhile_before {α : Type} {other : α → Bool} {before : List α} {x : α} (after : List α)
    (hb : ∀ y ∈ before, other y = true) (hx : other x = false) :
    (before ++ x :: after).takeWhile other = before ∧ (before ++ x :: after).dropWhile other = x :: after := by
  induction before with
  | nil => simp [hx]
  | cons y rest ih =>
    obtain ⟨taken, dropped⟩ := ih fun z hz => hb z (List.mem_cons_of_mem _ hz)
    simp [hb y (List.mem_cons_self ..), taken, dropped]

/-- R34: the trigger the packet answers and the earlier ones leave the list. -/
theorem filter_answered {earlier rest : List Nat} {n : Nat} (hn : n ∉ rest) (he : ∀ m ∈ rest, m ∉ earlier) :
    ((earlier ++ n :: rest).filter fun m => !earlier.contains m).filter (fun m => m != n) = rest := by
  have dropped : earlier.filter (fun m => !earlier.contains m) = [] :=
    List.filter_eq_nil_iff.2 fun m hm => by simpa using hm
  have stays : rest.filter (fun m => !earlier.contains m) = rest :=
    List.filter_eq_self.2 fun m hm => by simpa using he m hm
  have others : rest.filter (fun m => m != n) = rest :=
    List.filter_eq_self.2 fun m hm => bne_iff_ne.2 fun e => hn (e ▸ hm)
  rw [List.filter_append, dropped, List.nil_append, List.filter_cons]
  split
  · rw [stays, List.filter_cons_of_neg (by simp), others]
  · rw [stays, others]

theorem matchLine_stray {packet : Packet} (h : ∀ n ∈ (s.head p).outstanding, n % 256 ≠ lineTag packet) :
    matchLine s p packet = s.onCounters p fun c => { c with stray := bump16 c.stray } := by
  have all : (s.head p).outstanding.dropWhile (fun n => n % 256 != lineTag packet) = [] :=
    List.dropWhile_eq_nil_iff.2 fun n hn => bne_iff_ne.2 (h n hn)
  unfold matchLine
  dsimp only
  rw [all]

theorem matchLine_kept {packet : Packet} {earlier rest : List Nat} {n : Nat}
    (ho : (s.head p).outstanding = earlier ++ n :: rest) (he : ∀ m ∈ earlier, m % 256 ≠ lineTag packet)
    (ht : n % 256 = lineTag packet) (hn : n ∉ rest) (hr : ∀ m ∈ rest, m ∉ earlier) :
    matchLine s p packet =
      assembleReady
        (givenUpIn
          (s.onHead p fun h =>
            { h with
              outstanding := rest
              buffers := h.buffers ++ [{ line := n, pixels := linePixels packet }]
              counters := { h.counters with received := bump16 h.counters.received } }) (headFace s p) p earlier)
        (headFace s p) := by
  obtain ⟨taken, dropped⟩ := takeWhile_before (other := fun m => m % 256 != lineTag packet) rest
    (fun m hm => bne_iff_ne.2 (he m hm)) (bne_eq_false_iff_eq.2 ht)
  unfold matchLine
  dsimp only
  rw [ho, dropped, taken]
  dsimp only
  rw [giveUp_eq, givenUpIn_onHead, onHead_onHead]
  refine congrArg (fun w => assembleReady (givenUpIn w _ _ _) _) (onHead_congr ?_)
  dsimp only
  rw [ho, filter_answered hn hr]

theorem receiveLine_matched {packet : Packet} (hf : s.straps.fitted p = true)
    (ht : (s.head p).buffers.length < Config.lineBuffers)
    (hframed : lineFramed packet p ((s.entry p).map HeadEntry.width) = true) (hc : lineChecked packet = true)
    (he : echoRight s packet = true) : receiveLine s p packet = matchLine s p packet := by
  unfold receiveLine
  rw [if_pos hf, if_neg (Nat.not_le.2 ht), hframed, hc, he]
  rfl

/-! ## An assembly for which every head has delivered (R35) -/

theorem assembleLine_delivered {line : OpenLine}
    (h : ∀ q ∈ line.expected, ∃ b ∈ (s.head q).buffers, b.line = line.desc.number) {before after : List StreamItem}
    (hs : (s.luFace f).stream = before ++ .opened line :: after) (hb : openLines before = []) :
    assembleLine s f line =
      { s with
        lu :=
          { heads :=
              Vector.ofFn fun q =>
                if q ∈ line.expected then
                  { s.head q with
                    misses := 0
                    buffers := (s.head q).buffers.filter fun b => decide (b.line ≠ line.desc.number) }
                else s.head q
            faces :=
              s.lu.faces.set f
                { s.luFace f with
                  stream := before ++ .line (buildLine s f line.desc) :: after
                  assembled := (s.luFace f).assembled + 1 } } } := by
  have good : ∀ q ∈ line.expected, (goodPacket ((lineBuilt s f line).head q) line.desc.number).isSome = true :=
    fun q hq => (goodPacket_isSome _ _).2 (h q hq)
  obtain ⟨judged, alljudged, eachjudged⟩ :=
    foldl_onHead (g := fun h => { h with misses := 0 }) (fun _ => rfl) line.expected (lineBuilt s f line)
  have freed := foldl_freeBuffers_head line.desc.number line.expected
    { lineBuilt s f line with lu := { (lineBuilt s f line).lu with heads := judged } }
  obtain ⟨heads, all, _⟩ := foldl_onHead (freedHead_freedHead line.desc.number) line.expected
    { lineBuilt s f line with lu := { (lineBuilt s f line).lu with heads := judged } }
  have ends : assembleLine s f line = { lineBuilt s f line with lu := { (lineBuilt s f line).lu with heads := heads } } := by
    rw [assembleLine_eq, foldl_judgeHead_good _ _ _ good, alljudged]
    exact all
  have built : (lineBuilt s f line).lu.faces = s.lu.faces.set f
      { s.luFace f with
        stream := before ++ .line (buildLine s f line.desc) :: after
        assembled := (s.luFace f).assembled + 1 } := by
    rw [← replaceOldest_split _ line after hb, ← hs]
    rfl
  have each : heads = Vector.ofFn fun q =>
      if q ∈ line.expected then
        { s.head q with
          misses := 0
          buffers := (s.head q).buffers.filter fun b => decide (b.line ≠ line.desc.number) }
      else s.head q := by
    refine Vector.ext fun i hi => ?_
    have step : heads[i] = _ := (congrArg (fun w : State => w.head ⟨i, hi⟩) all).symm.trans (freed ⟨i, hi⟩)
    rw [step, Vector.getElem_ofFn]
    have stood : ∀ q, (State.head { lineBuilt s f line with lu := { (lineBuilt s f line).lu with heads := judged } } q) =
        if q ∈ line.expected then { s.head q with misses := 0 } else s.head q := eachjudged
    rw [stood]
    by_cases hm : (⟨i, hi⟩ : Port) ∈ line.expected
    · simp only [hm, if_true, freedHead]
      congr 1
      refine List.filter_congr fun b _ => ?_
      rw [decide_not]
      rfl
    · simp only [hm, if_false]
  calc assembleLine s f line = { s with lu := { heads := heads, faces := (lineBuilt s f line).lu.faces } } := ends
    _ = _ := by rw [built, each]

/-- Settles O24: the checks in their order, the packet that is kept with the lines it completes, and an assembly. -/
theorem linePacketReceived : Obligations.LinePacketReceived := by
  refine ⟨fun p packet s hq => ?_, fun f line s => ⟨lineComplete_iff s line, fun h before after hs hb =>
    assembleLine_delivered h hs hb⟩⟩
  intro taken framed counted
  have run : ∀ g, receiveLine s p packet = s.onCounters p g → counted g := fun g h => exec_onlyStatus rfl h hq.1
  have room : taken → ¬Config.lineBuffers ≤ (s.head p).buffers.length := Nat.not_le.2
  refine ⟨fun hf => ?_, fun hf ht => run _ ?_, fun hf ht hb => run _ ?_, fun hf ht hb hc => run _ ?_,
    fun hf ht hb hc he => run _ ?_, fun hf ht hb hc he ho => run _ ?_, ?_⟩
  · refine exec_onlyStatus rfl ?_ hq.1
    exact if_neg (Bool.eq_false_iff.1 hf)
  · unfold receiveLine
    rw [if_pos hf, if_pos (Nat.not_lt.1 ht)]
  · unfold receiveLine
    rw [if_pos hf, if_neg (room ht), show lineFramed packet p ((s.entry p).map HeadEntry.width) = false from hb]
    rfl
  · unfold receiveLine
    rw [if_pos hf, if_neg (room ht), show lineFramed packet p ((s.entry p).map HeadEntry.width) = true from hb, hc]
    rfl
  · unfold receiveLine
    rw [if_pos hf, if_neg (room ht), show lineFramed packet p ((s.entry p).map HeadEntry.width) = true from hb, hc, he]
    rfl
  · exact (receiveLine_matched hf ht hb hc he).trans (matchLine_stray ho)
  · intro earlier n rest hf ht hb hc he ho hbefore htag hn hr f kept u answers
    have matched : receiveLine s p packet = assembleReady u f :=
      (receiveLine_matched hf ht hb hc he).trans (matchLine_kept ho hbefore htag hn hr)
    refine ⟨fun waits => ?_, fun v hv hl => exec_onlyStatus rfl (matched.trans hv.eq_ready.symm) hl⟩
    exact exec_onlyStatus rfl (matched.trans (assembleComplete_waits f _ u waits)) hq.1

end Sys2Proof.Machine
end

section
/-! SUPPORT. The orders `clear`, `levels` and `headreset`, and the check word. -/

namespace Sys2Proof.Machine

variable {s t u v : State} {f : Face} {p q : Port}

/-! ## The orders of R175 to R177 -/

theorem mem_allPorts : ∀ p : Port, p ∈ allPorts := by decide

/-- R35, R167: assembling a line leaves the batch alone. -/
theorem ReadyAssembled.batch (h : ReadyAssembled f u v) : v.cu.batch = u.cu.batch := by
  induction h with
  | waits => rfl
  | assembles u v line later _ _ _ ih =>
    obtain ⟨_, _, cu⟩ := (assembleLine_onlyHeads u f line).cu
    rw [ih, cu]
    rfl

theorem givenUpIfLive_cu (s : State) (f : Face) (p : Port) (h : Head) : (givenUpIfLive s f p h).cu = s.cu := by
  unfold givenUpIfLive
  split
  · rfl
  · rfl

theorem levelsValid_iff (levels : Vector Byte 8) : levelsValid levels = true ↔ ∀ i : Fin 8, levels[i].toNat ≤ 3 := by
  unfold levelsValid
  rw [List.all_eq_true]
  exact ⟨fun h i => of_decide_eq_true (h i (mem_allPorts i)), fun h i _ => decide_eq_true (h i)⟩

/-- R137: a fault fills the capture when it is empty. -/
theorem captureFault_capture (s : State) (code : FaultCode) :
    (captureFault s code).cu.capture = some { code := code, stamp := s.mu.h } := by
  unfold captureFault
  rw [raise_cu]
  rfl

/-- R31: an ABSENT head has only its remembered HELLO cleared. -/
theorem resetHead_absent (h : (s.head p).link = .absent) : resetHead s p = sendRetrain s p := if_pos h

/-- R31: what `headreset` makes of a head that is not ABSENT. -/
def resetOf (h : Head) : Head :=
  { h with
    hello := none
    link := .waiting
    recovering := false
    misses := 0
    outstanding := if h.link = .live then [] else h.outstanding }

theorem resetOf_eq (h : Head) :
    resetOf h = { leftLive { h with hello := none } with link := .waiting, recovering := false, misses := 0 } := by
  unfold resetOf leftLive
  by_cases live : h.link = .live
  · simp only [live, if_true]
  · simp only [live, if_false]

theorem resetHead_present (h : (s.head p).link ≠ .absent) :
    resetHead s p =
      assembleReady
        (givenUpIfLive ((s.onHead p resetOf).emit (.link p retrainPacket)) (headFace s p) p (s.head p)) (headFace s p) := by
  have greeted : (sendRetrain s p).head p = { s.head p with hello := none } := head_onHead_same s p fun h => { h with hello := none }
  have face : headFace (sendRetrain s p) p = headFace s p := (sendRetrain_onlyHeads s p).headFace p
  have becomes : ((sendRetrain s p).onHead p fun h =>
      { leftLive h with link := .waiting, recovering := false, misses := 0 }) =
      (s.onHead p resetOf).emit (.link p retrainPacket) := by
    rw [show resetOf = _ from funext resetOf_eq]
    exact congrArg (fun w : State => w.emit (.link p retrainPacket)) <|
      onHead_onHead s p (fun h => { h with hello := none })
        fun h => { leftLive h with link := .waiting, recovering := false, misses := 0 }
  unfold resetHead
  dsimp only
  rw [if_neg h, leaveLive_onHead, becomes, face, greeted]
  rfl

theorem orderHeadreset_fitted {head : Word} (hp : head.toNat = p.val) (hf : s.straps.fitted p = true) :
    orderHeadreset s head = (resetHead s p, plainResult .done) := by
  have port : ∀ h, (⟨head.toNat, h⟩ : Port) = p := fun _ => Fin.ext hp
  unfold orderHeadreset
  rw [dif_pos (hp ▸ p.isLt), port, if_pos hf]

theorem orderHeadreset_unfitted {head : Word} (hp : head.toNat = p.val) (hf : s.straps.fitted p = false) :
    orderHeadreset s head = (s, plainResult .badOperand) := by
  have port : ∀ h, (⟨head.toNat, h⟩ : Port) = p := fun _ => Fin.ext hp
  unfold orderHeadreset
  rw [dif_pos (hp ▸ p.isLt), port, if_neg (Bool.eq_false_iff.1 hf)]

theorem orderHeadreset_none {head : Word} (h : 7 < head.toNat) : orderHeadreset s head = (s, plainResult .badOperand) :=
  dif_neg (Nat.not_lt.2 h)

/-- R167: an order that is due ends with what its effect gives, when no limit event was sent. -/
theorem executeOrder_ended {order : Instr} {effect : State → State × OrderResult} {result : OrderResult}
    (hd : orderDue s = some order) (he : effect s = (u, result)) (hb : u.cu.batch = s.cu.batch)
    (hl : u.cu.limitEvent = false) : OrderEnded u result (settle s (executeOrder s order effect)) := by
  rw [executeOrder_due hd, he]
  exact settle_endOrder s result (hb ▸ orderDue_batch hd) hl

/-- Settles O50: along the branches of the three orders; a head that has left LIVE is given up in the lines it owed. -/
theorem clearLevelsHeadreset : Obligations.ClearLevelsHeadreset := by
  intro s hq
  refine ⟨fun hd => ?_, fun levels hd => ⟨fun bad => ?_, fun good => ?_⟩,
    fun head hd => ⟨fun none => ?_, fun p hp => ⟨fun unfitted => ?_, fun fitted => ?_⟩⟩⟩
  · exact ⟨_, rfl, executeOrder_ended hd rfl rfl hq.1, fun code => captureFault_capture _ code⟩
  · have invalid : ¬levelsValid levels = true := fun h => by
      obtain ⟨i, hi⟩ := bad
      exact absurd ((levelsValid_iff levels).1 h i) (Nat.not_le.2 hi)
    exact ⟨_, rfl, executeOrder_ended hd (if_neg invalid) rfl hq.1⟩
  · exact ⟨_, rfl, executeOrder_ended hd (if_pos ((levelsValid_iff levels).2 good)) rfl hq.1⟩
  · exact ⟨_, rfl, executeOrder_ended hd (orderHeadreset_none none) rfl hq.1⟩
  · exact ⟨_, rfl, executeOrder_ended hd (orderHeadreset_unfitted hp unfitted) rfl hq.1⟩
  · intro f reset u answers
    have ends : ∀ w, resetHead s p = w → w.cu.batch = s.cu.batch → w.cu.limitEvent = false → answers w := fun w hw hb hl =>
      ⟨_, rfl, executeOrder_ended hd ((orderHeadreset_fitted hp fitted).trans (by rw [hw])) hb hl⟩
    have present : (s.head p).link ≠ .absent → reset = (s.onHead p resetOf).emit (.link p retrainPacket) := fun h =>
      congrArg (fun w : State => w.emit (.link p retrainPacket)) (onHead_congr (if_neg h))
    have assembled : (s.head p).link ≠ .absent → resetHead s p = assembleReady u f := fun h => by
      rw [resetHead_present h, ← present h]
      rfl
    have absent : (s.head p).link = .absent → answers reset := fun h => by
      refine ends reset ?_ rfl hq.1
      rw [resetHead_absent h]
      exact congrArg (fun w : State => w.emit (.link p retrainPacket)) (onHead_congr (if_pos h).symm)
    refine ⟨fun closed => ?_, absent, fun h v hv hl => ?_⟩
    · by_cases h : (s.head p).link = .absent
      · exact absent h
      · have stands : u = reset := givenUpIfLive_closed (s := reset) closed p (s.head p)
        refine ends reset ?_ rfl hq.1
        rw [assembled h, stands]
        exact assembleReady_closed closed
    · have ready : resetHead s p = v := (assembled h).trans hv.eq_ready.symm
      exact ends v ready (hv.batch.trans (congrArg ControlUnit.batch (givenUpIfLive_cu reset f p (s.head p)))) hl

/-! ## The check word (R26) -/

theorem crcBit_eq (reg : BitVec 16) (bit : Bool) :
    crcBit reg bit = if reg.getLsbD 15 ≠ bit then (reg <<< 1) ^^^ 0x1021#16 else reg <<< 1 := by
  unfold crcBit
  rw [BitVec.msb_eq_getLsbD_last]
  by_cases h : reg.getLsbD 15 = bit
  · rw [if_neg (not_not.2 h), if_neg (by simpa using h)]
  · rw [if_pos h, if_pos (by simpa using h)]

theorem checkWord_append (bytes : List Byte) (byte : Byte) :
    checkWord (bytes ++ [byte]) = crcByte (checkWord bytes) byte := List.foldl_append ..

/-- The two bytes a packet ends with, and the bytes before them. -/
theorem lineChecked_iff {packet : Packet} {body : List Byte} {high low : Byte} (h : packet.bytes = body ++ [high, low]) :
    lineChecked packet = true ↔ 256 * high.toNat + low.toNat = (checkWord body).toNat := by
  have before : packet.bytes.length - 2 = body.length := by rw [h]; simp
  have ending : linkU16 packet.bytes body.length = 256 * high.toNat + low.toNat := by
    unfold linkU16 u8 byteAt
    rw [h]
    simp
  unfold lineChecked
  rw [decide_eq_true_eq, before, ending, h, List.take_left]

/-- Settles O60: by the recursion of `checkWord` over the bytes and of `crcByte` over the bits. -/
theorem checkWord_spec : Obligations.CheckWord := by
  refine ⟨rfl, fun bytes byte => ?_, fun _ _ => rfl, rfl, fun _ _ _ _ h => lineChecked_iff h⟩
  intro enter
  have entered : ∀ reg i, crcBit reg (byte.getLsbD i) = enter reg i := fun reg i => crcBit_eq reg _
  rw [checkWord_append]
  simp only [← entered]
  rfl

end Sys2Proof.Machine
end

section
/-! SUPPORT. A recipe that becomes active: its heads, its face parts, and the end of its load. -/

namespace Sys2Proof.Machine

variable {s t u v : State} {f : Face} {p q : Port}

/-! ## The heads of a recipe that becomes active (R28) -/

/-- R28: the head of a port once a recipe has become active. -/
def activatedHead (p : Port) (entry : Option HeadEntry) (h : Head) : Head :=
  { h with link := activatedLink p entry h.hello, recovering := false, misses := 0 }

theorem foldl_activate (l : List Port) (s : State) :
    ∃ heads : Vector Head 8,
      l.foldl (fun t p => t.onHead p (activatedHead p (t.entry p))) s = { s with lu := { s.lu with heads := heads } } ∧
        ∀ p : Port, heads[p] = if p ∈ l then activatedHead p (s.entry p) (s.head p) else s.head p := by
  induction l generalizing s with
  | nil => exact ⟨s.lu.heads, rfl, fun p => rfl⟩
  | cons p rest ih =>
    obtain ⟨heads, all, each⟩ := ih (s.onHead p (activatedHead p (s.entry p)))
    refine ⟨heads, all, fun q => (each q).trans ?_⟩
    rw [head_onHead, show (s.onHead p (activatedHead p (s.entry p))).entry q = s.entry q from rfl]
    by_cases e : q = p
    · subst e
      rw [if_pos rfl, if_pos (List.mem_cons_self ..)]
      split
      · rfl
      · rfl
    · simp only [List.mem_cons, e, false_or, if_false]

theorem activateHeads_eq (s : State) :
    ∃ heads : Vector Head 8, activateHeads s = { s with lu := { s.lu with heads := heads } } ∧
      ∀ p : Port, heads[p] = activatedHead p (s.entry p) (s.head p) := by
  obtain ⟨heads, all, each⟩ := foldl_activate allPorts s
  exact ⟨heads, all, fun p => (each p).trans (if_pos (mem_allPorts p))⟩

theorem entry_eq_none {sp : SharedPart} (hs : s.shared = some sp)
    (h : sp.heads[p].present = false ∨ s.straps.fitted p = false) : s.entry p = none := by
  unfold State.entry
  rw [hs]
  refine if_neg fun k => ?_
  obtain ⟨present, fitted⟩ := Bool.and_eq_true_iff.1 k
  rcases h with h | h
  · exact Bool.false_ne_true (h.symm.trans present)
  · exact Bool.false_ne_true (h.symm.trans fitted)

theorem entry_eq_some {sp : SharedPart} (hs : s.shared = some sp) (present : sp.heads[p].present = true)
    (fitted : s.straps.fitted p = true) : s.entry p = some sp.heads[p] := by
  unfold State.entry
  rw [hs]
  exact if_pos (Bool.and_eq_true_iff.2 ⟨present, fitted⟩)

theorem activatedLink_matched {e : HeadEntry} {x : Hello} (hid : x.headId.toNat = p.val) (hw : x.count.toNat = e.width) :
    activatedLink p (some e) (some x) = .ready := if_pos ((helloMatches_iff p e x).2 ⟨hid, hw⟩)

theorem activatedLink_unmatched {e : HeadEntry} {x : Hello} (h : x.headId.toNat ≠ p.val ∨ x.count.toNat ≠ e.width) :
    activatedLink p (some e) (some x) = .failed := by
  refine if_neg fun k => ?_
  obtain ⟨hid, hw⟩ := (helloMatches_iff p e x).1 k
  exact h.elim (fun n => n hid) fun n => n hw

/-! ## The recipe (R147, R153 to R155) -/

/-- R154: the Recipe Store once a recipe has become active. -/
def recipeStored (s : State) (slot : BitVec 2) (bytes : List Byte) : State :=
  s.onRs fun r =>
    { r with
      shared := some { part := readShared bytes, slot := slot, id := slotRecipeId bytes }
      faces :=
        { upper :=
            { active := some { part := slotFacePart bytes .upper, slot := slot, id := slotRecipeId bytes }, pending := none }
          lower :=
            { active := some { part := slotFacePart bytes .lower, slot := slot, id := slotRecipeId bytes }, pending := none } } }

theorem recipeStored_shared (s : State) (slot : BitVec 2) (bytes : List Byte) :
    (recipeStored s slot bytes).shared = some (readShared bytes) := rfl

/-- R154: what a recipe that becomes active changes. -/
theorem activateRecipe_eq (s : State) (slot : BitVec 2) (bytes : List Byte) :
    ∃ heads : Vector Head 8,
      activateRecipe s slot bytes =
        { recipeStored s slot bytes with
          lu := { s.lu with heads := heads }
          rx :=
            { upper := { s.rx.upper with inForce := some (slotFacePart bytes .upper) }
              lower := { s.rx.lower with inForce := some (slotFacePart bytes .lower) } }
          mu := { s.mu with stallCount := 0 }
          ku :=
            { s.ku with
              a := cutPulse s.ku.a
              b := cutPulse s.ku.b
              counters := s.ku.counters.withCuts (cutsOf s.ku.a s.ku.b) } } ∧
        ∀ p : Port, heads[p] = activatedHead p ((recipeStored s slot bytes).entry p) (s.head p) := by
  obtain ⟨heads, all, each⟩ := activateHeads_eq (recipeStored s slot bytes)
  refine ⟨heads, ?_, each⟩
  calc activateRecipe s slot bytes
    _ = cutPulses
        ((activateParts (activateHeads (recipeStored s slot bytes)) (slotFacePart bytes .upper)
          (slotFacePart bytes .lower)).onMu fun m => { m with stallCount := 0 }) := rfl
    _ = _ := by
      rw [all, cutPulses_eq]
      rfl

/-- R147, R148: the copy that is judged is what was read. -/
theorem exec_recipeLoadComplete {load : Load} (hl : s.rs.load = some load) (bytes : SlotBytes) :
    let r := judgeRecipe { s with rs := { s.rs with load := none } } load.slot bytes.toList
    exec (.recipeLoadComplete bytes) s = .next (settle s (endOrder r.1 r.2)) := by
  obtain ⟨pending, straps, pins, mu, lu, rx, te, sm, pu, ku, ru, ⟨shared, faces, _⟩, cu, xu, out, free⟩ := s
  subst hl
  rfl

theorem recipeLoad_ended {load : Load} {bytes : SlotBytes} {result : OrderResult} (hl : s.rs.load = some load)
    (hj : judgeRecipe { s with rs := { s.rs with load := none } } load.slot bytes.toList = (u, result))
    (hb : u.cu.batch.isSome) (hlimit : u.cu.limitEvent = false) :
    ∃ t, exec (.recipeLoadComplete bytes) s = .next t ∧ OrderEnded u result t := by
  refine ⟨_, exec_recipeLoadComplete hl bytes, ?_⟩
  rw [hj]
  exact settle_endOrder s result hb hlimit

theorem judgeRecipe_valid {slot : BitVec 2} {bytes : List Byte} (h : validate s.straps bytes = none) :
    judgeRecipe s slot bytes = settleRecipe s slot bytes := by
  unfold judgeRecipe
  rw [h]

theorem judgeRecipe_failed {slot : BitVec 2} {bytes : List Byte} {x : CheckFailure} (h : validate s.straps bytes = some x) :
    judgeRecipe s slot bytes = (s, { code := .refusedRecipe, check := x.code, offset := x.offset }) := by
  unfold judgeRecipe
  rw [h]

theorem settleRecipe_idle (h : s.cu.state = .idle) (slot : BitVec 2) (bytes : List Byte) :
    settleRecipe s slot bytes = (activateRecipe s slot bytes, plainResult .done) := by
  unfold settleRecipe
  rw [h]

theorem settleRecipe_roll (h : s.cu.state = .running ∨ s.cu.state = .stopping) (slot : BitVec 2) (bytes : List Byte) :
    settleRecipe s slot bytes =
      if s.shared = some (readShared bytes) then (pendRecipe s slot bytes, plainResult .accepted)
      else (s, plainResult .refusedShared) := by
  unfold settleRecipe
  rcases h with h | h
  · rw [h]
  · rw [h]

theorem settleRecipe_refused (h : s.cu.state = .closing ∨ s.cu.state = .off) (slot : BitVec 2) (bytes : List Byte) :
    settleRecipe s slot bytes = (s, plainResult .refusedState) := by
  unfold settleRecipe
  rcases h with h | h
  · rw [h]
  · rw [h]

/-- Settles O46: by the outcome of the checks and the inspection state; a recipe that becomes active, field by field. -/
theorem recipeLoadCompletes : Obligations.RecipeLoadCompletes := by
  intro bytes load b s hq hl hb slot loaded source
  have batch : s.cu.batch.isSome := by rw [hb]; rfl
  have ended : ∀ {u result}, judgeRecipe loaded load.slot slot = (u, result) → u.cu = s.cu →
      ∃ t, exec (.recipeLoadComplete bytes) s = .next t ∧ OrderEnded u result t := fun hj hcu =>
    recipeLoad_ended hl hj (hcu ▸ batch) (hcu ▸ hq.1)
  have valid : validate s.straps slot = none → judgeRecipe loaded load.slot slot = settleRecipe loaded load.slot slot :=
    fun h => judgeRecipe_valid (s := loaded) h
  refine ⟨fun x hx => ended (judgeRecipe_failed (s := loaded) hx) rfl, fun hv hi => ?_, fun hv hr hs => ?_, fun hv hr hs => ?_,
    fun hv hc => ended ((valid hv).trans (settleRecipe_refused (s := loaded) hc _ _)) rfl⟩
  · obtain ⟨heads, active, each⟩ := activateRecipe_eq loaded load.slot slot
    have control : (activateRecipe loaded load.slot slot).cu = s.cu := by
      rw [active]
      rfl
    obtain ⟨t, ht, done⟩ := ended ((valid hv).trans (settleRecipe_idle (s := loaded) hi _ _)) control
    obtain ⟨frame, noted⟩ := OrderEnded.frame (b := b) (control ▸ hb) done
    rw [active] at frame
    have head : ∀ p : Port, t.head p = activatedHead p ((recipeStored loaded load.slot slot).entry p) (s.head p) := fun p => by
      rw [State.head, frame.lu]
      exact each p
    refine ⟨t, ht, noted, congrArg RecipeStore.shared frame.rs, congrArg RecipeStore.load frame.rs, congrArg MotionUnit.stallCount frame.mu, fun f => ?_, fun p => ?_, frame.ku, frame.te,
      frame.sm, frame.pu, frame.ru⟩
    · rw [State.rsFace, State.rxFace, frame.rs, frame.rx]
      cases f
      case upper => exact ⟨rfl, rfl, rfl⟩
      case lower => exact ⟨rfl, rfl, rfl⟩
    · rw [head]
      refine ⟨rfl, rfl, rfl, rfl, fun none => ?_, fun present fitted => ⟨fun silent => ?_, fun x hx => ⟨fun hid hw => ?_, fun h => ?_⟩⟩⟩
      · unfold activatedHead
        rw [entry_eq_none (recipeStored_shared loaded load.slot slot) none]
        rfl
      all_goals
        unfold activatedHead
        rw [entry_eq_some (recipeStored_shared loaded load.slot slot) present fitted]
      · rw [silent]
        rfl
      · rw [hx]
        exact activatedLink_matched hid hw
      · rw [hx]
        exact activatedLink_unmatched h
  · exact ended ((valid hv).trans ((settleRecipe_roll (s := loaded) hr _ _).trans (if_pos hs))) rfl
  · exact ended ((valid hv).trans ((settleRecipe_roll (s := loaded) hr _ _).trans (if_neg hs))) rfl

end Sys2Proof.Machine
end

section
/-! SUPPORT. The part right after power-on or part reset: RETRAIN to every fitted port, and the break input. -/

namespace Sys2Proof.Machine

variable {s t u v : State} {f : Face} {p q : Port}

/-- R31: with no HELLO remembered, a RETRAIN is all that is sent to a port. -/
theorem sendRetrain_silent (h : (s.head p).hello = none) : sendRetrain s p = s.emit (.link p retrainPacket) := by
  unfold sendRetrain
  rw [onHead_self (g := fun x : Head => { x with hello := none }) (by rw [← h])]

theorem foldl_retrain (l : List Port) (s : State) (h : ∀ p, (s.head p).hello = none) :
    l.foldl (fun t p => if t.straps.fitted p then sendRetrain t p else t) s =
      { s with out := s.out ++ (l.filter s.straps.fitted).map fun p => .link p retrainPacket } := by
  induction l generalizing s with
  | nil =>
    rw [List.filter_nil, List.map_nil, List.append_nil]
    rfl
  | cons p rest ih =>
    rw [List.foldl_cons]
    by_cases fitted : s.straps.fitted p = true
    · rw [if_pos fitted, sendRetrain_silent (h p), ih (s.emit (.link p retrainPacket)) h, List.filter_cons_of_pos fitted,
        List.map_cons, List.append_cons]
      rfl
    · rw [if_neg fitted, ih s h, List.filter_cons_of_neg fitted]

theorem retrainAll_silent (h : ∀ p, (s.head p).hello = none) :
    retrainAll s = { s with out := s.out ++ (allPorts.filter s.straps.fitted).map fun p => .link p retrainPacket } :=
  foldl_retrain allPorts s h

/-- R191: a cause of level 0 sets its flag alone. -/
theorem raise_silent {c : Cause} (h : s.xu.levels[causeIndex c] = 0) :
    raise s c = { s with xu := { s.xu with flags := setFlag s.xu.flags c } } := by
  have low : ¬s.xu.outstanding < s.xu.levels[causeIndex c] := by
    rw [h]
    exact BitVec.not_lt_zero
  rw [raise_eq, if_neg low, if_neg fun k => low k.1]

/-- R124: the break input becomes active with both outputs IDLE and the flag clear. -/
theorem breakActivated_idle (h : s.ku = MarkUnit.powerOn) (level : s.xu.levels[causeIndex .mark] = 0) :
    let output := if s.straps.twoMarkers then OutState.forced else OutState.idle
    breakActivated s =
      { s with
        ku := { MarkUnit.powerOn with a := output, b := output, breakFlag := true }
        xu := { s.xu with flags := setFlag s.xu.flags .mark } } := by
  have cut : cutPulses s = s := by
    rw [cutPulses_eq, h]
    obtain ⟨pending, straps, pins, mu, lu, rx, te, sm, pu, ku, ru, rs, cu, xu, out, free⟩ := s
    subst h
    rfl
  have clear : ¬s.ku.breakFlag = true := by
    rw [h]
    exact Bool.false_ne_true
  intro output
  unfold breakActivated
  dsimp only
  rw [if_neg clear, cut]
  by_cases two : s.straps.twoMarkers = true
  · have forced : output = .forced := if_pos two
    rw [if_pos two, raise_silent (by exact level), forced]
    simp only [State.onKu, MarkUnit.setOutput, h]
  · have idle : output = .idle := if_neg two
    rw [if_neg two, raise_silent (by exact level), idle]
    simp only [State.onKu, h]
    rfl

/-- R160, R166: every block at its power-on value. -/
def freshPart (straps : Straps) (xbase : BitVec 64) (s : State) : State :=
  { State.powerOn straps s.pins s.xu.message with
    pending := s.pending
    out := s.out
    free := s.free
    xu := ExchangeUnit.powerOn xbase s.xu.message }

theorem freshPart_silent (straps : Straps) (xbase : BitVec 64) (s : State) (p : Port) :
    ((freshPart straps xbase s).head p).hello = none := by
  fin_cases p <;> rfl

/-- R31: what has gone out when RETRAIN has gone to every fitted port. -/
def retrained (s : State) : State :=
  { s with out := s.out ++ (allPorts.filter s.straps.fitted).map fun p => .link p retrainPacket }

theorem markChanged_same {before : State} (hw : s.xu.statusWrite = none) (h : statusFields before = statusFields s) :
    markChanged before s = s := by
  unfold markChanged statusBasis
  rw [hw]
  exact if_pos h

theorem markChanged_differs {before : State} (hw : s.xu.statusWrite = none) (h : statusFields before ≠ statusFields s) :
    markChanged before s = { s with xu := { s.xu with changed := true } } := by
  unfold markChanged statusBasis
  rw [hw]
  exact if_neg h

theorem comeUp_quiet {fresh : State} (h : ∀ p, (fresh.head p).hello = none) (hw : fresh.xu.statusWrite = none)
    (hb : fresh.pins.breakInput = false) : comeUp fresh = retrained fresh := by
  unfold comeUp
  rw [retrainAll_silent h]
  dsimp only
  rw [hb]
  exact markChanged_same hw rfl

theorem comeUp_broken {fresh : State} (h : ∀ p, (fresh.head p).hello = none) (hw : fresh.xu.statusWrite = none)
    (hb : fresh.pins.breakInput = true) (hk : fresh.ku = MarkUnit.powerOn) (level : fresh.xu.levels[causeIndex .mark] = 0) :
    let output := if fresh.straps.twoMarkers then OutState.forced else OutState.idle
    comeUp fresh =
      { retrained fresh with
        ku := { MarkUnit.powerOn with a := output, b := output, breakFlag := true }
        xu := { fresh.xu with flags := setFlag fresh.xu.flags .mark, changed := true } } := by
  intro output
  unfold comeUp
  rw [retrainAll_silent h]
  dsimp only
  rw [hb, if_pos rfl, breakActivated_idle (by exact hk) (by exact level)]
  refine markChanged_differs hw fun same => ?_
  have flag : fresh.ku.breakFlag = true := congrArg StatusFields.breakFlag same
  rw [hk] at flag
  exact Bool.false_ne_true flag

theorem comeUp_freshPart (straps : Straps) (xbase : BitVec 64) (s : State) :
    ComesUp straps xbase s (comeUp (freshPart straps xbase s)) := by
  have silent := freshPart_silent straps xbase s
  unfold ComesUp
  by_cases active : s.pins.breakInput = true
  · have flags : setFlag (freshPart straps xbase s).xu.flags .mark = 0x80#8 := (by decide : setFlag 0 .mark = 0x80#8)
    rw [comeUp_broken silent rfl active rfl rfl, active, flags]
    simp only [true_and, if_true]
    exact ⟨rfl, rfl, rfl, rfl, rfl, rfl, rfl, rfl, rfl, rfl, rfl, rfl, rfl, rfl, rfl, rfl⟩
  · have quiet : s.pins.breakInput = false := Bool.eq_false_iff.2 active
    rw [comeUp_quiet silent rfl quiet, quiet]
    exact ⟨rfl, rfl, rfl, rfl, rfl, rfl, rfl, rfl, rfl, rfl, rfl, rfl, rfl, rfl, rfl, rfl⟩

/-- Settles O13: both commands bring every block to its power-on value; the break input then acts on it. -/
theorem powerOnAndPartReset : Obligations.PowerOnAndPartReset :=
  ⟨fun straps s => ⟨_, rfl, comeUp_freshPart straps 0 s⟩, fun s => ⟨_, rfl, comeUp_freshPart s.straps s.xu.xbase s⟩⟩

end Sys2Proof.Machine
end

section
/-! SUPPORT. A face with no unassembled line keeps its stream and its heads when a limit event closes the roll. -/

namespace Sys2Proof.Machine

variable {s t u v : State} {f g : Face} {p q : Port}

theorem LinesFrom.entry (h : LinesFrom s t) (p : Port) : t.entry p = s.entry p := by
  unfold State.entry State.shared
  rw [h.shared, h.straps]

theorem LinesFrom.headsEntered (h : LinesFrom s t) (k : HeadsEntered s) : HeadsEntered t := by
  intro f line hline
  obtain ⟨old, hold, e⟩ := h.lines f line hline
  rw [e]
  exact ⟨(k f old hold).1, fun p hp => by rw [h.entry]; exact (k f old hold).2 p hp⟩

/-- Between `s` and `t` nothing of a face's stream or heads has changed, nor what its items have been handed on to. -/
structure FaceKept (f : Face) (s t : State) : Prop where
  entry   : ∀ p, t.entry p = s.entry p
  entered : HeadsEntered s → HeadsEntered t
  rx      : t.rx = s.rx
  defects : SameDefects s t
  face    : t.luFace f = s.luFace f
  heads   : HeadsEntered s → ∀ p e, s.entry p = some e → e.face = f → t.head p = s.head p

theorem FaceKept.refl (f : Face) (s : State) : FaceKept f s s :=
  ⟨fun _ => rfl, id, rfl, ⟨rfl, rfl, rfl⟩, rfl, fun _ _ _ _ _ => rfl⟩

theorem FaceKept.trans (h : FaceKept f s t) (k : FaceKept f t u) : FaceKept f s u := by
  obtain ⟨te, sm, pu⟩ := h.defects
  obtain ⟨te', sm', pu'⟩ := k.defects
  exact ⟨fun p => (k.entry p).trans (h.entry p), k.entered ∘ h.entered, k.rx.trans h.rx,
    ⟨te'.trans te, sm'.trans sm, pu'.trans pu⟩, k.face.trans h.face,
    fun entered p e he hf => (k.heads (h.entered entered) p e ((h.entry p).trans he) hf).trans (h.heads entered p e he hf)⟩

/-- Reporting leaves the faces as they are. -/
theorem OnlyReporting.faceKept (h : OnlyReporting s t) (f : Face) : FaceKept f s t := by
  have face := h.luFace
  have head := h.head
  obtain ⟨_, straps, _, ⟨_, _, rx⟩, defects, rs⟩ := h
  have entry : ∀ p, t.entry p = s.entry p := fun p => by
    unfold State.entry State.shared
    rw [rs, straps]
  refine ⟨entry, fun k g line hline => ?_, rx, defects, face f, fun _ p _ _ _ => head p⟩
  rw [face] at hline
  exact ⟨(k g line hline).1, fun p hp => by rw [entry]; exact (k g line hline).2 p hp⟩

theorem onMuFace_faceKept (s : State) (f g : Face) (k : MuFace → MuFace) : FaceKept f s (s.onMuFace g k) :=
  { FaceKept.refl f s with }

theorem closeSkip_faceKept (s : State) (f g : Face) : FaceKept f s (closeSkip s g) :=
  (onMuFace_faceKept s f g _).trans ((issueTally_reporting _ _ _ _).faceKept f)

theorem discardBegun_faceKept (s : State) (f : Face) : FaceKept f s (discardBegun s) := { FaceKept.refl f s with }

theorem discardPending_faceKept (s : State) (f : Face) : FaceKept f s (discardPending s) := { FaceKept.refl f s with }

theorem luFace_eq_of_fields {a b : LuFace} (stream : a.stream = b.stream) (assembled : a.assembled = b.assembled)
    (last : a.lastTriggered = b.lastTriggered) : a = b := by
  cases a
  cases b
  cases stream
  cases assembled
  cases last
  rfl

/-- R35: a line of the other face waits for other heads, and stands in another stream. -/
theorem assembleLine_faceKept (hg : g ≠ f) (closed : openLines (s.luFace f).stream = []) {line : OpenLine}
    (hl : line ∈ openLines (s.luFace g).stream) : FaceKept f s (assembleLine s g line) := by
  have from_ := assembleLine_lines s g line
  have built : (lineBuilt s g line).luFace f = s.luFace f := (lineBuilt_luFace s g f line).trans (if_neg hg.symm)
  obtain ⟨_, _, rx, defects, _, _, faces, streams⟩ := assembleLine_onlyHeads s g line
  refine ⟨from_.entry, from_.headsEntered, rx, defects, ?_, fun entered p e he hf => assembleLine_head_other ?_ s g⟩
  · have stream := (streams f).eq_of_closed (by rw [built]; exact closed)
    obtain ⟨assembled, last⟩ := faces f
    rw [built] at stream assembled last
    exact luFace_eq_of_fields stream assembled last
  · intro hp
    obtain ⟨e', he', hg'⟩ := (entered g line hl).2 p hp
    rw [he] at he'
    obtain rfl := Option.some.inj he'
    exact hg (hg'.symm.trans hf)

theorem assembleOldest_faceKept (hg : g ≠ f) (closed : openLines (s.luFace f).stream = []) :
    FaceKept f s (assembleOldest s g) := by
  unfold assembleOldest
  split
  · exact .refl f s
  · next e => exact assembleLine_faceKept hg closed (by rw [e]; exact List.mem_cons_self ..)

theorem foldl_assembleOldest_faceKept (hg : g ≠ f) (l : List OpenLine) (closed : openLines (s.luFace f).stream = []) :
    FaceKept f s (l.foldl (fun t _ => assembleOldest t g) s) := by
  induction l generalizing s with
  | nil => exact .refl f s
  | cons x rest ih =>
    have first := assembleOldest_faceKept hg closed
    exact first.trans (ih (by rw [first.face]; exact closed))

theorem assembleAll_faceKept (closed : openLines (s.luFace f).stream = []) (g : Face) : FaceKept f s (assembleAll s g) := by
  unfold assembleAll
  by_cases hg : g = f
  · rw [hg, closed]
    exact .refl f s
  · exact foldl_assembleOldest_faceKept hg _ closed

theorem enterClosing_faceKept (closed : openLines (s.luFace f).stream = []) (reason : EndReason) :
    FaceKept f s (enterClosing s reason) := by
  unfold enterClosing
  dsimp only
  split
  · generalize hv : discardBegun _ = v
    have begun : FaceKept f s v := by
      rw [← hv]
      have control : FaceKept f s (s.onCu fun c => { c with state := .closing, endReason := some reason, phase := .waiting }) :=
        { FaceKept.refl f s with }
      exact control.trans (((closeSkip_faceKept _ f .upper).trans (closeSkip_faceKept _ f .lower)).trans
        (discardBegun_faceKept _ f))
    have upper := assembleAll_faceKept (s := v) (by rw [begun.face]; exact closed) .upper
    have lower := assembleAll_faceKept (s := assembleAll v .upper) (f := f)
      (by rw [upper.face, begun.face]; exact closed) .lower
    exact begun.trans (upper.trans (lower.trans ((discardPending_faceKept _ f).trans ((wantStatus_reporting _ _).faceKept f))))
  · exact .refl f s

/-- R4, R163: what the end of a step leaves of a face with no unassembled line. -/
theorem settle_faceKept (before : State) (closed : openLines (s.luFace f).stream = []) : FaceKept f s (settle before s) := by
  have taken : FaceKept f s (takeLimit s) := by
    unfold takeLimit
    split
    · exact { enterClosing_faceKept closed .limit with }
    · exact .refl f s
  obtain ⟨changed, e⟩ := markChanged_eq before (takeLimit s)
  unfold settle
  rw [e]
  exact { taken with }

end Sys2Proof.Machine
end

section
/-! SUPPORT. The assembly of a line: each head it waited for as it is judged, the heads given up in the line after it, the report of a
failed head, and the overdue lines. -/

namespace Sys2Proof.Machine

variable {s t u v : State} {f g : Face} {p q : Port} {desc : LineDesc}

/-! ## The judged heads (R36, R39, R40) -/

/-- R36, R39: what judging at a line makes of a head. -/
def judgedHead (desc : LineDesc) (entry : Option HeadEntry) (h : Head) : Head :=
  if (goodPacket h desc.number).isSome then { h with misses := 0 }
  else if h.link = .live then
    let counted := countedHead desc.stamp (missedHead desc.number h)
    match entry with
    | none => counted
    | some e => if e.missLimit ≤ h.misses + 1 then failedHead desc counted else counted
  else missedHead desc.number h

theorem judgedHead_good {entry : Option HeadEntry} {h : Head} (hg : (goodPacket h desc.number).isSome = true) :
    judgedHead desc entry h = { h with misses := 0 } := if_pos hg

theorem judgedHead_idle {entry : Option HeadEntry} {h : Head} (hg : (goodPacket h desc.number).isSome = false)
    (hl : h.link ≠ .live) : judgedHead desc entry h = missedHead desc.number h := by
  unfold judgedHead
  rw [if_neg (Bool.eq_false_iff.1 hg), if_neg hl]

theorem judgedHead_counts {e : HeadEntry} {h : Head} (hg : (goodPacket h desc.number).isSome = false) (hl : h.link = .live)
    (hm : h.misses + 1 < e.missLimit) :
    judgedHead desc (some e) h = countedHead desc.stamp (missedHead desc.number h) := by
  unfold judgedHead
  rw [if_neg (Bool.eq_false_iff.1 hg), if_pos hl]
  exact if_neg (Nat.not_le.2 hm)

theorem judgedHead_fails {e : HeadEntry} {h : Head} (hg : (goodPacket h desc.number).isSome = false) (hl : h.link = .live)
    (hm : e.missLimit ≤ h.misses + 1) :
    judgedHead desc (some e) h = failedHead desc (countedHead desc.stamp (missedHead desc.number h)) := by
  unfold judgedHead
  rw [if_neg (Bool.eq_false_iff.1 hg), if_pos hl]
  exact if_pos hm

/-- R39: every head without a good packet counts the line as missing. -/
theorem judgedHead_missing {entry : Option HeadEntry} {h : Head} (hg : (goodPacket h desc.number).isSome = false) :
    (judgedHead desc entry h).counters = { h.counters with missing := bump16 h.counters.missing } := by
  by_cases hl : h.link = .live
  · unfold judgedHead
    rw [if_neg (Bool.eq_false_iff.1 hg), if_pos hl]
    dsimp only
    split
    · rfl
    · split
      · rfl
      · rfl
  · rw [judgedHead_idle hg hl]
    rfl

theorem judgedHead_buffers (desc : LineDesc) (entry : Option HeadEntry) (h : Head) :
    (judgedHead desc entry h).buffers = h.buffers := by
  unfold judgedHead
  dsimp only
  split
  · rfl
  · split
    · split
      · rfl
      · split
        · rfl
        · rfl
    · rfl

theorem judgeHead_head (desc : LineDesc) (s : State) (p q : Port) :
    (judgeHead desc s p).head q = if q = p then judgedHead desc (s.entry p) (s.head p) else s.head q := by
  by_cases e : q = p
  · subst e
    rw [if_pos rfl]
    cases good : (goodPacket (s.head q) desc.number).isSome with
    | true => rw [judgeHead_good good, judgedHead_good good, head_onHead_same]
    | false =>
      by_cases live : (s.head q).link = .live
      · have counted := head_onHead_same s q fun h => countedHead desc.stamp (missedHead desc.number h)
        rw [judgeHead_live good live, judgedHead, if_neg (Bool.eq_false_iff.1 good), if_pos live]
        dsimp only
        cases s.entry q with
        | none => exact counted
        | some e =>
          dsimp only
          split
          · rw [failHead_head _ _ _ _ _ (by rw [counted]; exact live), if_pos rfl, counted]
          · exact counted
      · rw [judgeHead_idle good live, judgedHead_idle good live, head_onHead_same]
  · rw [if_neg e, judgeHead_head_other desc s e]

theorem foldl_judgeHead_buffers (desc : LineDesc) (l : List Port) (s : State) (q : Port) :
    ((l.foldl (judgeHead desc) s).head q).buffers = (s.head q).buffers := by
  induction l generalizing s with
  | nil => rfl
  | cons p rest ih =>
    rw [List.foldl_cons, ih, judgeHead_head]
    split
    · next e => rw [judgedHead_buffers, e]
    · rfl

/-- R35: the packets for the line are freed. -/
theorem assembleLine_buffers {line : OpenLine} (hp : p ∈ line.expected) (s : State) (f : Face) :
    ((assembleLine s f line).head p).buffers = (s.head p).buffers.filter fun b => decide (b.line ≠ line.desc.number) := by
  rw [assembleLine_eq, foldl_freeBuffers_head, if_pos hp, freedHead, foldl_judgeHead_buffers]
  refine List.filter_congr fun b _ => ?_
  rw [decide_not]
  rfl

/-- R35, R39: a head the line waited for has been judged as it stood, and then its buffers freed. -/
theorem assembleLine_head_judged {line : OpenLine} (hn : line.expected.Nodup) (hp : p ∈ line.expected) (s : State) (f : Face) :
    (assembleLine s f line).head p = freedHead line.desc.number (judgedHead line.desc (s.entry p) (s.head p)) := by
  obtain ⟨v, only, stood, judged⟩ := assembleLine_head hn hp s f
  rw [judged, judgeHead_head, if_pos rfl, stood, only.entry]
  rfl

/-! ## The line after it (R30) -/

/-- R30: a line with a head given up in it, if its number is one of these. -/
def givenUpLine (p : Port) (numbers : List Nat) (line : OpenLine) : OpenLine :=
  if numbers.contains line.desc.number then { line with givenUp := line.givenUp ++ [p] } else line

theorem mem_givenUpLine (p q : Port) (numbers : List Nat) (line : OpenLine) :
    q ∈ (givenUpLine p numbers line).givenUp ↔ q ∈ line.givenUp ∨ (q = p ∧ line.desc.number ∈ numbers) := by
  unfold givenUpLine
  split
  · next h => simp only [List.mem_append, List.mem_singleton, List.contains_iff_mem.1 h, and_true]
  · next h => simp only [mt List.contains_iff_mem.2 h, and_false, or_false]

theorem givenUpLine_desc (p : Port) (numbers : List Nat) (line : OpenLine) : (givenUpLine p numbers line).desc = line.desc := by
  unfold givenUpLine
  split
  · rfl
  · rfl

theorem openLines_map_giveUpIn (p : Port) (numbers : List Nat) (stream : List StreamItem) :
    openLines (stream.map (giveUpIn p numbers)) = (openLines stream).map (givenUpLine p numbers) := by
  induction stream with
  | nil => rfl
  | cons item rest ih =>
    cases item with
    | opened line =>
      have kept : giveUpIn p numbers (.opened line) = .opened (givenUpLine p numbers line) := by
        unfold giveUpIn givenUpLine
        dsimp only
        split
        · rfl
        · rfl
      rw [List.map_cons, kept]
      exact congrArg (List.cons _) ih
    | _ => exact ih

theorem leaveLive_openLines (hl : (s.head p).link = .live) :
    openLines ((leaveLive s p).luFace (headFace s p)).stream =
      (openLines (s.luFace (headFace s p)).stream).map (givenUpLine p (s.head p).outstanding) := by
  rw [leaveLive_live hl, givenUpIn_eq, luFace_onLuFace, if_pos rfl]
  exact openLines_map_giveUpIn p _ _

theorem failHead_luFace (s : State) (p : Port) (desc : LineDesc) (limit : Nat) (f : Face) :
    (failHead s p desc limit).luFace f = (leaveLive s p).luFace f := by
  unfold failHead
  dsimp only
  split
  · exact (issueFault_reporting _ _ _ _ _ _).luFace f
  · rfl

/-- R30, R39: the one line that waits after the line being assembled, once a head has been judged. -/
theorem judgeHead_givenUp {e : HeadEntry} {x : OpenLine} (he : s.entry p = some e)
    (hs : openLines (s.luFace e.face).stream = [x]) (hn : x.desc.number ≠ desc.number) :
    ∃ y, openLines ((judgeHead desc s p).luFace e.face).stream = [y] ∧ y.desc = x.desc ∧
      ∀ q, q ∈ y.givenUp ↔ q ∈ x.givenUp ∨
        (q = p ∧ (s.head p).link = .live ∧ (judgedHead desc (s.entry p) (s.head p)).link = .failed ∧
          x.desc.number ∈ (s.head p).outstanding) := by
  have stays : ((s.head p).link = .live → (judgedHead desc (s.entry p) (s.head p)).link ≠ .failed) →
      ∀ q, q ∈ x.givenUp ↔ q ∈ x.givenUp ∨
        (q = p ∧ (s.head p).link = .live ∧ (judgedHead desc (s.entry p) (s.head p)).link = .failed ∧
          x.desc.number ∈ (s.head p).outstanding) := fun h q =>
    (or_iff_left fun ⟨_, live, failed, _⟩ => h live failed).symm
  cases good : (goodPacket (s.head p) desc.number).isSome with
  | true =>
    refine ⟨x, by rw [judgeHead_good good]; exact hs, rfl, stays fun live => ?_⟩
    rw [judgedHead_good good]
    exact fun failed => absurd (live.symm.trans failed) (by decide)
  | false =>
    by_cases live : (s.head p).link = .live
    · by_cases reached : e.missLimit ≤ (s.head p).misses + 1
      · have counted : (s.onHead p fun h => countedHead desc.stamp (missedHead desc.number h)).head p = _ :=
          head_onHead_same s p _
        have face : headFace (s.onHead p fun h => countedHead desc.stamp (missedHead desc.number h)) p = e.face :=
          headFace_entry he
        have left := leaveLive_openLines (s := s.onHead p fun h => countedHead desc.stamp (missedHead desc.number h)) (p := p)
          (by rw [counted]; exact live)
        rw [face, counted] at left
        refine ⟨givenUpLine p ((s.head p).outstanding.filter fun n => n != desc.number) x, ?_, givenUpLine_desc _ _ x,
          fun q => (mem_givenUpLine _ _ _ _).trans (or_congr_right (and_congr_right fun _ => ?_))⟩
        · rw [judgeHead_fails good live he reached, failHead_luFace]
          exact left.trans (congrArg (List.map _) hs)
        · rw [he, judgedHead_fails good live reached, List.mem_filter]
          exact ⟨fun ⟨owed, _⟩ => ⟨live, rfl, owed⟩, fun ⟨_, _, owed⟩ => ⟨owed, bne_iff_ne.2 hn⟩⟩
      · refine ⟨x, by rw [judgeHead_counts good live he (Nat.not_le.1 reached)]; exact hs, rfl, stays fun _ => ?_⟩
        rw [he, judgedHead_counts good live (Nat.not_le.1 reached)]
        exact fun failed => absurd (live.symm.trans failed) (by decide)
    · exact ⟨x, by rw [judgeHead_idle good live]; exact hs, rfl, stays fun k => absurd k live⟩

theorem foldl_judgeHead_givenUp {l : List Port} {x : OpenLine} (hnodup : l.Nodup)
    (he : ∀ p ∈ l, ∃ e, s.entry p = some e ∧ e.face = f) (hs : openLines (s.luFace f).stream = [x])
    (hn : x.desc.number ≠ desc.number) :
    ∃ y, openLines ((l.foldl (judgeHead desc) s).luFace f).stream = [y] ∧
      ∀ q, q ∈ y.givenUp ↔ q ∈ x.givenUp ∨
        (q ∈ l ∧ (s.head q).link = .live ∧ (judgedHead desc (s.entry q) (s.head q)).link = .failed ∧
          x.desc.number ∈ (s.head q).outstanding) := by
  induction l generalizing s x with
  | nil => exact ⟨x, hs, fun q => (or_iff_left fun ⟨h, _⟩ => nomatch h).symm⟩
  | cons p rest ih =>
    obtain ⟨fresh, hnodup⟩ := List.nodup_cons.1 hnodup
    obtain ⟨e, hp, rfl⟩ := he p (List.mem_cons_self ..)
    obtain ⟨y, hy, desc_eq, first⟩ := judgeHead_givenUp (desc := desc) hp hs hn
    have only := judgeHead_onlyHeads desc s p
    obtain ⟨z, hz, later⟩ := ih hnodup (fun q hq => by rw [only.entry]; exact he q (List.mem_cons_of_mem _ hq)) hy
      (by rw [desc_eq]; exact hn)
    refine ⟨z, hz, fun q => (later q).trans ?_⟩
    rw [first, desc_eq, or_assoc, only.entry]
    refine or_congr_right ?_
    by_cases same : q = p
    · subst same
      simp only [fresh, false_and, or_false, true_and, List.mem_cons]
    · rw [judgeHead_head, if_neg same]
      simp only [same, false_and, false_or, List.mem_cons]

theorem foldl_freeBuffers_luFace (number : Nat) (l : List Port) (s : State) (f : Face) :
    (l.foldl (freeBuffers number) s).luFace f = s.luFace f := by
  obtain ⟨heads, all, _⟩ := foldl_onHead (freedHead_freedHead number) l s
  exact (congrArg (fun w : State => w.luFace f) all).trans rfl

/-- R35, R36: the one line that waits after the line assembled, but for the heads given up in it. -/
theorem assembleLine_waiting {line next : OpenLine} (h : openLines (s.luFace f).stream = [line, next]) :
    ∃ waiting, openLines ((assembleLine s f line).luFace f).stream = [waiting] ∧ SameLine next waiting := by
  have built : openLines ((lineBuilt s f line).luFace f).stream = [next] := by
    rw [lineBuilt_luFace, if_pos rfl, openLines_replaceOldest_tail, h]
    rfl
  have lines := ((assembleLine_onlyHeads s f line).streams f).openLines
  rw [built] at lines
  obtain ⟨waiting, rest, same, none, all⟩ := List.forall₂_cons_left_iff.1 lines
  rw [List.forall₂_nil_left_iff.1 none] at all
  exact ⟨waiting, all, same⟩

/-- R30: in the line that waits after the line assembled, a head is given up that has failed and owed it. -/
theorem assembleLine_givenUp {line next waiting : OpenLine} (entered : HeadsEntered s)
    (h : openLines (s.luFace f).stream = [line, next]) (hn : next.desc.number ≠ line.desc.number)
    (hw : openLines ((assembleLine s f line).luFace f).stream = [waiting]) (q : Port) :
    q ∈ waiting.givenUp ↔ q ∈ next.givenUp ∨
      ((s.head q).link = .live ∧ ((assembleLine s f line).head q).link = .failed ∧
        next.desc.number ∈ (s.head q).outstanding) := by
  obtain ⟨nodup, heads⟩ := entered f line (by rw [h]; exact List.mem_cons_self ..)
  have built : openLines ((lineBuilt s f line).luFace f).stream = [next] := by
    rw [lineBuilt_luFace, if_pos rfl, openLines_replaceOldest_tail, h]
    rfl
  obtain ⟨y, hy, givenUp⟩ := foldl_judgeHead_givenUp (s := lineBuilt s f line) nodup heads built hn
  rw [assembleLine_eq, foldl_freeBuffers_luFace, hy] at hw
  obtain rfl := List.head_eq_of_cons_eq hw
  refine (givenUp q).trans (or_congr_right ?_)
  by_cases waits : q ∈ line.expected
  · rw [assembleLine_head_judged nodup waits]
    simp only [waits, true_and]
    rfl
  · rw [assembleLine_head_other waits]
    exact ⟨fun ⟨k, _⟩ => absurd k waits, fun ⟨live, failed, _⟩ => absurd (live.symm.trans failed) (by decide)⟩

/-! ## The stream and the count (R35) -/

theorem assembleLine_closes {line : OpenLine} (h : openLines (s.luFace f).stream = [line]) :
    openLines ((assembleLine s f line).luFace f).stream = [] := by
  have count := assembleLine_openCount s f line
  unfold openCount at count
  rw [h] at count
  exact List.length_eq_zero_iff.1 count

theorem assembleLine_assembled (s : State) (f : Face) (line : OpenLine) :
    ((assembleLine s f line).luFace f).assembled = (s.luFace f).assembled + 1 := by
  rw [((assembleLine_onlyHeads s f line).faces f).1, lineBuilt_luFace, if_pos rfl]

theorem exists_openLines_split {line : OpenLine} {later : List OpenLine} {stream : List StreamItem}
    (h : openLines stream = line :: later) :
    ∃ before after, stream = before ++ .opened line :: after ∧ openLines before = [] := by
  induction stream with
  | nil => cases h
  | cons item rest ih =>
    cases item with
    | opened x =>
      obtain ⟨rfl, _⟩ := List.cons.inj h
      exact ⟨[], rest, rfl, rfl⟩
    | _ =>
      obtain ⟨before, after, split, closed⟩ := ih h
      exact ⟨_ :: before, after, congrArg (List.cons _) split, closed⟩

/-- An item that is no unassembled line stays as it is in its place. -/
theorem SameStream.getElem? {xs ys : List StreamItem} (h : SameStream xs ys) {i : Nat} {item : StreamItem}
    (hi : xs[i]? = some item) (ho : ∀ x, item ≠ .opened x) : ys[i]? = some item := by
  induction h generalizing i with
  | nil => cases hi
  | cons first _ ih =>
    cases i with
    | zero =>
      obtain rfl := Option.some.inj hi
      cases first with
      | same => rfl
      | opened line _ => exact absurd rfl (ho line)
    | succ i => exact ih hi

/-- Before the first unassembled line the streams are equal. -/
theorem SameStream.after_closed {before after ys : List StreamItem} (h : SameStream (before ++ after) ys)
    (hb : Machine.openLines before = []) : ∃ rest, ys = before ++ rest ∧ SameStream after rest := by
  induction before generalizing ys with
  | nil => exact ⟨ys, rfl, h⟩
  | cons x xs ih =>
    cases h with
    | cons first others =>
      cases x with
      | opened line => cases hb
      | _ =>
        obtain ⟨rest, rfl, same⟩ := ih others hb
        cases first
        exact ⟨rest, rfl, same⟩

/-- R35: the face line takes the place of the unassembled line, and the items before and after it stand as they were. -/
theorem assembleLine_stream {line : OpenLine} {before after : List StreamItem}
    (hs : (s.luFace f).stream = before ++ .opened line :: after) (hb : openLines before = []) :
    ∃ rest, ((assembleLine s f line).luFace f).stream = before ++ .line (buildLine s f line.desc) :: rest ∧
      SameStream after rest := by
  have same := (assembleLine_onlyHeads s f line).streams f
  rw [lineBuilt_luFace, if_pos rfl, hs, replaceOldest_split _ _ _ hb] at same
  obtain ⟨tail, all, same_tail⟩ := same.after_closed hb
  obtain ⟨item, rest, first, same_rest, rfl⟩ := List.forall₂_cons_left_iff.1 same_tail
  cases first
  exact ⟨rest, all, same_rest⟩

/-! ## The report of a failed head (R39, R137) -/

theorem issue_fault_capture (s : State) (code : FaultCode) (subject : FaultSubject) (first last : Int) (count : Nat) :
    (issueFault s code subject first last count).cu.capture = some { code := code, stamp := s.mu.h } := by
  obtain ⟨ru, place⟩ := placeRecord_frame (takeNumber s).1 (takeNumber s).2 .none (.fault code subject first last count)
  have stamp : (takeNumber s).1.mu.h = s.mu.h := (takeNumber_steady (Steady.refl s)).h
  unfold issueFault issue
  dsimp only
  rw [place, ← stamp]
  exact captureFault_capture _ code

/-- R39: a line that waited for one head, which fails at it. -/
theorem assembleLine_report {line : OpenLine} {e : HeadEntry} (hx : line.expected = [p])
    (hg : (goodPacket (s.head p) line.desc.number).isSome = false) (hl : (s.head p).link = .live) (he : s.entry p = some e)
    (hm : e.missLimit ≤ (s.head p).misses + 1) (hi : s.inspecting = true) :
    let a := assembleLine s f line
    let first := if (s.head p).misses = 0 then line.desc.stamp else (s.head p).firstMiss
    a.ru = (issueFault s .headFailed (.head p) first line.desc.stamp e.missLimit).ru ∧
      a.cu.capture = some { code := .headFailed, stamp := s.mu.h } ∧
      (s.ru.nextSeq ≠ Config.sequenceLimit → a.cu.limitEvent = s.cu.limitEvent) := by
  intro a first
  have counted : ((lineBuilt s f line).onHead p fun h => countedHead line.desc.stamp (missedHead line.desc.number h)).head p =
      countedHead line.desc.stamp (missedHead line.desc.number (s.head p)) := head_onHead_same _ p _
  have fails : ∃ w : State,
      failHead ((lineBuilt s f line).onHead p fun h => countedHead line.desc.stamp (missedHead line.desc.number h)) p
        line.desc e.missLimit = issueFault w .headFailed (.head p) first line.desc.stamp e.missLimit ∧
        w.ru = s.ru ∧ w.mu = s.mu ∧ w.cu = s.cu := by
    unfold failHead
    dsimp only
    rw [leaveLive_live (by rw [counted]; exact hl), counted]
    exact ⟨_, if_pos hi, rfl, rfl, rfl⟩
  obtain ⟨w, failed, ru, mu, cu⟩ := fails
  have ends : a = freeBuffers line.desc.number (issueFault w .headFailed (.head p) first line.desc.stamp e.missLimit) p := by
    rw [← failed, ← judgeHead_fails (s := lineBuilt s f line) hg hl he hm]
    show assembleLine s f line = _
    rw [assembleLine_eq, hx]
    rfl
  rw [ends]
  refine ⟨issue_ru_congr ru (congrArg MotionUnit.h mu) _, ?_, fun hn => ?_⟩
  · rw [← mu]
    exact issue_fault_capture w _ _ _ _ _
  · rw [← cu]
    exact issue_limitEvent (by rw [ru]; exact hn)

end Sys2Proof.Machine
end

section
/-! SUPPORT. What a face line holds: the columns each head owns, from its good packet or as blind ranges that are joined. -/

namespace Sys2Proof.Machine

variable {s : State} {f : Face} {p q : Port}

/-! ## Order -/

theorem sortBy_sorted {α κ : Type} [LinearOrder κ] {after : α → α → Bool} (key : α → κ)
    (ha : ∀ y z, after y z = decide (key z < key y)) (l : List α) :
    (sortBy after l).Pairwise fun a b => key a ≤ key b := by
  have sorted : ∀ acc : List α, (acc.Pairwise fun a b => key a ≤ key b) →
      (l.foldl (fun acc x => insertBy after x acc) acc).Pairwise fun a b => key a ≤ key b := by
    induction l with
    | nil => exact fun _ h => h
    | cons x rest ih => exact fun acc h => ih _ (insertBy_sorted key ha x acc h)
  exact sorted [] .nil

theorem insertBy_perm {α : Type} (after : α → α → Bool) (x : α) (l : List α) : (insertBy after x l).Perm (x :: l) := by
  induction l with
  | nil => exact .refl _
  | cons y ys ih =>
    unfold insertBy
    split
    · exact .refl _
    · exact (ih.cons y).trans (.swap x y ys)

theorem sortBy_perm {α : Type} (after : α → α → Bool) (l : List α) : (sortBy after l).Perm l := by
  have perm : ∀ acc : List α, (l.foldl (fun acc x => insertBy after x acc) acc).Perm (l ++ acc) := by
    induction l with
    | nil => exact fun acc => .refl acc
    | cons x rest ih =>
      exact fun acc => (ih _).trans (((insertBy_perm after x acc).append_left rest).trans List.perm_middle)
  exact (perm []).trans (by rw [List.append_nil])

/-! ## Joined ranges (R37) -/

/-- A range of the list holds the column. -/
def Covers (l : List Range) (c : Nat) : Prop := ∃ b ∈ l, b.lo ≤ c ∧ c ≤ b.hi

theorem covers_cons (r : Range) (l : List Range) (c : Nat) : Covers (r :: l) c ↔ (r.lo ≤ c ∧ c ≤ r.hi) ∨ Covers l c := by
  unfold Covers
  simp only [List.mem_cons, exists_eq_or_imp]

theorem joinRanges_last {r : Range} {rest : List Range} (h : joinRanges rest = []) : joinRanges (r :: rest) = [r] := by
  rw [joinRanges, h]

theorem joinRanges_next {r q : Range} {rest qs : List Range} (h : joinRanges rest = q :: qs) :
    joinRanges (r :: rest) = if q.lo ≤ r.hi + 1 then { lo := r.lo, hi := max r.hi q.hi } :: qs else r :: q :: qs := by
  rw [joinRanges, h]

/-- A joined range begins where one of the ranges does. -/
theorem joinRanges_lo {l : List Range} {q : Range} {qs : List Range} (h : joinRanges l = q :: qs) : ∃ x ∈ l, q.lo = x.lo := by
  cases l with
  | nil => cases h
  | cons r rest =>
    refine ⟨r, List.mem_cons_self .., ?_⟩
    cases joined : joinRanges rest with
    | nil =>
      rw [joinRanges_last joined] at h
      obtain ⟨rfl, _⟩ := List.cons.inj h
      rfl
    | cons x xs =>
      rw [joinRanges_next joined] at h
      split at h
      · obtain ⟨rfl, _⟩ := List.cons.inj h
        rfl
      · obtain ⟨rfl, _⟩ := List.cons.inj h
        rfl

/-- R37: the joined ranges hold the columns the ranges held. -/
theorem covers_joinRanges {l : List Range} (h : l.Pairwise fun a b => a.lo ≤ b.lo) (c : Nat) :
    Covers (joinRanges l) c ↔ Covers l c := by
  induction l with
  | nil => exact Iff.rfl
  | cons r rest ih =>
    obtain ⟨first, sorted⟩ := List.pairwise_cons.1 h
    rw [covers_cons, ← ih sorted]
    cases joined : joinRanges rest with
    | nil => rw [joinRanges_last joined, covers_cons]
    | cons q qs =>
      obtain ⟨x, hx, lo⟩ := joinRanges_lo joined
      have after : r.lo ≤ q.lo := lo ▸ first x hx
      rw [joinRanges_next joined, covers_cons q, ← or_assoc]
      split
      · rw [covers_cons]
        refine or_congr_left ?_
        dsimp only
        omega
      · rw [covers_cons, covers_cons, or_assoc]

/-- R37: between two joined ranges there is a column that neither holds. -/
theorem joinRanges_apart {l : List Range} (h : l.Pairwise fun b d => b.hi < d.lo) (hne : ∀ b ∈ l, b.lo ≤ b.hi) :
    ((joinRanges l).Pairwise fun b d => b.hi + 1 < d.lo) ∧ ∀ b ∈ joinRanges l, b.lo ≤ b.hi := by
  induction l with
  | nil => exact ⟨.nil, fun b hb => nomatch hb⟩
  | cons r rest ih =>
    obtain ⟨first, later⟩ := List.pairwise_cons.1 h
    have filled := hne r (List.mem_cons_self ..)
    obtain ⟨apart, nonempty⟩ := ih later fun b hb => hne b (List.mem_cons_of_mem _ hb)
    cases joined : joinRanges rest with
    | nil =>
      rw [joinRanges_last joined]
      exact ⟨List.pairwise_singleton .., fun b hb => List.mem_singleton.1 hb ▸ filled⟩
    | cons q qs =>
      rw [joinRanges_next joined]
      obtain ⟨x, hx, lo⟩ := joinRanges_lo joined
      have after : r.hi < q.lo := lo ▸ first x hx
      rw [joined] at apart nonempty
      obtain ⟨beyond, others⟩ := List.pairwise_cons.1 apart
      obtain ⟨full, rest_full⟩ := List.forall_mem_cons.1 nonempty
      split
      · have hi : max r.hi q.hi = q.hi := by omega
        rw [hi]
        exact ⟨List.pairwise_cons.2 ⟨beyond, others⟩, List.forall_mem_cons.2 ⟨by dsimp only; omega, rest_full⟩⟩
      · refine ⟨List.pairwise_cons.2 ⟨List.forall_mem_cons.2 ⟨by omega, fun d hd => ?_⟩, apart⟩,
          List.forall_mem_cons.2 ⟨filled, nonempty⟩⟩
        have gap := beyond d hd
        omega

/-! ## Owned columns (R24) -/

theorem ownedSpan_origin (heads : Vector HeadEntry 8) (p : Port) : heads[p].origin ≤ (ownedSpan heads p).1 := by
  have cut : ∀ (full owned : Nat × Nat) (origin width : Nat), owned.1 ≤ (cutOwned full owned origin width).1 :=
    fun full owned origin width => by
      unfold cutOwned
      split
      · exact le_max_left _ _
      · split
        · exact le_rfl
        · exact le_rfl
  have folded : ∀ (l : List Port) (full owned : Nat × Nat) (face : Face), owned.1 ≤
      (l.foldl (fun owned q =>
        if decide (q.val < p.val) && heads[q].present && heads[q].face == face then
          cutOwned full owned heads[q].origin heads[q].width
        else owned) owned).1 := fun l full => by
    induction l with
    | nil => exact fun _ _ => le_rfl
    | cons q rest ih =>
      intro owned face
      rw [List.foldl_cons]
      refine le_trans ?_ (ih _ face)
      split
      · exact cut _ _ _ _
      · exact le_rfl
  exact folded allPorts _ (heads[p].origin, heads[p].origin + heads[p].width) heads[p].face

theorem ownedRange_bounds {heads : Vector HeadEntry 8} {r : Range} (h : ownedRange heads p = some r) :
    heads[p].origin ≤ r.lo ∧ r.lo ≤ r.hi := by
  have origin := ownedSpan_origin heads p
  unfold ownedRange at h
  dsimp only at h
  split at h
  · obtain rfl := Option.some.inj h
    dsimp only
    omega
  · cases h

/-- R24, R37: the port is entered for the face, and this is the range of columns it owns. -/
def Owns (s : State) (f : Face) (p : Port) (r : Range) : Prop :=
  ∃ e, s.entry p = some e ∧ e.face = f ∧ ownedRange s.headTable p = some r

theorem Owns.range_eq {r x : Range} (h : Owns s f p r) (k : Owns s f p x) : r = x := by
  obtain ⟨_, _, _, hr⟩ := h
  obtain ⟨_, _, _, hx⟩ := k
  exact Option.some.inj (hr.symm.trans hx)

theorem Owns.bounds {r : Range} (h : Owns s f p r) : s.headTable[p].origin ≤ r.lo ∧ r.lo ≤ r.hi := by
  obtain ⟨_, _, _, hr⟩ := h
  exact ownedRange_bounds hr

/-- R37: what a port gives the list of owners. -/
def ownerOf (s : State) (f : Face) (p : Port) : Option (Port × Range) :=
  match s.entry p with
  | none => none
  | some e => if e.face = f then (ownedRange s.headTable p).map fun r => (p, r) else none

theorem ownedHeads_eq (s : State) (f : Face) : ownedHeads s f = allPorts.filterMap (ownerOf s f) := rfl

theorem ownerOf_eq_some (o : Port × Range) : ownerOf s f p = some o ↔ o.1 = p ∧ Owns s f p o.2 := by
  unfold ownerOf Owns
  cases s.entry p with
  | none => simp
  | some e =>
    dsimp only
    by_cases face : e.face = f
    · rw [if_pos face, Option.map_eq_some_iff]
      refine ⟨fun ⟨r, hr, ho⟩ => ?_, fun ⟨hp, e', he', _, hr⟩ => ⟨o.2, hr, Prod.ext hp.symm rfl⟩⟩
      subst ho
      exact ⟨rfl, e, rfl, face, hr⟩
    · rw [if_neg face]
      refine ⟨fun h => (nomatch h), fun ⟨_, e', he', hf, _⟩ => ?_⟩
      obtain rfl := Option.some.inj he'
      exact absurd hf face

theorem mem_ownedHeads (o : Port × Range) : o ∈ ownedHeads s f ↔ Owns s f o.1 o.2 := by
  rw [ownedHeads_eq, List.mem_filterMap]
  refine ⟨fun ⟨p, _, h⟩ => ?_, fun h => ⟨o.1, mem_allPorts o.1, (ownerOf_eq_some o).2 ⟨rfl, h⟩⟩⟩
  obtain ⟨hp, owns⟩ := (ownerOf_eq_some o).1 h
  exact hp ▸ owns

theorem ownedHeads_nodup (s : State) (f : Face) : (ownedHeads s f).Nodup := by
  rw [ownedHeads_eq]
  refine List.Nodup.filterMap (fun p q o hp hq => ?_) (by decide : allPorts.Nodup)
  exact ((ownerOf_eq_some o).1 hp).1.symm.trans ((ownerOf_eq_some o).1 hq).1

/-! ## The face line (R37) -/

/-- R37: the owners of a face's columns in increasing column order. -/
def owners (s : State) (f : Face) : List (Port × Range) :=
  sortBy (fun a b => decide (b.2.lo < a.2.lo)) (ownedHeads s f)

/-- R37: the ranges of the owners without a good packet for a line. -/
def blindOwned (s : State) (f : Face) (number : Nat) : List Range :=
  ((owners s f).filter fun o => (goodPacket (s.head o.1) number).isNone).map Prod.snd

theorem buildLine_eq (s : State) (f : Face) (desc : LineDesc) :
    buildLine s f desc =
      { desc := desc
        pixels := (owners s f).filterMap (ownedPixels s desc.number)
        blind := joinRanges (blindOwned s f desc.number) } := rfl

theorem mem_owners (o : Port × Range) : o ∈ owners s f ↔ Owns s f o.1 o.2 :=
  (mem_sortBy _ _ _).trans (mem_ownedHeads o)

theorem owners_sorted (s : State) (f : Face) : (owners s f).Pairwise fun a b => a.2.lo ≤ b.2.lo :=
  sortBy_sorted (fun o : Port × Range => o.2.lo) (fun _ _ => rfl) _

theorem owners_nodup (s : State) (f : Face) : (owners s f).Nodup :=
  (sortBy_perm _ _).nodup_iff.2 (ownedHeads_nodup s f)

theorem mem_blindOwned (number : Nat) (r : Range) :
    r ∈ blindOwned s f number ↔ ∃ p, Owns s f p r ∧ goodPacket (s.head p) number = none := by
  unfold blindOwned
  rw [List.mem_map]
  refine ⟨fun ⟨o, ho, hr⟩ => ?_, fun ⟨p, owns, missing⟩ => ⟨(p, r), List.mem_filter.2 ⟨(mem_owners _).2 owns, ?_⟩, rfl⟩⟩
  · obtain ⟨mem, missing⟩ := List.mem_filter.1 ho
    exact ⟨o.1, hr ▸ (mem_owners o).1 mem, Option.isNone_iff_eq_none.1 missing⟩
  · exact Option.isNone_iff_eq_none.2 missing

/-- R37: the blind columns are those owned by heads without a good packet. -/
theorem covers_blind (desc : LineDesc) (c : Nat) :
    Covers (buildLine s f desc).blind c ↔
      ∃ p r, Owns s f p r ∧ goodPacket (s.head p) desc.number = none ∧ r.lo ≤ c ∧ c ≤ r.hi := by
  have sorted : (blindOwned s f desc.number).Pairwise fun a b => a.lo ≤ b.lo :=
    List.pairwise_map.2 ((owners_sorted s f).filter _)
  refine (covers_joinRanges sorted c).trans ⟨fun ⟨r, hr, held⟩ => ?_, fun ⟨p, r, owns, missing, held⟩ => ?_⟩
  · obtain ⟨p, owns, missing⟩ := (mem_blindOwned desc.number r).1 hr
    exact ⟨p, r, owns, missing, held⟩
  · exact ⟨r, (mem_blindOwned desc.number r).2 ⟨p, owns, missing⟩, held⟩

/-- R24, R37: with no column owned twice, joined blind ranges do not touch. -/
theorem blind_apart (desc : LineDesc)
    (h : ∀ p q r x, Owns s f p r → Owns s f q x → p ≠ q → r.hi < x.lo ∨ x.hi < r.lo) :
    (buildLine s f desc).blind.Pairwise fun b d => b.hi + 1 < d.lo := by
  have filled : ∀ r ∈ blindOwned s f desc.number, r.lo ≤ r.hi := fun r hr => by
    obtain ⟨p, owns, _⟩ := (mem_blindOwned desc.number r).1 hr
    exact owns.bounds.2
  have apart : (owners s f).Pairwise fun a b => a.2.hi < b.2.lo := by
    refine List.Pairwise.imp_of_mem (fun {a b} ha hb both => ?_) ((owners_sorted s f).and (owners_nodup s f))
    obtain ⟨order, differ⟩ := both
    have owns_a := (mem_owners a).1 ha
    have owns_b := (mem_owners b).1 hb
    have ports : a.1 ≠ b.1 := fun e => differ (Prod.ext e (owns_a.range_eq (e ▸ owns_b)))
    have apart := h a.1 b.1 a.2 b.2 owns_a owns_b ports
    have bounds := owns_b.bounds
    omega
  exact (joinRanges_apart (List.pairwise_map.2 (apart.filter _)) filled).1

theorem mem_pixels (desc : LineDesc) (x : PixelSpan) :
    x ∈ (buildLine s f desc).pixels ↔
      ∃ p r b, Owns s f p r ∧ goodPacket (s.head p) desc.number = some b ∧ x.first = r.lo ∧
        x.values = (b.pixels.drop (r.lo - s.headTable[p].origin)).take (r.hi + 1 - r.lo) := by
  have span : ∀ o : Port × Range, ownedPixels s desc.number o = some x ↔
      ∃ b, goodPacket (s.head o.1) desc.number = some b ∧ x.first = o.2.lo ∧
        x.values = (b.pixels.drop (o.2.lo - s.headTable[o.1].origin)).take (o.2.hi + 1 - o.2.lo) := fun o => by
    unfold ownedPixels
    cases goodPacket (s.head o.1) desc.number with
    | none => exact ⟨fun h => (nomatch h), fun ⟨b, h, _⟩ => nomatch h⟩
    | some b =>
      refine ⟨fun h => ⟨b, rfl, ?_⟩, fun ⟨b', hb, first, values⟩ => ?_⟩
      · obtain rfl := Option.some.inj h
        exact ⟨rfl, rfl⟩
      · obtain rfl := Option.some.inj hb
        obtain ⟨_, _⟩ := x
        subst first values
        rfl
  rw [buildLine_eq, List.mem_filterMap]
  refine ⟨fun ⟨o, ho, h⟩ => ?_, fun ⟨p, r, b, owns, h⟩ => ⟨(p, r), (mem_owners _).2 owns, (span _).2 ⟨b, h⟩⟩⟩
  obtain ⟨b, h⟩ := (span o).1 h
  exact ⟨o.1, o.2, b, (mem_owners o).1 ho, h⟩

/-- The value at a column is what every span that holds the column gives for it. -/
theorem pixelAt_eq {pixels : List PixelSpan} {c : Nat} {value : Option Byte}
    (held : ∀ x ∈ pixels, x.first ≤ c → c < x.first + x.values.length → x.values[c - x.first]? = value)
    (absent : (∀ x ∈ pixels, x.first ≤ c → ¬c < x.first + x.values.length) → value = none) :
    pixelAt pixels c = value := by
  unfold pixelAt
  split
  · next none =>
    refine (absent fun x hx first inside => ?_).symm
    refine List.find?_eq_none.1 none x hx ?_
    rw [Bool.and_eq_true, decide_eq_true_eq, decide_eq_true_eq]
    exact ⟨first, inside⟩
  · next x found =>
    have holds := List.find?_some found
    obtain ⟨first, inside⟩ := Bool.and_eq_true_iff.1 holds
    exact held x (List.mem_of_find?_eq_some found) (of_decide_eq_true first) (of_decide_eq_true inside)

/-- The span a packet gives for a range, at a column of the range. -/
theorem ownedValues_getElem? {values : List Byte} {origin lo hi c : Nat} (ho : origin ≤ lo) (hl : lo ≤ c) (hh : c ≤ hi) :
    ((values.drop (lo - origin)).take (hi + 1 - lo))[c - lo]? = values[c - origin]? := by
  have place : lo - origin + (c - lo) = c - origin := by omega
  rw [List.getElem?_take_of_lt (by omega), List.getElem?_drop, place]

/-- R37: the pixel at a column one head owns is that of the head's packet. -/
theorem pixelAt_owned {r : Range} {b : LineBuffer} {c : Nat} (desc : LineDesc) (owns : Owns s f p r)
    (hb : goodPacket (s.head p) desc.number = some b) (hl : r.lo ≤ c) (hh : c ≤ r.hi)
    (only : ∀ q x, Owns s f q x → x.lo ≤ c → c ≤ x.hi → q = p) :
    pixelAt (buildLine s f desc).pixels c = b.pixels[c - s.headTable[p].origin]? := by
  have origin := owns.bounds.1
  refine pixelAt_eq (fun x hx first inside => ?_) fun none => ?_
  · obtain ⟨q, y, d, owns', hd, lo, values⟩ := (mem_pixels desc x).1 hx
    have length : x.values.length ≤ y.hi + 1 - y.lo := values ▸ List.length_take_le ..
    obtain rfl := only q y owns' (lo ▸ first) (by omega)
    obtain rfl := owns.range_eq owns'
    obtain rfl := Option.some.inj (hb.symm.trans hd)
    rw [values, lo]
    exact ownedValues_getElem? origin hl hh
  · have mem : (PixelSpan.mk r.lo ((b.pixels.drop (r.lo - s.headTable[p].origin)).take (r.hi + 1 - r.lo))) ∈
        (buildLine s f desc).pixels := (mem_pixels desc _).2 ⟨p, r, b, owns, hb, rfl, rfl⟩
    have short := none _ mem hl
    rw [← ownedValues_getElem? origin hl hh]
    refine List.getElem?_eq_none ?_
    dsimp only at short
    omega

theorem goodPacket_mem {h : Head} {number : Nat} {b : LineBuffer} (hb : goodPacket h number = some b) :
    b ∈ h.buffers ∧ b.line = number := by
  have line := List.find?_some hb
  exact ⟨List.mem_of_find?_eq_some hb, eq_of_beq line⟩

end Sys2Proof.Machine
end

section
/-! SUPPORT. The line deadline: the overdue lines, and the statement about it. -/

namespace Sys2Proof.Machine

variable {s t u v : State} {f g : Face} {p q : Port}

/-! ## The overdue lines (R36) -/

theorem deadlinePassed_congr {line x : OpenLine} (hs : t.shared = s.shared) (hm : t.mu = s.mu)
    (hx : x.triggerTime = line.triggerTime) : deadlinePassed t x = deadlinePassed s line := by
  unfold deadlinePassed
  rw [hs, hm, hx]

theorem assembleOverdue_closed (n : Nat) (h : openLines (s.luFace f).stream = []) : assembleOverdue n s f = s := by
  cases n with
  | zero => rfl
  | succ n =>
    unfold assembleOverdue
    rw [h]

theorem assembleOverdue_early {line : OpenLine} {later : List OpenLine} (n : Nat)
    (h : openLines (s.luFace f).stream = line :: later) (hd : deadlinePassed s line = false) : assembleOverdue n s f = s := by
  cases n with
  | zero => rfl
  | succ n =>
    unfold assembleOverdue
    rw [h]
    exact if_neg (Bool.eq_false_iff.1 hd)

theorem assembleOverdue_due {line : OpenLine} {later : List OpenLine} (n : Nat)
    (h : openLines (s.luFace f).stream = line :: later) (hd : deadlinePassed s line = true) :
    assembleOverdue (n + 1) s f = assembleOverdue n (assembleReady (assembleLine s f line) f) f := by
  rw [assembleOverdue, h]
  exact if_pos hd

theorem assembleReady_incomplete {line : OpenLine} (h : openLines (s.luFace f).stream = [line])
    (hc : lineComplete s line = false) : assembleReady s f = s := by
  refine assembleComplete_waits f _ s fun x hx => ?_
  rw [h] at hx
  exact Option.some.inj hx ▸ hc

theorem assembleReady_complete {line : OpenLine} (h : openLines (s.luFace f).stream = [line])
    (hc : lineComplete s line = true) : assembleReady s f = assembleLine s f line := by
  rw [assembleReady, h, List.length_singleton, assembleComplete, h]
  exact if_pos hc

/-- R36: one overdue line, and none after it. -/
theorem overdue_last {line : OpenLine} (h : openLines (s.luFace f).stream = [line]) (hd : deadlinePassed s line = true) :
    assembleOverdue 1 s f = assembleLine s f line := by
  rw [assembleOverdue_due 0 h hd]
  exact assembleReady_closed (assembleLine_closes h)

/-- R36: the line after the overdue one is neither complete nor overdue. -/
theorem overdue_waits {line next waiting : OpenLine} (h : openLines (s.luFace f).stream = [line, next])
    (hd : deadlinePassed s line = true) (hw : openLines ((assembleLine s f line).luFace f).stream = [waiting])
    (hc : lineComplete (assembleLine s f line) waiting = false) (he : deadlinePassed (assembleLine s f line) waiting = false) :
    assembleOverdue 2 s f = assembleLine s f line := by
  rw [assembleOverdue_due 1 h hd, assembleReady_incomplete hw hc]
  exact assembleOverdue_early 1 hw he

/-- R35, R36: the line after the overdue one is complete by then, or overdue too. -/
theorem overdue_both {line next waiting : OpenLine} (h : openLines (s.luFace f).stream = [line, next])
    (hd : deadlinePassed s line = true) (hw : openLines ((assembleLine s f line).luFace f).stream = [waiting])
    (hc : lineComplete (assembleLine s f line) waiting = true ∨ deadlinePassed (assembleLine s f line) waiting = true) :
    assembleOverdue 2 s f = assembleLine (assembleLine s f line) f waiting := by
  rw [assembleOverdue_due 1 h hd]
  cases complete : lineComplete (assembleLine s f line) waiting with
  | true =>
    rw [assembleReady_complete hw complete]
    exact assembleOverdue_closed 1 (assembleLine_closes hw)
  | false =>
    rw [assembleReady_incomplete hw complete]
    exact overdue_last hw (hc.resolve_left (Bool.eq_false_iff.1 complete))

theorem OnlyStatus.report (h : OnlyStatus s t) : t.ru = s.ru ∧ t.cu.capture = s.cu.capture := by
  rcases h with rfl | rfl
  · exact ⟨rfl, rfl⟩
  · exact ⟨rfl, rfl⟩

/-- Settles O25: the overdue lines, oldest first; the assembly head by head, the state at the end of the step keeping what the statement
says of the face; and the face line, owner by owner. -/
theorem lineDeadline : Obligations.LineDeadline := by
  refine ⟨fun f s hq => ?_, fun f desc s => ?_, fun h number b hb => goodPacket_mem hb⟩
  · intro answers
    have ends : ∀ v, assembleOverdue (openLines (s.luFace f).stream).length s f = v → v.cu.limitEvent = false → answers v :=
      fun v hv hl => exec_onlyStatus rfl hv hl
    refine ⟨fun closed => ends s (assembleOverdue_closed _ closed) hq.1, fun line later h => ?_⟩
    intro number a judged
    have waited : line ∈ openLines (s.luFace f).stream := by
      rw [h]
      exact List.mem_cons_self ..
    have lines : LinesFrom s a := assembleLine_lines s f line
    have only : OnlyHeads (lineBuilt s f line) a := assembleLine_onlyHeads s f line
    obtain ⟨_, _, split, closed⟩ := exists_openLines_split h
    obtain ⟨_, stream, _⟩ := assembleLine_stream split closed
    have shown : ∀ t, FaceKept f a t →
        (a.cu.limitEvent = s.cu.limitEvent → t.ru = a.ru ∧ t.cu.capture = a.cu.capture) → judged t := fun t kept report => by
      obtain ⟨te, sm, pu⟩ := kept.defects
      obtain ⟨te', sm', pu'⟩ := only.defects
      refine ⟨?_, ?_, kept.rx.trans only.rx, ⟨te.trans te', sm.trans sm', pu.trans pu'⟩, fun entered p hp => ?_⟩
      · rw [kept.face, stream]
        exact List.mem_append_right _ (List.mem_cons_self ..)
      · rw [kept.face]
        exact assembleLine_assembled s f line
      · obtain ⟨nodup, heads⟩ := entered f line waited
        obtain ⟨e, he, hf⟩ := heads p hp
        have head : t.head p = freedHead number (judgedHead line.desc (some e) (s.head p)) :=
          (kept.heads (lines.headsEntered entered) p e ((lines.entry p).trans he) hf).trans
            (he ▸ assembleLine_head_judged nodup hp s f)
        rw [head]
        refine ⟨fun good => ?_, fun bad => judgedHead_missing bad, fun bad idle => ?_, fun e' bad live he' =>
          ⟨fun hm => ?_, fun hm => ?_⟩⟩
        · rw [judgedHead_good good]
          exact ⟨rfl, rfl, rfl⟩
        · rw [judgedHead_idle bad idle]
          exact ⟨rfl, rfl⟩
        · obtain rfl := Option.some.inj (he.symm.trans he')
          rw [judgedHead_counts bad live hm]
          exact ⟨rfl, live, rfl⟩
        · obtain rfl := Option.some.inj (he.symm.trans he')
          rw [judgedHead_fails bad live hm]
          refine ⟨rfl, rfl, rfl, rfl, rfl, fun alone inspecting hn => ?_⟩
          obtain ⟨ru, capture, limit⟩ := assembleLine_report alone bad live he hm inspecting
          obtain ⟨ru', capture'⟩ := report (limit hn)
          exact ⟨ru'.trans ru, capture'.trans capture⟩
    refine ⟨fun hd => ends s (assembleOverdue_early _ h hd) hq.1, fun hd => ⟨fun last => ?_, fun next two limit => ?_⟩,
      shown a (.refl f a) fun _ => ⟨rfl, rfl⟩, fun before after hs hb => ?_, fun p hp => assembleLine_buffers hp s f,
      fun p hp => assembleLine_head_other hp s f⟩
    · rw [last] at h
      have overdue : assembleOverdue (openLines (s.luFace f).stream).length s f = a := by
        rw [h]
        exact overdue_last h hd
      have none_left : openLines (a.luFace f).stream = [] := assembleLine_closes h
      have kept : FaceKept f a (settle s a) := settle_faceKept s none_left
      refine ⟨⟨settle s a, congrArg (fun u => Host.Outcome.next (settle s u)) overdue, by rw [kept.face]; exact none_left,
        shown _ kept fun hl => (settle_onlyStatus s (hl.trans hq.1)).report⟩, ends a overdue⟩
    · rw [two] at h
      obtain ⟨waiting, hw, same⟩ := assembleLine_waiting h
      have trigger : waiting.triggerTime = next.triggerTime := by
        unfold SameLine at same
        rw [same]
      have passed : deadlinePassed a waiting = deadlinePassed s next := deadlinePassed_congr only.shared only.mu trigger
      have count : (openLines (s.luFace f).stream).length = 2 := by
        rw [h]
        rfl
      rw [count] at ends
      refine ⟨waiting, hw, by rw [same], by rw [same], trigger, fun entered hn q => assembleLine_givenUp entered h hn hw q,
        fun hc he => ends a (overdue_waits h hd hw hc (passed.trans he)) limit,
        fun hc => ends _ (overdue_both h hd hw (by rw [passed]; exact hc))⟩
    · obtain ⟨rest, all, kept⟩ := assembleLine_stream hs hb
      exact ⟨rest, all, (List.Forall₂.length_eq kept).symm, fun i item hi ho => kept.getElem? hi ho⟩
  · intro built owns packet
    exact ⟨rfl, covers_blind desc, mem_pixels desc, fun p r b c ho hb hl hh alone => pixelAt_owned desc ho hb hl hh alone,
      blind_apart desc⟩

end Sys2Proof.Machine
end

section
/-! SUPPORT. The candidates of a lane and the groups they form, stated without the scan: neighbours, links, whole runs and what a run
carries; and that a whole run is fixed by any one of its columns. -/

namespace Sys2Proof.Machine

theorem minByte_spec (a b : Byte) : minByte a b ≤ a ∧ minByte a b ≤ b ∧ (minByte a b = a ∨ minByte a b = b) := by
  unfold minByte
  split
  · next h => exact ⟨BitVec.le_refl a, h, .inl rfl⟩
  · next h => exact ⟨(BitVec.le_total a b).resolve_left h, BitVec.le_refl b, .inr rfl⟩

theorem maxByte_spec (a b : Byte) : a ≤ maxByte a b ∧ b ≤ maxByte a b ∧ (maxByte a b = a ∨ maxByte a b = b) := by
  unfold maxByte
  split
  · next h => exact ⟨h, BitVec.le_refl b, .inr rfl⟩
  · next h => exact ⟨BitVec.le_refl a, (BitVec.le_total a b).resolve_left h, .inl rfl⟩

/-- What the statement about runs reads of a lane on a line: its blind columns, its candidates with their values, the class bits of a
value, and the bridge. -/
structure LaneView where
  blind     : Nat → Prop
  candidate : Nat → Byte → Prop
  bits      : Byte → Byte
  bridge    : Nat

namespace LaneView

variable {V : LaneView} {r q : Run} {a b n x y : Nat} {k : Candidate}

/-- A candidate stands at the column. -/
def Bears (V : LaneView) (c : Nat) : Prop := ∃ v, V.candidate c v

/-- R49: two candidates with none between them. -/
def Neighbours (V : LaneView) (a b : Nat) : Prop :=
  a < b ∧ V.Bears a ∧ V.Bears b ∧ ∀ c v, a < c → c < b → ¬V.candidate c v

/-- R49: neighbours that belong to one run. -/
def Linked (V : LaneView) (a b : Nat) : Prop :=
  V.Neighbours a b ∧ b - a - 1 ≤ V.bridge ∧ ∀ c, a < c → c < b → ¬V.blind c

def Within (V : LaneView) (r : Run) (c : Nat) (v : Byte) : Prop := r.first ≤ c ∧ c ≤ r.last ∧ V.candidate c v

/-- R49: a group of linked candidates that nothing before it belongs to. -/
structure Begun (V : LaneView) (r : Run) : Prop where
  order : r.first ≤ r.last
  first : V.Bears r.first
  last  : V.Bears r.last
  inner : ∀ a b, r.first ≤ a → b ≤ r.last → V.Neighbours a b → V.Linked a b
  fresh : ∀ c, ¬V.Linked c r.first

/-- Nothing after the run belongs to it. -/
def Ended (V : LaneView) (r : Run) : Prop := ∀ c, ¬V.Linked r.last c

/-- R50: what a run says of its candidates. -/
structure Carries (V : LaneView) (r : Run) : Prop where
  pixels   : ∃ columns : List Nat, columns.Nodup ∧ (∀ c, c ∈ columns ↔ ∃ v, V.Within r c v) ∧ r.pixels = columns.length
  bits     : ∀ i, r.classBits.getLsbD i = true ↔ ∃ c v, V.Within r c v ∧ (V.bits v).getLsbD i = true
  extremes : ∀ c v, V.Within r c v → r.minValue ≤ v ∧ v ≤ r.maxValue
  least    : ∃ c, V.Within r c r.minValue
  greatest : ∃ c, V.Within r c r.maxValue

/-! ## Neighbours -/

theorem exists_previous {x : Nat} (hx : V.Bears x) (hy : V.Bears y) (hxy : x < y) : ∃ a, x ≤ a ∧ V.Neighbours a y := by
  by_cases between : ∃ z, x < z ∧ z < y ∧ V.Bears z
  · obtain ⟨z, hxz, hzy, hz⟩ := between
    obtain ⟨a, hza, next⟩ := exists_previous hz hy hzy
    exact ⟨a, hxz.le.trans hza, next⟩
  · exact ⟨x, le_rfl, hxy, hx, hy, fun c v h1 h2 hc => between ⟨c, h1, h2, v, hc⟩⟩
termination_by y - x

theorem exists_next {y : Nat} (hx : V.Bears x) (hy : V.Bears y) (hxy : x < y) : ∃ b, b ≤ y ∧ V.Neighbours x b := by
  by_cases between : ∃ z, x < z ∧ z < y ∧ V.Bears z
  · obtain ⟨z, hxz, hzy, hz⟩ := between
    obtain ⟨b, hbz, next⟩ := exists_next hx hz hxz
    exact ⟨b, hbz.trans hzy.le, next⟩
  · exact ⟨y, le_rfl, hxy, hx, hy, fun c v h1 h2 hc => between ⟨c, h1, h2, v, hc⟩⟩
termination_by y - x

theorem Neighbours.left_unique (h : V.Neighbours a y) (h' : V.Neighbours b y) : a = b := by
  obtain ⟨ha, ⟨v, hv⟩, _, gap⟩ := h
  obtain ⟨hb, ⟨w, hw⟩, _, gap'⟩ := h'
  exact le_antisymm (not_lt.1 fun later => gap' a v later ha hv) (not_lt.1 fun later => gap b w later hb hw)

/-! ## Whole runs -/

/-- A group that begins in a run begins where the run does. -/
theorem Begun.first_le (hr : V.Begun r) (hq : V.Begun q) (h : q.first ≤ r.last) : q.first ≤ r.first := by
  by_contra later
  obtain ⟨a, ha, next⟩ := exists_previous hr.first hq.first (not_le.1 later)
  exact hq.fresh a (hr.inner a q.first ha h next)

/-- A group that ends in a run ends where the run does. -/
theorem Begun.le_last (hr : V.Begun r) (hq : V.Begun q) (ended : V.Ended q) (h : r.first ≤ q.last) : r.last ≤ q.last := by
  by_contra later
  obtain ⟨b, hb, next⟩ := exists_next hq.last hr.last (not_le.1 later)
  exact ended b (hr.inner q.last b h hb next)

/-- Two whole runs with a common column have the same columns. -/
theorem Begun.same_columns (hr : V.Begun r) (er : V.Ended r) (hq : V.Begun q) (eq : V.Ended q) (h : q.first ≤ r.last)
    (h' : r.first ≤ q.last) : r.first = q.first ∧ r.last = q.last :=
  ⟨le_antisymm (hq.first_le hr h') (hr.first_le hq h), le_antisymm (hr.le_last hq eq h') (hq.le_last hr er h)⟩

/-- Runs with the same columns carry the same values. -/
theorem Carries.unique (hr : V.Carries r) (hq : V.Carries q) (first : r.first = q.first) (last : r.last = q.last) :
    r.pixels = q.pixels ∧ r.classBits = q.classBits ∧ r.minValue = q.minValue ∧ r.maxValue = q.maxValue := by
  have within : ∀ c v, V.Within r c v ↔ V.Within q c v := fun c v => by
    unfold Within
    rw [first, last]
  obtain ⟨cs, nodup, mem, pixels⟩ := hr.pixels
  obtain ⟨ds, nodup', mem', pixels'⟩ := hq.pixels
  have perm : cs.Perm ds := (List.perm_ext_iff_of_nodup nodup nodup').2 fun c => by simp only [mem, mem', within]
  obtain ⟨_, least⟩ := hr.least
  obtain ⟨_, least'⟩ := hq.least
  obtain ⟨_, greatest⟩ := hr.greatest
  obtain ⟨_, greatest'⟩ := hq.greatest
  refine ⟨pixels.trans (perm.length_eq.trans pixels'.symm), BitVec.eq_of_getLsbD_eq fun i _ => ?_, ?_, ?_⟩
  · rw [Bool.eq_iff_iff, hr.bits, hq.bits]
    simp only [within]
  · exact BitVec.le_antisymm (hr.extremes _ _ ((within _ _).2 least')).1 (hq.extremes _ _ ((within _ _).1 least)).1
  · exact BitVec.le_antisymm (hq.extremes _ _ ((within _ _).1 greatest)).2 (hr.extremes _ _ ((within _ _).2 greatest')).2

/-! ## A run of one candidate, and one candidate more (R50) -/

/-- The column's one candidate. -/
structure Gives (V : LaneView) (n : Nat) (k : Candidate) : Prop where
  bits  : k.bits = V.bits k.value
  value : ∀ v, V.candidate n v ↔ v = k.value

theorem Gives.bears (h : V.Gives n k) : V.Bears n := ⟨k.value, (h.value _).2 rfl⟩

/-- The candidates of a run joined by one more at its end. -/
theorem within_extend (h : V.Gives n k) (order : r.first ≤ r.last) (hn : r.last < n)
    (gap : ∀ c v, r.last < c → c < n → ¬V.candidate c v) (c : Nat) (v : Byte) :
    V.Within (r.extend n k) c v ↔ V.Within r c v ∨ (c = n ∧ v = k.value) := by
  refine ⟨fun ⟨hl, hh, hc⟩ => ?_, fun hw => ?_⟩
  · change c ≤ n at hh
    rcases lt_trichotomy c n with before | rfl | after
    · exact .inl ⟨hl, not_lt.1 fun beyond => gap c v beyond before hc, hc⟩
    · exact .inr ⟨rfl, (h.value v).1 hc⟩
    · omega
  · rcases hw with ⟨hl, hh, hc⟩ | ⟨rfl, hv⟩
    · exact ⟨hl, (hh.trans hn.le : c ≤ n), hc⟩
    · exact ⟨(order.trans hn.le : r.first ≤ c), le_refl c, (h.value v).2 hv⟩

theorem within_single (h : V.Gives n k) (index c : Nat) (v : Byte) :
    V.Within (Run.single index n k) c v ↔ c = n ∧ v = k.value := by
  refine ⟨fun ⟨hl, hh, hc⟩ => ?_, ?_⟩
  · obtain rfl : c = n := le_antisymm hh hl
    exact ⟨rfl, (h.value v).1 hc⟩
  · rintro ⟨rfl, hv⟩
    exact ⟨le_refl c, le_refl c, (h.value v).2 hv⟩

theorem carries_single (h : V.Gives n k) (index : Nat) : V.Carries (Run.single index n k) where
  pixels := ⟨[n], List.nodup_singleton n, fun c => by simp [within_single h], rfl⟩
  bits i := by
    change k.bits.getLsbD i = true ↔ _
    simp only [within_single h, and_assoc, exists_and_left, exists_eq_left, h.bits]
  extremes c v hw := by
    obtain ⟨_, rfl⟩ := (within_single h index c v).1 hw
    exact ⟨BitVec.le_refl _, BitVec.le_refl _⟩
  least := ⟨n, (within_single h index n _).2 ⟨rfl, rfl⟩⟩
  greatest := ⟨n, (within_single h index n _).2 ⟨rfl, rfl⟩⟩

theorem Carries.extend (hr : V.Carries r) (h : V.Gives n k) (order : r.first ≤ r.last) (hn : r.last < n)
    (gap : ∀ c v, r.last < c → c < n → ¬V.candidate c v) : V.Carries (r.extend n k) := by
  have within := within_extend h order hn gap
  have added : V.Within (r.extend n k) n k.value := (within n _).2 (.inr ⟨rfl, rfl⟩)
  have kept : ∀ {c v}, V.Within r c v → V.Within (r.extend n k) c v := fun old => (within _ _).2 (.inl old)
  obtain ⟨min_left, min_right, min_eq⟩ := minByte_spec r.minValue k.value
  obtain ⟨max_left, max_right, max_eq⟩ := maxByte_spec r.maxValue k.value
  obtain ⟨columns, nodup, mem, pixels⟩ := hr.pixels
  obtain ⟨cmin, least⟩ := hr.least
  obtain ⟨cmax, greatest⟩ := hr.greatest
  refine ⟨⟨n :: columns, List.nodup_cons.2 ⟨fun old => ?_, nodup⟩, fun c => ?_, congrArg (· + 1) pixels⟩, fun i => ?_,
    fun c v hw => ?_, ?_, ?_⟩
  · obtain ⟨_, _, hl, _⟩ := (mem n).1 old
    omega
  · simp only [List.mem_cons, mem, within, exists_or, exists_and_left, exists_eq, and_true]
    exact or_comm
  · change (r.classBits ||| k.bits).getLsbD i = true ↔ _
    simp only [BitVec.getLsbD_or, Bool.or_eq_true, hr.bits, h.bits, within, or_and_right, exists_or, and_assoc,
      exists_and_left, exists_eq_left]
  · rcases (within c v).1 hw with old | ⟨_, rfl⟩
    · obtain ⟨low, high⟩ := hr.extremes c v old
      exact ⟨BitVec.le_trans min_left low, BitVec.le_trans high max_left⟩
    · exact ⟨min_right, max_right⟩
  · rcases min_eq with e | e
    · exact ⟨cmin, (congrArg (V.Within _ cmin) e).mpr (kept least)⟩
    · exact ⟨n, (congrArg (V.Within _ n) e).mpr added⟩
  · rcases max_eq with e | e
    · exact ⟨cmax, (congrArg (V.Within _ cmax) e).mpr (kept greatest)⟩
    · exact ⟨n, (congrArg (V.Within _ n) e).mpr added⟩

end LaneView

end Sys2Proof.Machine
end

section
/-! SUPPORT. The scan of a lane: what holds after every column, and the runs it has found at the end. -/

namespace Sys2Proof.Machine

/-! ## What a scan holds before a column (R49, R50) -/

/-- The runs of a scan, with the one that can still grow. -/
def Scan.runs (scan : Scan) : List Run := scan.found ++ scan.current.toList

@[simp] theorem Scan.close_runs (scan : Scan) : scan.close.runs = scan.runs := List.append_nil _

theorem Scan.mem_runs_some {scan : Scan} {q r : Run} (h : scan.current = some r) :
    q ∈ scan.runs ↔ q ∈ scan.found ∨ q = r := by
  rw [Scan.runs, h, List.mem_append, Option.toList_some, List.mem_singleton]

theorem Scan.mem_runs_none {scan : Scan} {q : Run} (h : scan.current = none) : q ∈ scan.runs ↔ q ∈ scan.found := by
  rw [Scan.runs, h, Option.toList_none, List.append_nil]

/-- A run found before the column `n`. -/
structure FoundBefore (V : LaneView) (index n : Nat) (r : Run) : Prop where
  lane    : r.lane = index
  before  : r.last < n
  begun   : V.Begun r
  carries : V.Carries r

theorem FoundBefore.succ {V : LaneView} {index n : Nat} {r : Run} (h : FoundBefore V index n r) :
    FoundBefore V index (n + 1) r := { h with before := Nat.lt_succ_of_lt h.before }

/-- Before the column `n` is taken: the runs hold every candidate before it, and only the growing one may have a candidate linked to its
end. -/
structure ScanOk (V : LaneView) (index n : Nat) (scan : Scan) : Prop where
  ordered : scan.runs.Pairwise fun a b => a.last < b.first
  sound   : ∀ r ∈ scan.runs, FoundBefore V index n r
  covers  : ∀ c v, c < n → V.candidate c v → ∃ r ∈ scan.runs, r.first ≤ c ∧ c ≤ r.last
  ended   : ∀ r ∈ scan.found, V.Ended r
  clear   : ∀ r, scan.current = some r → ∀ c, r.last < c → c < n → ¬V.blind c ∧ ¬V.Bears c

namespace ScanOk

variable {V : LaneView} {index n : Nat} {scan : Scan} {r : Run} {k : Candidate}

theorem start (h : ∀ c v, V.candidate c v → n ≤ c) : ScanOk V index n { current := none, found := [] } where
  ordered := .nil
  sound := nofun
  covers c v hc hv := absurd (h c v hv) (not_le.2 hc)
  ended := nofun
  clear := nofun

/-! ## Closing the growing run -/

theorem close (h : ScanOk V index n scan) (ended : ∀ r, scan.current = some r → V.Ended r) : ScanOk V index n scan.close where
  ordered := scan.close_runs ▸ h.ordered
  sound := scan.close_runs ▸ h.sound
  covers := scan.close_runs ▸ h.covers
  ended q hq := by
    rcases List.mem_append.1 hq with old | grown
    · exact h.ended q old
    · exact ended q (Option.mem_toList.1 grown)
  clear := nofun

theorem sound_current (h : ScanOk V index n scan) (hr : scan.current = some r) : FoundBefore V index n r :=
  h.sound r ((Scan.mem_runs_some hr).2 (.inr rfl))

/-- What is linked to the end of the growing run is not before the column. -/
theorem le_of_linked (h : ScanOk V index n scan) (hr : scan.current = some r) {c : Nat} (linked : V.Linked r.last c) : n ≤ c := by
  obtain ⟨⟨hc, _, bears, _⟩, _⟩ := linked
  exact not_lt.1 fun early => (h.clear r hr c hc early).2 bears

theorem ended_of_blind (h : ScanOk V index n scan) (hr : scan.current = some r) (hn : ¬V.Bears n) (blind : V.blind n) :
    V.Ended r := fun c linked => by
  have late := h.le_of_linked hr linked
  obtain ⟨⟨_, _, bears, _⟩, _, clear⟩ := linked
  rcases late.lt_or_eq with beyond | rfl
  · exact clear n (h.sound_current hr).before beyond blind
  · exact hn bears

theorem ended_of_far (h : ScanOk V index n scan) (hr : scan.current = some r) (hn : V.Bears n) (far : V.bridge < n - r.last - 1) :
    V.Ended r := fun c linked => by
  have late := h.le_of_linked hr linked
  obtain ⟨⟨_, _, _, gap⟩, near, _⟩ := linked
  obtain ⟨v, hv⟩ := hn
  rcases late.lt_or_eq with beyond | rfl
  · exact gap n v (h.sound_current hr).before beyond hv
  · exact not_le.2 far near

theorem ended_of_last (h : ScanOk V index n scan) (hr : scan.current = some r) (last : ∀ c v, V.candidate c v → c < n) :
    V.Ended r := fun c linked => by
  have late := h.le_of_linked hr linked
  obtain ⟨⟨_, _, ⟨v, hv⟩, _⟩, _⟩ := linked
  exact not_lt.2 late (last c v hv)

/-! ## Taking a column -/

/-- A column without candidate changes no run; where it is blind no run may be growing. -/
theorem pass (h : ScanOk V index n scan) (hn : ¬V.Bears n) (hb : V.blind n → scan.current = none) :
    ScanOk V index (n + 1) scan where
  ordered := h.ordered
  sound q hq := (h.sound q hq).succ
  covers c v hc hv := by
    rcases Nat.lt_succ_iff_lt_or_eq.1 hc with old | rfl
    · exact h.covers c v old hv
    · exact absurd ⟨v, hv⟩ hn
  ended := h.ended
  clear q hq c hl hc := by
    rcases Nat.lt_succ_iff_lt_or_eq.1 hc with old | rfl
    · exact h.clear q hq c hl old
    · exact ⟨fun blind => (nomatch hq.symm.trans (hb blind)), hn⟩

/-- With no run growing, the next candidate is linked to none before it. -/
theorem not_linked (h : ScanOk V index n scan) (none : scan.current = none) (c : Nat) : ¬V.Linked c n := fun linked => by
  obtain ⟨⟨hc, ⟨v, hv⟩, _, gap⟩, _⟩ := id linked
  obtain ⟨q, hq, hl, hh⟩ := h.covers c v hc hv
  obtain ⟨w, hw⟩ := (h.sound q hq).begun.last
  rcases hh.lt_or_eq with inside | rfl
  · exact gap q.last w inside (h.sound q hq).before hw
  · exact h.ended q ((Scan.mem_runs_none none).1 hq) n linked

/-- A run that ends at the column `n` takes the place of the growing one, whose columns it holds. -/
theorem grow (h : ScanOk V index n scan) (hl : r.last = n) (hr : FoundBefore V index (n + 1) r)
    (after : ∀ q ∈ scan.found, q.last < r.first) (holds : ∀ q, scan.current = some q → r.first ≤ q.first) :
    ScanOk V index (n + 1) { scan with current := some r } where
  ordered := by
    refine List.pairwise_append.2 ⟨(List.pairwise_append.1 h.ordered).1, List.pairwise_singleton .., fun q hq b hb => ?_⟩
    obtain rfl := List.mem_singleton.1 hb
    exact after q hq
  sound q hq := by
    rcases (Scan.mem_runs_some rfl).1 hq with old | rfl
    · exact (h.sound q (List.mem_append_left _ old)).succ
    · exact hr
  covers c v hc hv := by
    have new : r ∈ Scan.runs { scan with current := some r } := (Scan.mem_runs_some rfl).2 (.inr rfl)
    rcases Nat.lt_succ_iff_lt_or_eq.1 hc with old | rfl
    · obtain ⟨q, hq, first, last⟩ := h.covers c v old hv
      rcases List.mem_append.1 hq with found | grown
      · exact ⟨q, List.mem_append_left _ found, first, last⟩
      · exact ⟨r, new, (holds q (Option.mem_toList.1 grown)).trans first, hl ▸ old.le⟩
    · exact ⟨r, new, hl ▸ hr.begun.order, hl.ge⟩
  ended := h.ended
  clear q hq c hlc hc := by
    obtain rfl := Option.some.inj hq
    exact absurd (Nat.le_of_lt_succ hc) (not_le.2 (hl ▸ hlc))

/-- A candidate with no run growing begins one. -/
theorem begin_run (h : ScanOk V index n scan) (none : scan.current = none) (g : V.Gives n k) :
    ScanOk V index (n + 1) { scan with current := some (Run.single index n k) } := by
  refine h.grow rfl ⟨rfl, Nat.lt_succ_self n, ?_, LaneView.carries_single g index⟩ (fun q hq => ?_)
    (fun q hq => nomatch none.symm.trans hq)
  · exact
      { order := le_refl n
        first := g.bears
        last := g.bears
        inner := fun a b ha hb ⟨hab, _⟩ => absurd (hab.trans_le hb) (not_lt.2 ha)
        fresh := h.not_linked none }
  · exact (h.sound q (List.mem_append_left _ hq)).before

/-- A candidate within the bridge of the growing run joins it. -/
theorem join_run (h : ScanOk V index n scan) (hr : scan.current = some r) (g : V.Gives n k) (near : n - r.last - 1 ≤ V.bridge) :
    ScanOk V index (n + 1) { scan with current := some (r.extend n k) } := by
  obtain ⟨lane, before, begun, carries⟩ := h.sound_current hr
  have gap : ∀ c v, r.last < c → c < n → ¬V.candidate c v := fun c v hl hc hv => (h.clear r hr c hl hc).2 ⟨v, hv⟩
  have next : V.Neighbours r.last n := ⟨before, begun.last, g.bears, gap⟩
  refine h.grow rfl ⟨lane, Nat.lt_succ_self n, ?_, carries.extend g begun.order before gap⟩ (fun q hq => ?_) (fun q hq => ?_)
  · refine ⟨begun.order.trans before.le, begun.first, g.bears, fun a b ha hb two => ?_, begun.fresh⟩
    rcases (show b ≤ n from hb).lt_or_eq with early | rfl
    · obtain ⟨_, _, ⟨v, hv⟩, _⟩ := id two
      exact begun.inner a b ha (not_lt.1 fun late => gap b v late early hv) two
    · obtain rfl := two.left_unique next
      exact ⟨two, near, fun c hl hc => (h.clear r hr c hl hc).1⟩
  · exact (List.pairwise_append.1 h.ordered).2.2 q hq r (Option.mem_toList.2 hr)
  · exact (congrArg Run.first (Option.some.inj (hr.symm.trans hq))).le

end ScanOk

/-! ## The scan of a lane (R48, R49) -/

/-- R45, R47: the class bits that the lane's mask leaves of a pixel value. -/
def laneBits (part : FacePart) (line : FaceLine) (index : Nat) (value : Byte) : Byte :=
  tableClass part line.desc.lighting value &&& (part.lane index).mask line.desc.sect line.desc.lighting

/-- R48: the lane on the line, `bits` giving the class bits. -/
def bitsView (part : FacePart) (line : FaceLine) (index : Nat) (bits : Byte → Byte) : LaneView where
  blind := Covers line.blind
  candidate c v :=
    (part.lane index).first ≤ c ∧ c ≤ (part.lane index).last ∧ ¬Covers line.blind c ∧ pixelAt line.pixels c = some v ∧
      bits v ≠ 0
  bits := bits
  bridge := (part.lane index).bridge

/-- R48: the lane on the line as the scan sees it. -/
def laneView (part : FacePart) (line : FaceLine) (index : Nat) : LaneView :=
  bitsView part line index (laneBits part line index)

theorem isBlind_iff (blind : List Range) (c : Nat) : isBlind blind c = true ↔ Covers blind c := by
  simp only [isBlind, Range.holds, List.any_eq_true, Bool.and_eq_true, decide_eq_true_eq, Covers]

section

variable {part : FacePart} {line : FaceLine} {index n : Nat} {k : Candidate}

theorem candidateAt_none (h : candidateAt part line ((part.lane index).mask line.desc.sect line.desc.lighting) n = none) :
    ¬(laneView part line index).Bears n := by
  rintro ⟨v, _, _, _, hv, hbits⟩
  unfold candidateAt at h
  rw [hv] at h
  exact nomatch (if_neg hbits).symm.trans h

theorem candidateAt_some (h : candidateAt part line ((part.lane index).mask line.desc.sect line.desc.lighting) n = some k)
    (first : (part.lane index).first ≤ n) (last : n ≤ (part.lane index).last) (clear : ¬Covers line.blind n) :
    (laneView part line index).Gives n k := by
  unfold candidateAt at h
  split at h
  · cases h
  · next value hv =>
    dsimp only at h
    split at h
    · cases h
    · next hbits =>
      obtain rfl := Option.some.inj h
      refine ⟨rfl, fun v => ⟨fun ⟨_, _, _, hv', _⟩ => Option.some.inj (hv'.symm.trans hv), ?_⟩⟩
      rintro rfl
      exact ⟨first, last, clear, hv, hbits⟩

/-- R49: a column of the lane keeps what a scan holds, along the branches of `scanColumn`. -/
theorem ScanOk.scanColumn {scan : Scan} (h : ScanOk (laneView part line index) index n scan)
    (first : (part.lane index).first ≤ n) (last : n ≤ (part.lane index).last) :
    ScanOk (laneView part line index) index (n + 1)
      (scanColumn part line index (part.lane index) ((part.lane index).mask line.desc.sect line.desc.lighting) scan n) := by
  unfold Machine.scanColumn
  split
  · next blind =>
    have covered := (isBlind_iff line.blind n).1 blind
    have idle : ¬(laneView part line index).Bears n := fun ⟨_, _, _, clear, _⟩ => clear covered
    exact (h.close fun r hr => h.ended_of_blind hr idle covered).pass idle fun _ => rfl
  · next blind =>
    have clear : ¬Covers line.blind n := fun covered => blind ((isBlind_iff line.blind n).2 covered)
    split
    · next none => exact h.pass (candidateAt_none none) fun covered => absurd covered clear
    · next k found =>
      have gives := candidateAt_some found first last clear
      split
      · next none => exact h.begin_run none gives
      · next r hr =>
        split
        · next near => exact h.join_run hr gives near
        · next far =>
          have closed := h.close fun q hq => by
            obtain rfl := Option.some.inj (hr.symm.trans hq)
            exact h.ended_of_far hr gives.bears (not_le.1 far)
          exact closed.begin_run rfl gives

/-! ## The runs of a lane (R49 to R52) -/

/-- What the scan of a lane holds behind its last column. -/
def laneScan (part : FacePart) (line : FaceLine) (index : Nat) : Scan :=
  (part.lane index).columns.foldl
    (Machine.scanColumn part line index (part.lane index) ((part.lane index).mask line.desc.sect line.desc.lighting))
    { current := none, found := [] }

theorem laneRuns_eq (part : FacePart) (line : FaceLine) (index : Nat) :
    laneRuns part line index =
      ((laneScan part line index).runs.filter fun r => decide ((part.lane index).minWidth ≤ r.width)).map fun r =>
        { r with blindEdge := touchesBlind line.blind (part.lane index) r } := rfl

/-- The scan of a lane has taken every candidate of it, and no run it holds can grow. -/
theorem laneScan_ok (part : FacePart) (line : FaceLine) (index : Nat) :
    ∃ n, (∀ c v, (laneView part line index).candidate c v → c < n) ∧
      ScanOk (laneView part line index) index n (laneScan part line index) ∧
      ∀ r ∈ (laneScan part line index).runs, (laneView part line index).Ended r := by
  have scanned : ∀ count, count ≤ (part.lane index).last + 1 - (part.lane index).first →
      ScanOk (laneView part line index) index ((part.lane index).first + count)
        ((List.range' (part.lane index).first count).foldl
          (Machine.scanColumn part line index (part.lane index) ((part.lane index).mask line.desc.sect line.desc.lighting))
          { current := none, found := [] }) := by
    intro count
    induction count with
    | zero => exact fun _ => .start fun c v ⟨first, _⟩ => first
    | succ count ih =>
      intro fits
      rw [List.range'_1_concat, List.foldl_append]
      exact (ih (by omega)).scanColumn (by omega) (by omega)
  have ok := scanned _ le_rfl
  have all : ∀ c v, (laneView part line index).candidate c v →
      c < (part.lane index).first + ((part.lane index).last + 1 - (part.lane index).first) := fun c v ⟨first, last, _⟩ => by omega
  exact ⟨_, all, ok, (ok.close fun r hr => ok.ended_of_last hr all).ended⟩

/-- R49, R52: the runs of a lane go from low columns to high. -/
theorem laneRuns_ordered (part : FacePart) (line : FaceLine) (index : Nat) :
    (laneRuns part line index).Pairwise fun a b => a.last < b.first := by
  obtain ⟨n, _, ok, _⟩ := laneScan_ok part line index
  rw [laneRuns_eq]
  exact List.pairwise_map.2 (ok.ordered.filter _)

/-- R49 to R52: the runs of a lane are the whole groups of its candidates that are wide enough, each with what it carries. -/
theorem mem_laneRuns {bits : Byte → Byte} (hbits : bits = laneBits part line index) (r : Run) :
    r ∈ laneRuns part line index ↔
      r.lane = index ∧ (bitsView part line index bits).Begun r ∧ (bitsView part line index bits).Ended r ∧
        (bitsView part line index bits).Carries r ∧ r.blindEdge = touchesBlind line.blind (part.lane index) r ∧
        (part.lane index).minWidth ≤ r.width := by
  subst hbits
  obtain ⟨n, all, ok, last_ended⟩ := laneScan_ok part line index
  rw [laneRuns_eq, List.mem_map]
  refine ⟨fun ⟨q, hq, e⟩ => ?_, fun ⟨lane, begun, ended, carries, edge, wide⟩ => ?_⟩
  · obtain ⟨found, wide⟩ := List.mem_filter.1 hq
    obtain ⟨lane, _, begun, carries⟩ := ok.sound q found
    subst e
    exact ⟨lane, ⟨begun.order, begun.first, begun.last, begun.inner, begun.fresh⟩, last_ended q found,
      ⟨carries.pixels, carries.bits, carries.extremes, carries.least, carries.greatest⟩, rfl, of_decide_eq_true wide⟩
  · obtain ⟨v, hv⟩ := begun.first
    obtain ⟨q, hq, first, last⟩ := ok.covers r.first v (all _ v hv) hv
    obtain ⟨lane', _, begun', carries'⟩ := ok.sound q hq
    obtain ⟨same_first, same_last⟩ := begun'.same_columns (last_ended q hq) begun ended last (first.trans begun.order)
    obtain ⟨pixels, bits, least, greatest⟩ := carries'.unique carries same_first same_last
    have same_edge : touchesBlind line.blind (part.lane index) q = touchesBlind line.blind (part.lane index) r := by
      unfold touchesBlind
      rw [same_first, same_last]
    refine ⟨q, List.mem_filter.2 ⟨hq, decide_eq_true ?_⟩, (Run.mk.injEq ..).mpr
      ⟨lane'.trans lane.symm, same_first, same_last, pixels, bits, least, greatest, same_edge.trans edge.symm⟩⟩
    rwa [Run.width, same_first, same_last]

/-- R51: the blind columns that set BLIND_EDGE. -/
theorem touchesBlind_iff (blind : List Range) (lane : Lane) (r : Run) :
    touchesBlind blind lane r = true ↔
      ∃ c, Covers blind c ∧
        (lane.first ≤ c ∧ c < r.first ∧ r.first ≤ c + lane.bridge + 1 ∨
          r.last < c ∧ c ≤ r.last + lane.bridge + 1 ∧ c ≤ lane.last) := by
  simp only [touchesBlind, List.any_eq_true, List.mem_range, Bool.or_eq_true, Bool.and_eq_true, decide_eq_true_eq, isBlind_iff]
  constructor
  · rintro ⟨i, near, ⟨inside, covered⟩ | ⟨inside, covered⟩⟩
    · exact ⟨_, covered, .inl (by omega)⟩
    · exact ⟨_, covered, .inr (by omega)⟩
  · rintro ⟨c, covered, ⟨inside, below, near⟩ | ⟨above, near, inside⟩⟩
    · refine ⟨r.first - c - 1, by omega, .inl ⟨by omega, ?_⟩⟩
      rwa [show r.first - (r.first - c - 1) - 1 = c by omega]
    · refine ⟨c - r.last - 1, by omega, .inr ⟨by omega, ?_⟩⟩
      rwa [show r.last + (c - r.last - 1) + 1 = c by omega]

end

end Sys2Proof.Machine
end

section
/-! SUPPORT. The item a face hands on next, the line item of a line, and the statement about them and about runs. -/

namespace Sys2Proof.Machine

variable {s : State} {f : Face}

/-! ## The next item (R38, R57) -/

/-- R38: only an unassembled line holds the stream. -/
theorem nextItem_cons {item : StreamItem} (h : ∀ line, item ≠ .opened line) (rest : List StreamItem) :
    nextItem (item :: rest) = some item := by
  cases item with
  | opened line => exact absurd rfl (h line)
  | patchEnd _ => rfl
  | patchStart _ => rfl
  | spliceClosure => rfl
  | skipped _ => rfl
  | line _ => rfl

theorem takeItem_none (h : nextItem (s.luFace f).stream = none) : takeItem s f = s := by
  unfold takeItem
  rw [h]

theorem takeItem_cons {item : StreamItem} {rest : List StreamItem} (h : (s.luFace f).stream = item :: rest)
    (hi : ∀ line, item ≠ .opened line) :
    takeItem s f =
      { s with
        lu := { s.lu with faces := s.lu.faces.set f { s.luFace f with stream := rest } }
        rx := s.rx.set f (extractItem (s.rxFace f) item) } := by
  have next : nextItem (s.luFace f).stream = some item := by rw [h, nextItem_cons hi]
  have tail : { s.luFace f with stream := (s.luFace f).stream.tail } = { s.luFace f with stream := rest } := by
    rw [h, List.tail_cons]
  unfold takeItem
  rw [next, ← tail]
  rfl

/-- R57: the command that takes an item of a kind other than an unassembled line. -/
theorem exec_rxTakeItem_cons {item : StreamItem} {rest : List StreamItem} (hq : Quiescent s)
    (hi : ∀ line, item ≠ .opened line) (h : (s.luFace f).stream = item :: rest) :
    ∃ t, exec (.rxTakeItem f) s = .next t ∧
      OnlyStatus
        { s with
          lu := { s.lu with faces := s.lu.faces.set f { s.luFace f with stream := rest } }
          rx := s.rx.set f (extractItem (s.rxFace f) item) } t :=
  exec_onlyStatus rfl (takeItem_cons h hi) hq.1

/-! ## The line item (R53 to R55) -/

theorem lineRuns_none {line : FaceLine} (part : FacePart) (h : line.desc.excluded = true ∨ line.desc.sect = .wait) :
    lineRuns part line = [] := by
  unfold lineRuns
  rw [if_pos]
  rcases h with h | h
  · rw [h, Bool.true_or]
  · rw [h, Bool.or_eq_true]
    exact .inr rfl

theorem lineRuns_all {line : FaceLine} (part : FacePart) (h : line.desc.excluded = false) (hs : line.desc.sect ≠ .wait) :
    lineRuns part line = ((List.range part.lanes.length).map (laneRuns part line)).flatten := by
  unfold lineRuns
  rw [if_neg]
  rw [h, Bool.false_or]
  exact fun e => hs (eq_of_beq e)

/-! ## The pixel at a column -/

/-- The pixel of a column is that of the first span that holds the column. -/
theorem pixelAt_append {before : List PixelSpan} {x : PixelSpan} {c : Nat} (after : List PixelSpan)
    (hb : ∀ y ∈ before, ¬(y.first ≤ c ∧ c < y.first + y.values.length))
    (hx : x.first ≤ c ∧ c < x.first + x.values.length) : pixelAt (before ++ x :: after) c = x.values[c - x.first]? := by
  have found : (before ++ x :: after).find?
      (fun y => decide (y.first ≤ c) && decide (c < y.first + y.values.length)) = some x := by
    rw [List.find?_append, List.find?_eq_none.2 (by simpa using hb), List.find?_cons_of_pos (by simpa using hx)]
    rfl
  unfold pixelAt
  rw [found]

theorem pixelAt_none {pixels : List PixelSpan} {c : Nat}
    (h : ∀ y ∈ pixels, ¬(y.first ≤ c ∧ c < y.first + y.values.length)) : pixelAt pixels c = none :=
  pixelAt_eq (fun x hx first inside => absurd ⟨first, inside⟩ (h x hx)) fun _ => rfl

/-! ## Classes and masks (R45, R47) -/

theorem tableClass_eq (part : FacePart) (lighting : Lighting) (value : Byte) :
    tableClass part lighting value = (if lighting = .r then part.classR else part.classT).getD value.toNat 0 := by
  cases lighting with
  | r => rfl
  | t => rfl

/-- Settles O26: an item by its kind; the line item along the cases of `lineRuns`; the runs of a lane by `mem_laneRuns`; the pixel at a
column by the first span that holds it. -/
theorem runExtractorTakesItem : Obligations.RunExtractorTakesItem := by
  refine ⟨fun f s hq => ?_, fun part line => ?_, fun part line index => ?_,
    fun before after x c => ⟨pixelAt_append after, pixelAt_none⟩⟩
  · exact ⟨fun _ _ => exec_rxTakeItem_cons hq nofun, fun _ _ => exec_rxTakeItem_cons hq nofun,
      fun _ _ => exec_rxTakeItem_cons hq nofun, fun _ _ => exec_rxTakeItem_cons hq nofun,
      fun _ => exec_rxTakeItem_cons hq nofun, fun h => exec_onlyStatus rfl (takeItem_none h) hq.1⟩
  · intro item all
    refine ⟨rfl, rfl, fun h => ?_, fun h hs => ?_⟩
    · have none : lineRuns part line = [] := lineRuns_none part h
      exact ⟨congrArg (List.take 512) none, by unfold item lineItem; rw [none]; rfl⟩
    · have runs : lineRuns part line = all := lineRuns_all part h hs
      exact ⟨congrArg (List.take 512) runs, runs ▸ decide_eq_true_iff⟩
  · intro lane mask table bits blind candidate neighbours linked within whole carries
    have hmask : mask = lane.mask line.desc.sect line.desc.lighting := by
      unfold mask Lane.mask
      cases line.desc.sect with
      | wait => rfl
      | coated => cases line.desc.lighting <;> rfl
      | gap => cases line.desc.lighting <;> rfl
    have hbits : bits = laneBits part line index := funext fun v => by
      unfold bits laneBits
      rw [tableClass_eq, hmask]
    refine ⟨laneRuns_ordered part line index, fun r => (mem_laneRuns hbits r).trans ⟨?_, ?_⟩⟩
    · rintro ⟨hlane, begun, ended, carried, edge, wide⟩
      exact ⟨hlane, ⟨begun.order, begun.first, begun.last, begun.inner, begun.fresh, ended⟩,
        ⟨carried.pixels, carried.bits, carried.extremes, carried.least, carried.greatest,
          edge ▸ touchesBlind_iff line.blind lane r⟩, wide⟩
    · rintro ⟨hlane, ⟨order, first, last, inner, fresh, ended⟩, ⟨pixels, hb, extremes, least, greatest, edge⟩, wide⟩
      exact ⟨hlane, ⟨order, first, last, inner, fresh⟩, ended, ⟨pixels, hb, extremes, least, greatest⟩,
        Bool.eq_iff_iff.2 (edge.trans (touchesBlind_iff line.blind lane r).symm), wide⟩

end Sys2Proof.Machine
end

section
/-! SUPPORT. The splice closure item: what a cut leaves of the Run Extractor and of the other face, and the statement about the item. -/

namespace Sys2Proof.Machine

variable {s t u : State} {f : Face}

/-! ## What leaves the Run Extractor alone -/

theorem OnlyReporting.rx (h : OnlyReporting s t) : t.rx = s.rx := by
  obtain ⟨_, _, _, ⟨_, _, rx⟩, _, _⟩ := h
  exact rx

theorem foldl_rx {α : Type} (g : State → α → State) (hg : ∀ u x, (g u x).rx = u.rx) (l : List α) (s : State) :
    (l.foldl g s).rx = s.rx := by
  induction l generalizing s with
  | nil => rfl
  | cons x rest ih => exact (ih _).trans (hg s x)

theorem issueSingle_rx (result : PinholeResult) (s : State) (c : Closure) : (issueSingle result s c).rx = s.rx :=
  (issueMarked_reporting s _ _ _).rx

theorem issueThrough_rx (s : State) (entry arriving : Closure) : (issueThrough s entry arriving).rx = s.rx :=
  (raise_reporting _ _).rx.trans (issueMarked_reporting s _ _ _).rx

theorem discardLogs_rx (s : State) : (discardLogs s).rx = s.rx := rfl

theorem insertClosure_rx (s : State) (e : PairEntry) : (insertClosure s e).rx = s.rx := by
  unfold insertClosure
  split
  · rfl
  · split
    · rfl
    · rw [discardLogs_rx, State.onPu_rx, issueSingle_rx, State.onPu_rx]

theorem placeClosure_rx (s : State) (c : Closure) : (placeClosure s c).rx = s.rx := by
  unfold placeClosure
  dsimp only
  split
  · exact issueSingle_rx _ s c
  · split
    · exact issueSingle_rx _ s _
    · exact insertClosure_rx s _

theorem takeClosure_rx (s : State) (c : Closure) : (takeClosure s c).rx = s.rx := by
  unfold takeClosure
  dsimp only
  split
  · split
    · rw [discardLogs_rx, issueThrough_rx, State.onPu_rx]
    · exact placeClosure_rx s _
  · exact issueSingle_rx _ s _

theorem eventProgress_rx (s : State) (f : Face) : (eventProgress s f).rx = s.rx :=
  foldl_rx (resolveEntry f) (fun u _ => issueSingle_rx _ u _) _ _

theorem cutOne_rx (f : Face) (reason : CloseReason) (s : State) (x : Fin 24 × Track) : (cutOne f reason s x).rx = s.rx := by
  unfold cutOne
  split
  · exact (issueMarked_reporting s _ _ _).rx
  · exact (issue_reporting s _).rx
  · exact (issue_reporting s _).rx

theorem closeSpot_rx (part : FacePart) (f : Face) (c : Closing) (x : Fin 64 × Spot) :
    (closeSpot part f c x).state.rx = c.state.rx := by
  unfold closeSpot
  split
  · rfl
  · rfl
  · exact (issueMarked_reporting c.state _ _ _).rx
  · exact (issueMarked_reporting c.state _ _ _).rx

/-! ### The end of a step -/

theorem assembleAll_rx (s : State) (f : Face) : (assembleAll s f).rx = s.rx :=
  foldl_rx _ (fun u _ => by
    unfold assembleOldest
    split
    · rfl
    · exact (assembleLine_onlyHeads u f _).rx) _ s

theorem closeSkip_rx (s : State) (f : Face) : (closeSkip s f).rx = s.rx := (issueTally_reporting _ _ _ _).rx

theorem discardBegun_rx (s : State) : (discardBegun s).rx = s.rx := rfl
theorem discardPending_rx (s : State) : (discardPending s).rx = s.rx := rfl

theorem enterClosing_rx (s : State) (reason : EndReason) : (enterClosing s reason).rx = s.rx := by
  unfold enterClosing
  split
  · rw [(wantStatus_reporting _ _).rx, discardPending_rx, assembleAll_rx, assembleAll_rx, discardBegun_rx, closeSkip_rx,
      closeSkip_rx, State.onCu_rx]
  · rfl

theorem takeLimit_rx (s : State) : (takeLimit s).rx = s.rx := by
  unfold takeLimit
  split
  · rw [State.onCu_rx, enterClosing_rx]
  · rfl

theorem settle_rx (before s : State) : (settle before s).rx = s.rx := by
  obtain ⟨changed, e⟩ := markChanged_eq before (takeLimit s)
  unfold settle
  rw [e]
  exact takeLimit_rx s

/-! ## A cut leaves the other face alone (R67, R68, R98) -/

/-- The Run Extractor and the tables of the face opposite to `f` are unchanged. -/
structure OtherKept (f : Face) (s t : State) : Prop where
  rx : t.rx = s.rx
  te : t.teFace (otherFace f) = s.teFace (otherFace f)
  sm : t.smFace (otherFace f) = s.smFace (otherFace f)

theorem OtherKept.trans (h : OtherKept f s t) (k : OtherKept f t u) : OtherKept f s u :=
  ⟨k.rx.trans h.rx, k.te.trans h.te, k.sm.trans h.sm⟩

theorem SameTables.otherKept (h : SameTables s t) (hr : t.rx = s.rx) (f : Face) : OtherKept f s t :=
  ⟨hr, h.teFace _, h.smFace _⟩

theorem otherFace_ne (f : Face) : otherFace f ≠ f := by cases f <;> decide

theorem onTeFace_other (s : State) (f : Face) (g : TeFace → TeFace) :
    (s.onTeFace f g).teFace (otherFace f) = s.teFace (otherFace f) :=
  PerFace.get_modify_other _ _ (otherFace_ne f)

theorem onSmFace_other (s : State) (f : Face) (g : SmFace → SmFace) :
    (s.onSmFace f g).smFace (otherFace f) = s.smFace (otherFace f) :=
  PerFace.get_modify_other _ _ (otherFace_ne f)

theorem cutOne_other (f : Face) (reason : CloseReason) (s : State) (x : Fin 24 × Track) :
    OtherKept f s (cutOne f reason s x) := by
  have freed : ∀ (u : State) (g : TeFace → TeFace), SameTables s u →
      ((u.setTrack f x.1 none).onTeFace f g).teFace (otherFace f) = s.teFace (otherFace f) ∧
        ((u.setTrack f x.1 none).onTeFace f g).smFace (otherFace f) = s.smFace (otherFace f) := fun u g hu =>
    ⟨(onTeFace_other _ f g).trans ((onTeFace_other u f _).trans (hu.teFace _)), hu.smFace _⟩
  have tables : (cutOne f reason s x).teFace (otherFace f) = s.teFace (otherFace f) ∧
      (cutOne f reason s x).smFace (otherFace f) = s.smFace (otherFace f) := by
    unfold cutOne
    split
    · exact freed _ _ (issueMarked_reporting s _ _ _).sameTables
    · exact freed _ _ (issue_reporting s _).sameTables
    · exact freed _ _ (issue_reporting s _).sameTables
  exact ⟨cutOne_rx f reason s x, tables.1, tables.2⟩

theorem closeSpot_other (part : FacePart) (f : Face) (c : Closing) (x : Fin 64 × Spot) :
    OtherKept f c.state (closeSpot part f c x).state := by
  have freed : ∀ (u : State) (g : SmFace → SmFace), SameTables c.state u →
      ((u.onSmFace f g).setSpot f x.1 none).smFace (otherFace f) = c.state.smFace (otherFace f) := fun u g hu =>
    (onSmFace_other _ f _).trans ((onSmFace_other u f g).trans (hu.smFace _))
  refine ⟨closeSpot_rx part f c x, congrArg (fun e : TrackEngine => e.faces.get (otherFace f)) (closeSpot_te part f c x), ?_⟩
  unfold closeSpot
  split
  · exact freed _ _ (.refl _)
  · exact freed _ _ (.refl _)
  · exact freed _ _ (issueMarked_reporting c.state _ _ _).sameTables
  · exact freed _ _ (issueMarked_reporting c.state _ _ _).sameTables

theorem cutTracks_other (s : State) (f : Face) (reason : CloseReason) : OtherKept f s (cutTracks s f reason) :=
  List.foldlRecOn (motive := OtherKept f s) _ _ ⟨rfl, rfl, rfl⟩ fun v hv x _ => hv.trans (cutOne_other f reason v x)

theorem cutSpots_other (s : State) (f : Face) (part : FacePart) : OtherKept f s (cutSpots s f part).state :=
  List.foldlRecOn (motive := fun c : Closing => OtherKept f s c.state) _ _ ⟨rfl, rfl, onSmFace_other s f _⟩
    fun c hc x _ => hc.trans (closeSpot_other part f c x)

theorem cutAndDeliver_other (s : State) (f : Face) : OtherKept f s (cutAndDeliver s f) :=
  (cutSpots_other s f _).trans ((deliver_tables _).otherKept (foldl_rx _ takeClosure_rx _ _) f)

/-! ## The splice closure item (R68, R96) -/

theorem takeSpliceItem_eq {h : Handed} {rest : List Handed} (hh : (s.rxFace f).handed = h :: rest)
    (hk : h.kind = .spliceClosure) :
    takeSpliceItem s f = processSplice { s with rx := s.rx.set f { s.rxFace f with handed := rest } } f := by
  unfold takeSpliceItem
  rw [hh]
  dsimp only
  rw [hk, popHanded_eq hh]

theorem processSplice_other (s : State) (f : Face) : OtherKept f s (processSplice s f) :=
  (cutTracks_other s f .splice).trans ((cutAndDeliver_other _ f).trans
    ((eventProgress_tables _ f).otherKept (eventProgress_rx _ f) f))

/-- R68, R96: the item leaves no track of the face active and no spot of it open. -/
theorem processSplice_clears (s : State) (f : Face) : TablesFree (processSplice s f) f := by
  obtain ⟨te, spots⟩ := cutAndDeliver_clears (cutTracks s f .splice) f
  have progress := eventProgress_tables (cutAndDeliver (cutTracks s f .splice) f) f
  have tracks : (processSplice s f).teFace f = (cutTracks s f .splice).teFace f :=
    (progress.teFace f).trans (congrArg (fun e : TrackEngine => e.faces.get f) te)
  refine ⟨fun i => ?_, fun i => ?_⟩
  · rw [tracks]
    exact cutTracks_clears s f .splice i
  · unfold processSplice
    rw [progress.smFace f]
    exact spots i

/-- Settles O30: a cut frees every entry of the face and touches neither the other face nor what the Run Extractor holds. -/
theorem spliceClosureCuts : Obligations.SpliceClosureCuts := by
  intro f h rest s _ hh hk
  let popped : State := { s with rx := s.rx.set f { s.rxFace f with handed := rest } }
  have kept := settle_tables s (processSplice popped f)
  have other := (processSplice_other popped f).trans (kept.otherKept (settle_rx s _) f)
  obtain ⟨tracks, spots⟩ := processSplice_clears popped f
  refine ⟨settle s (takeSpliceItem s f), rfl, ?_⟩
  rw [takeSpliceItem_eq hh hk]
  refine ⟨⟨fun i => ?_, fun i => ?_⟩, other.rx, other.te, other.sm⟩
  · rw [kept.teFace]
    exact tracks i
  · rw [kept.smFace]
    exact spots i

end Sys2Proof.Machine
end

section
/-! SUPPORT. Tables: their entries in order when none, one or two are picked, their lowest free entry, and updates of every entry. -/

namespace Sys2Proof.Machine

variable {α : Type} {n : Nat} {table : Vector (Option α) n} {i j : Fin n} {x y : α}
  {after : Fin n × α → Fin n × α → Bool} {p : Fin n × α → Bool}

/-! ## Picked entries in order -/

theorem eq_single {β : Type} {l : List β} {a : β} (hn : l.Nodup) (hm : ∀ z, z ∈ l ↔ z = a) : l = [a] :=
  List.perm_singleton.1 ((List.perm_ext_iff_of_nodup hn (List.nodup_singleton a)).2 fun z => by rw [hm, List.mem_singleton])

/-- Two elements in order, whichever stood first. -/
theorem sortBy_pair {β : Type} {after : β → β → Bool} {l : List β} {a b : β} (hn : l.Nodup)
    (hm : ∀ z, z ∈ l ↔ z = a ∨ z = b) (hab : after a b = false) (hba : after b a = true) : sortBy after l = [a, b] := by
  have distinct : a ≠ b := fun e => by
    rw [e] at hab hba
    exact Bool.false_ne_true (hab.symm.trans hba)
  have perm : l.Perm [a, b] := (List.perm_ext_iff_of_nodup hn (by simp [distinct])).2 fun z => by
    rw [hm, List.mem_pair]
  rcases List.perm_pair.1 perm with e | e
  · rw [e]
    simp [sortBy, insertBy, hab]
  · rw [e]
    simp [sortBy, insertBy, hba]

theorem taken_nodup (table : Vector (Option α) n) : (taken table).Nodup := by
  unfold taken
  refine (List.nodup_finRange n).filterMap fun i j z hi hj => ?_
  obtain ⟨_, _, ei⟩ := Option.map_eq_some_iff.1 hi
  obtain ⟨_, _, ej⟩ := Option.map_eq_some_iff.1 hj
  exact congrArg Prod.fst (ei.trans ej.symm)

theorem mem_picked {z : Fin n × α} : z ∈ (taken table).filter p ↔ table[z.1] = some z.2 ∧ p z = true := by
  rw [List.mem_filter]
  exact and_congr_left fun _ => mem_taken

theorem picked_none (ho : ∀ j y, table[j] = some y → ¬p (j, y) = true) : (taken table).filter p = [] :=
  List.filter_eq_nil_iff.2 fun z hz => ho z.1 z.2 (mem_taken.1 hz)

theorem picked_one (hx : table[i] = some x) (hp : p (i, x) = true)
    (ho : ∀ j y, table[j] = some y → p (j, y) = true → j = i) : (taken table).filter p = [(i, x)] := by
  refine eq_single ((taken_nodup table).filter p) fun z => mem_picked.trans ⟨?_, ?_⟩
  · rintro ⟨hz, hpz⟩
    obtain ⟨k, w⟩ := z
    obtain rfl : k = i := ho k w hz hpz
    exact congrArg (Prod.mk k) (Option.some.inj (hz.symm.trans hx))
  · rintro rfl
    exact ⟨hx, hp⟩

theorem sortBy_picked_two (hx : table[i] = some x) (hy : table[j] = some y) (hpx : p (i, x) = true)
    (hpy : p (j, y) = true) (ho : ∀ k z, table[k] = some z → p (k, z) = true → k = i ∨ k = j)
    (hab : after (i, x) (j, y) = false) (hba : after (j, y) (i, x) = true) :
    sortBy after ((taken table).filter p) = [(i, x), (j, y)] := by
  refine sortBy_pair ((taken_nodup table).filter p) (fun z => mem_picked.trans ⟨?_, ?_⟩) hab hba
  · rintro ⟨hz, hpz⟩
    obtain ⟨k, w⟩ := z
    obtain rfl | rfl := ho k w hz hpz
    · exact .inl (congrArg (Prod.mk k) (Option.some.inj (hz.symm.trans hx)))
    · exact .inr (congrArg (Prod.mk k) (Option.some.inj (hz.symm.trans hy)))
  · rintro (rfl | rfl)
    · exact ⟨hx, hpx⟩
    · exact ⟨hy, hpy⟩

theorem picked_all (table : Vector (Option α) n) : (taken table).filter (fun _ => true) = taken table :=
  List.filter_eq_self.2 fun _ _ => rfl

theorem taken_one (hx : table[i] = some x) (ho : ∀ j, j ≠ i → table[j] = none) : taken table = [(i, x)] := by
  rw [← picked_all]
  refine picked_one hx rfl fun j y hj _ => ?_
  by_contra other
  rw [ho j other] at hj
  cases hj

theorem sortBy_taken_two (hx : table[i] = some x) (hy : table[j] = some y)
    (ho : ∀ k, k ≠ i → k ≠ j → table[k] = none) (hab : after (i, x) (j, y) = false) (hba : after (j, y) (i, x) = true) :
    sortBy after (taken table) = [(i, x), (j, y)] := by
  rw [← picked_all]
  refine sortBy_picked_two hx hy rfl rfl (fun k z hk _ => ?_) hab hba
  by_contra other
  rw [ho k (fun e => other (.inl e)) fun e => other (.inr e)] at hk
  cases hk

/-! ## The lowest free entry -/

theorem lowestFree_none (h : ∀ i : Fin n, table[i] ≠ none) : lowestFree table = none :=
  List.find?_eq_none.2 fun i _ free => h i (Option.isNone_iff_eq_none.1 free)

theorem lowestFree_some (hi : table[i] = none) (hl : ∀ j : Fin n, j < i → table[j] ≠ none) : lowestFree table = some i := by
  refine List.find?_eq_some_iff_getElem.2 ⟨Option.isNone_iff_eq_none.2 hi, i.val, by simp, by simp, fun k hk => ?_⟩
  have below := hl ⟨k, hk.trans i.isLt⟩ hk
  simpa [Option.isSome_iff_ne_none] using below

/-! ## Entries updated -/

theorem getElem_set_other (table : Vector (Option α) n) (v : Option α) (h : j ≠ i) : (table.set i.val v)[j] = table[j] :=
  Vector.getElem_set_ne i.isLt j.isLt fun e => h (Fin.ext e.symm)

theorem getElem_mapped (table : Vector (Option α) n) (g : α → α) (j : Fin n) :
    (table.map fun o => o.map g)[j] = table[j].map g := Vector.getElem_map ..

theorem mapped_some (g : α → α) (hx : table[i] = some x) : (table.map fun o => o.map g)[i] = some (g x) := by
  rw [getElem_mapped, hx]
  rfl

theorem mapped_none (g : α → α) (hx : table[i] = none) : (table.map fun o => o.map g)[i] = none := by
  rw [getElem_mapped, hx]
  rfl

theorem mapped_only (g : α → α) (hx : table[i] = some x) (ho : ∀ j, j ≠ i → table[j] = none) :
    (table.map fun o => o.map g) = table.set i.val (some (g x)) := by
  refine Vector.ext fun k hk => ?_
  show (table.map fun o => o.map g)[(⟨k, hk⟩ : Fin n)] = _
  by_cases hki : (⟨k, hk⟩ : Fin n) = i
  · subst hki
    rw [mapped_some g hx]
    exact (Vector.getElem_set_self _).symm
  · rw [mapped_none g (ho _ hki)]
    exact ((getElem_set_other table _ hki).trans (ho _ hki)).symm

end Sys2Proof.Machine
end

section
/-! SUPPORT. The life of a spot: its class, its fields, the runs offered to it, its quiet lines, its handover and its cut. -/

namespace Sys2Proof.Machine

variable {s : State} {f : Face} {part : FacePart} {desc : LineDesc} {m : SmFace} {r : Run} {i j : Fin 64} {x y z : Spot}

/-! ## The class of a spot, and its closing (R70 to R73) -/

theorem classify_noise (h : x.pixels < part.minPixels) : classify part x = .noise := if_pos h

theorem classify_pinhole (hn : ¬x.pixels < part.minPixels)
    (h : x.lights.t = true ∧ x.cdExtent ≤ part.pinholeCd ∧ x.mdExtent ≤ part.pinholeMd) : classify part x = .pinhole :=
  (if_neg hn).trans (if_pos h)

theorem classify_spot (hn : ¬x.pixels < part.minPixels)
    (hp : ¬(x.lights.t = true ∧ x.cdExtent ≤ part.pinholeCd ∧ x.mdExtent ≤ part.pinholeMd))
    (h : x.cdExtent ≤ part.spotCd ∧ x.mdExtent ≤ part.spotMd) : classify part x = .spot :=
  (if_neg hn).trans ((if_neg hp).trans (if_pos h))

theorem classify_large (hn : ¬x.pixels < part.minPixels)
    (hp : ¬(x.lights.t = true ∧ x.cdExtent ≤ part.pinholeCd ∧ x.mdExtent ≤ part.pinholeMd))
    (hs : ¬(x.cdExtent ≤ part.spotCd ∧ x.mdExtent ≤ part.spotMd)) : classify part x = .large :=
  (if_neg hn).trans ((if_neg hp).trans (if_neg hs))

theorem closeSpot_noise (h : classify part x = .noise) (f : Face) (c : Closing) (i : Fin 64) :
    closeSpot part f c (i, x) =
      { c with state := (c.state.onSmFace f fun m => { m with noise := bump16 m.noise }).setSpot f i none } := by
  unfold closeSpot
  dsimp only
  rw [h]

theorem closeSpot_pinhole (h : classify part x = .pinhole) (f : Face) (c : Closing) (i : Fin 64) :
    closeSpot part f c (i, x) =
      { state := (c.state.onSmFace f fun m => { m with pinholes := bump16 m.pinholes }).setSpot f i none
        closures := c.closures ++ [pinholeClosure f x] } := by
  unfold closeSpot
  dsimp only
  rw [h]

theorem closeSpot_spot (h : classify part x = .spot) (f : Face) (c : Closing) (i : Fin 64) :
    closeSpot part f c (i, x) =
      { c with
        state :=
          ((issueMarked c.state (.spot (spotFields f x)) .spot x.firstStamp).1.onSmFace f fun m =>
            { m with spotted := bump16 m.spotted }).setSpot f i none } := by
  unfold closeSpot
  dsimp only
  rw [h]

theorem closeSpot_large (h : classify part x = .large) (f : Face) (c : Closing) (i : Fin 64) :
    closeSpot part f c (i, x) =
      { c with
        state :=
          ((issueMarked c.state (.large (spotFields f x)) .large x.firstStamp).1.onSmFace f fun m =>
            { m with larges := bump16 m.larges }).setSpot f i none } := by
  unfold closeSpot
  dsimp only
  rw [h]

/-- The closing of a spot, seen from its face: a count and a freed entry. -/
theorem smFace_closed {t u : State} {g : SmFace → SmFace} (ht : t = (u.onSmFace f g).setSpot f i none) (hu : u.sm = s.sm) :
    t.smFace f = { g (s.smFace f) with spots := (g (s.smFace f)).spots.set i.val none } := by
  rw [ht]
  simp [State.smFace, State.setSpot, hu]

/-! ## The fields of a spot (R61 to R64) -/

theorem joins_iff : joins part r x = true ↔
    x.lane = r.lane ∧ r.first ≤ x.columnMax + part.link ∧ x.columnMin ≤ r.last + part.link ∧ x.quiet < part.reach := by
  simp [joins, Spot.near, and_assoc]

theorem lights_add_none (l : Lighting) :
    ({ r := false, t := false } : Lights).add l = { r := l = .r, t := l = .t } := by
  cases l <;> rfl

theorem takeRun_eq (x : Spot) (desc : LineDesc) (r : Run) :
    x.takeRun desc r =
      { x with
        columnMin := min x.columnMin r.first
        columnMax := max x.columnMax r.last
        lastLine := desc.number
        lastStamp := desc.stamp
        joined := if x.lastLine ≠ desc.number then bump16 x.joined else x.joined
        quiet := if x.lastLine ≠ desc.number then 0 else x.quiet
        pixels := min 16777215 (x.pixels + r.pixels)
        classBits := x.classBits ||| r.classBits
        lights := x.lights.add desc.lighting
        minValue := if x.minValue ≤ r.minValue then x.minValue else r.minValue
        maxValue := if x.maxValue ≤ r.maxValue then r.maxValue else x.maxValue
        blind := x.blind || r.blindEdge } := by
  simp only [Spot.takeRun, bne_iff_ne]
  rfl

theorem openSpot_eq (desc : LineDesc) (r : Run) :
    openSpot desc r =
      { lane := r.lane, columnMin := r.first, columnMax := r.last, firstLine := desc.number, firstStamp := desc.stamp,
        lastLine := desc.number, lastStamp := desc.stamp, joined := 1, quiet := 0, pixels := r.pixels,
        classBits := r.classBits, lights := { r := desc.lighting = .r, t := desc.lighting = .t },
        minValue := r.minValue, maxValue := r.maxValue, blind := r.blindEdge, cut := false,
        patchIndex := desc.patchIndex, offset := desc.offset, sect := desc.sect, refused := false } := by
  unfold openSpot
  rw [lights_add_none]

/-! ## A run is offered (R61 to R64) -/

theorem offerRun_full (hj : ∀ i y, m.spots[(i : Fin 64)] = some y → ¬joins part r y = true)
    (hf : ∀ i : Fin 64, m.spots[i] ≠ none) : offerRun part desc m r = { m with full := m.full.add desc.stamp } := by
  unfold offerRun
  rw [picked_none (p := fun x => joins part r x.2) hj, lowestFree_none hf]
  rfl

theorem offerRun_opens (hj : ∀ i y, m.spots[(i : Fin 64)] = some y → ¬joins part r y = true) (hi : m.spots[i] = none)
    (hl : ∀ j : Fin 64, j < i → m.spots[j] ≠ none) :
    offerRun part desc m r = { m with spots := m.spots.set i.val (some (openSpot desc r)) } := by
  unfold offerRun
  rw [picked_none (p := fun x => joins part r x.2) hj, lowestFree_some hi hl]
  rfl

theorem offerRun_takes (hy : m.spots[i] = some y) (hp : joins part r y = true)
    (ho : ∀ j z, m.spots[(j : Fin 64)] = some z → joins part r z = true → j = i) :
    offerRun part desc m r = { m with spots := m.spots.set i.val (some (y.takeRun desc r)) } := by
  unfold offerRun
  rw [picked_one (p := fun x => joins part r x.2) hy hp ho]
  rfl

/-- R63: the older of two spots survives. -/
theorem olderSpot_of (h : y.firstLine < z.firstLine ∨ (y.firstLine = z.firstLine ∧ y.columnMin < z.columnMin)) :
    olderSpot (i, y) (j, z) = false ∧ olderSpot (j, z) (i, y) = true := by
  simp only [olderSpot, Bool.or_eq_true, Bool.or_eq_false_iff, Bool.and_eq_true, Bool.and_eq_false_iff, decide_eq_true_eq,
    decide_eq_false_iff_not]
  omega

theorem offerRun_merges (hy : m.spots[i] = some y) (hz : m.spots[j] = some z) (hpy : joins part r y = true)
    (hpz : joins part r z = true) (ho : ∀ k w, m.spots[(k : Fin 64)] = some w → joins part r w = true → k = i ∨ k = j)
    (older : y.firstLine < z.firstLine ∨ (y.firstLine = z.firstLine ∧ y.columnMin < z.columnMin)) :
    offerRun part desc m r =
      { m with
        spots :=
          (m.spots.set j.val none).set i.val (some ((y.takeRun desc r).absorb (z.takeRun desc r) z.pixels)) } := by
  obtain ⟨hab, hba⟩ := olderSpot_of (i := i) (j := j) older
  unfold offerRun
  rw [sortBy_picked_two (p := fun x => joins part r x.2) hy hz hpy hpz ho hab hba]
  rfl

/-! ## Quiet lines (R65, R66) -/

theorem quietStep_skipped {item : LineItem} (h : item.desc.skipped = true) :
    quietStep s f part item = { state := s, closures := [] } := if_pos h

/-- R65: the closing of a face's one spot: it closes when the line leaves it quiet for as long as the reach. -/
theorem quietStep_one {item : LineItem} (hs : item.desc.skipped = false) (hx : (s.smFace f).spots[i] = some x)
    (ho : ∀ j : Fin 64, j ≠ i → (s.smFace f).spots[j] = none) :
    let y := quietSpot part item x
    let c : Closing :=
      { state := { s with sm := s.sm.set f { s.smFace f with spots := (s.smFace f).spots.set i.val (some y) } }
        closures := [] }
    quietStep s f part item =
      if y.lastLine ≠ item.desc.number ∧ part.reach ≤ y.quiet then closeSpot part f c (i, y) else c := by
  intro y c
  have state : (s.onSmFace f fun m => { m with spots := m.spots.map fun o => o.map (quietSpot part item) }) = c.state := by
    rw [onSmFace_eq, mapped_only (quietSpot part item) hx ho]
  have spots : (c.state.smFace f).spots = (s.smFace f).spots.map fun o => o.map (quietSpot part item) := by
    rw [← state]
    simp [State.smFace]
  have hy : (c.state.smFace f).spots[i] = some y := by
    rw [spots]
    exact mapped_some _ hx
  have hno : ∀ j : Fin 64, j ≠ i → (c.state.smFace f).spots[j] = none := fun j hj => by
    rw [spots]
    exact mapped_none _ (ho j hj)
  have alone : ∀ j z, (c.state.smFace f).spots[(j : Fin 64)] = some z → j = i ∧ z = y := fun j z hj => by
    by_cases e : j = i
    · subst e
      exact ⟨rfl, Option.some.inj (hj.symm.trans hy)⟩
    · rw [hno j e] at hj
      cases hj
  unfold quietStep closeSpots
  rw [if_neg (by rw [hs]; exact Bool.false_ne_true)]
  dsimp only
  rw [state]
  split
  · next ends =>
    rw [picked_one hy (by simpa using ends) fun j z hj _ => (alone j z hj).1]
    rfl
  · next stays =>
    rw [picked_none fun j z hj hp => stays (by obtain ⟨_, rfl⟩ := alone j z hj; simpa using hp)]
    rfl

theorem quietSpot_lastLine (item : LineItem) (x : Spot) : (quietSpot part item x).lastLine = x.lastLine := by
  unfold quietSpot
  split <;> rfl

/-! ## Handover (R75, R76) -/

theorem qualifies_iff : qualifies part x = true ↔
    (part.lane x.lane).kind = .coated ∧ x.sect = .coated ∧ part.streakStart ≤ x.mdExtent ∧
      x.cdExtent ≤ (part.lane x.lane).maxWidth ∧ x.refused = false := by
  simp [qualifies, and_assoc]

theorem offerSpot_eq (part : FacePart) (f : Face) (desc : LineDesc) (s : State) (i : Fin 64) (x : Spot) :
    offerSpot part f desc s (i, x) =
      let answer := takeHandover s f part desc (requestFor x)
      answer.1.setSpot f i (if answer.2 then none else some { x with refused := true }) := by
  unfold offerSpot
  rcases takeHandover s f part desc (requestFor x) with ⟨u, accepted⟩
  cases accepted <;> rfl

/-- R75: a spot that a run of the line has joined and that qualifies makes its request. -/
def asksHandover (part : FacePart) (desc : LineDesc) (x : Fin 64 × Spot) : Bool :=
  x.2.lastLine == desc.number && qualifies part x.2

theorem asksHandover_iff : asksHandover part desc (i, x) = true ↔ x.lastLine = desc.number ∧ qualifies part x = true := by
  unfold asksHandover
  rw [Bool.and_eq_true, beq_iff_eq]

theorem handoverStep_eq (s : State) (f : Face) (part : FacePart) (desc : LineDesc) :
    handoverStep s f part desc =
      (sortBy (fun a b => decide (b.2.columnMin < a.2.columnMin))
        ((taken (s.smFace f).spots).filter (asksHandover part desc))).foldl (offerSpot part f desc) s := rfl

theorem handoverStep_none (h : ∀ j y, (s.smFace f).spots[(j : Fin 64)] = some y → ¬asksHandover part desc (j, y) = true) :
    handoverStep s f part desc = s := by
  rw [handoverStep_eq, picked_none h]
  rfl

theorem handoverStep_one (hx : (s.smFace f).spots[i] = some x) (ha : asksHandover part desc (i, x) = true)
    (ho : ∀ j y, (s.smFace f).spots[(j : Fin 64)] = some y → asksHandover part desc (j, y) = true → j = i) :
    handoverStep s f part desc = offerSpot part f desc s (i, x) := by
  rw [handoverStep_eq, picked_one hx ha ho]
  rfl

theorem handoverStep_two (hx : (s.smFace f).spots[i] = some x) (hy : (s.smFace f).spots[j] = some y)
    (hax : asksHandover part desc (i, x) = true) (hay : asksHandover part desc (j, y) = true)
    (hlt : x.columnMin < y.columnMin)
    (ho : ∀ k z, (s.smFace f).spots[(k : Fin 64)] = some z → asksHandover part desc (k, z) = true → k = i ∨ k = j) :
    handoverStep s f part desc = offerSpot part f desc (offerSpot part f desc s (i, x)) (j, y) := by
  rw [handoverStep_eq,
    sortBy_picked_two hx hy hax hay ho (decide_eq_false (Nat.not_lt.2 hlt.le)) (decide_eq_true hlt)]
  rfl

/-! ## Cuts (R66 to R69) -/

theorem markCut_spots (s : State) (f : Face) :
    ((markCut s f).smFace f).spots = (s.smFace f).spots.map fun o => o.map fun y => { y with cut := true } := by
  simp [markCut, State.smFace]

theorem cutSpots_one (hx : (s.smFace f).spots[i] = some x) (ho : ∀ j : Fin 64, j ≠ i → (s.smFace f).spots[j] = none) :
    cutSpots s f part = closeSpot part f { state := markCut s f, closures := [] } (i, { x with cut := true }) := by
  unfold cutSpots closeSpots
  dsimp only
  rw [markCut_spots, taken_one (mapped_some _ hx) fun j hj => mapped_none _ (ho j hj)]
  rfl

/-- R66: of two spots the one with the earlier first stamp closes first, then the one with the lower column min. -/
theorem closesLater_of (h : x.firstStamp < y.firstStamp ∨ (x.firstStamp = y.firstStamp ∧ x.columnMin < y.columnMin)) :
    closesLater (i, x) (j, y) = false ∧ closesLater (j, y) (i, x) = true := by
  simp only [closesLater, Bool.or_eq_true, Bool.or_eq_false_iff, Bool.and_eq_true, Bool.and_eq_false_iff,
    decide_eq_true_eq, decide_eq_false_iff_not]
  omega

theorem cutSpots_two (hx : (s.smFace f).spots[i] = some x) (hy : (s.smFace f).spots[j] = some y)
    (ho : ∀ k : Fin 64, k ≠ i → k ≠ j → (s.smFace f).spots[k] = none)
    (earlier : x.firstStamp < y.firstStamp ∨ (x.firstStamp = y.firstStamp ∧ x.columnMin < y.columnMin)) :
    cutSpots s f part =
      closeSpot part f
        (closeSpot part f { state := markCut s f, closures := [] } (i, { x with cut := true }))
        (j, { y with cut := true }) := by
  obtain ⟨hab, hba⟩ :=
    closesLater_of (i := i) (j := j) (x := { x with cut := true }) (y := { y with cut := true }) earlier
  unfold cutSpots closeSpots
  dsimp only
  rw [markCut_spots,
    sortBy_taken_two (mapped_some _ hx) (mapped_some _ hy) (fun k hi hj => mapped_none _ (ho k hi hj)) hab hba]
  rfl

theorem quietSpot_quieter {item : LineItem} (h : x.lastLine ≠ item.desc.number) :
    quietSpot part item x =
      { x with quiet := x.quiet + 1, blind := x.blind || item.blind.any fun b => x.near part.link b.lo b.hi } := if_neg h

/-- Settles O56: each clause by the lemma about its operation. -/
theorem spotsGrowAndClose : Obligations.SpotsGrowAndClose := by
  intro part x small pinhole spot
  refine ⟨classify_noise, classify_pinhole, classify_spot, classify_large, fun f c i => ?_, fun r => joins_iff,
    fun desc m r => ?_, fun desc r => ⟨takeRun_eq x desc r, openSpot_eq desc r⟩, fun y pixels => rfl, fun item => ?_,
    fun f item i s hx ho => ?_, qualifies_iff, fun f desc i s hx => ?_, fun f i s hx => ?_⟩
  · intro d m n fields hole
    have freed : n.spots[i] = none := (closeSpot_spots part f c (i, x) i).trans (if_pos rfl)
    have marked := fun body kind => (issueMarked_reporting c.state body kind x.firstStamp).sameTables.sm
    refine ⟨freed, fun h => ?_, fun h => ?_, fun h => ?_, fun h => ?_⟩
    · have hd : d = _ := closeSpot_noise h f c i
      exact ⟨by rw [hd], by rw [hd]; rfl,
        congrArg SmFace.noise (smFace_closed (congrArg Closing.state hd) rfl)⟩
    · have hd : d = _ := closeSpot_pinhole h f c i
      exact ⟨by rw [hd]; rfl, by rw [hd]; rfl,
        congrArg SmFace.pinholes (smFace_closed (congrArg Closing.state hd) rfl)⟩
    · have hd : d = _ := closeSpot_spot h f c i
      exact ⟨by rw [hd], by rw [hd]; rfl, by rw [hd]; rfl,
        congrArg SmFace.spotted (smFace_closed (congrArg Closing.state hd) (marked _ _))⟩
    · have hd : d = _ := closeSpot_large h f c i
      exact ⟨by rw [hd], by rw [hd]; rfl, by rw [hd]; rfl,
        congrArg SmFace.larges (smFace_closed (congrArg Closing.state hd) (marked _ _))⟩
  · intro joined
    have among : ∀ {k y}, m.spots[(k : Fin 64)] = some y → joined k → joins part r y = true := by
      rintro k y hk ⟨w, hw, hj⟩
      rwa [Option.some.inj (hk.symm.trans hw)]
    refine ⟨fun hj hf => ?_, fun i hj hi hl => ?_, fun i y hy hj => ?_, fun i j y z _ hy hz hj older => ?_⟩
    · exact offerRun_full (fun k y hk hp => hj k ⟨y, hk, hp⟩) hf
    · exact offerRun_opens (fun k y hk hp => hj k ⟨y, hk, hp⟩) hi hl
    · exact offerRun_takes hy (among hy ((hj i).2 rfl)) fun k w hk hp => (hj k).1 ⟨w, hk, hp⟩
    · exact offerRun_merges hy hz (among hy ((hj i).2 (.inl rfl))) (among hz ((hj j).2 (.inr rfl)))
        (fun k w hk hp => (hj k).1 ⟨w, hk, hp⟩) older
  · refine ⟨fun h => if_pos h, fun h => ?_⟩
    rw [quietSpot_quieter h]
    simp [Spot.near]
  · intro y c
    split
    · next skipped => exact quietStep_skipped skipped
    · next observed =>
      rw [quietStep_one (Bool.eq_false_iff.2 observed) hx ho, quietSpot_lastLine]
  · intro asks request answer marked
    have asks_iff : ∀ k y, asksHandover part desc (k, y) = true ↔ asks y := fun k y => asksHandover_iff
    refine ⟨?_, fun ho => ?_, fun j y hy hax hay hlt ho => ?_⟩
    · exact offerSpot_eq part f desc s i x
    · split
      · next h => exact handoverStep_one hx ((asks_iff i x).2 h) fun k z hk hz => ho k z hk ((asks_iff k z).1 hz)
      · next h =>
        refine handoverStep_none fun k z hk hz => h ?_
        have other := (asks_iff k z).1 hz
        obtain rfl := ho k z hk other
        rwa [Option.some.inj (hx.symm.trans hk)]
    · exact handoverStep_two hx hy ((asks_iff i x).2 hax) ((asks_iff j y).2 hay) hlt fun k z hk hz =>
        ho k z hk ((asks_iff k z).1 hz)
  · intro cut c
    exact ⟨fun ho => cutSpots_one hx ho, fun j y _ hy ho earlier => cutSpots_two hx hy ho earlier⟩

end Sys2Proof.Machine
end

section
/-! SUPPORT. A line item: what one track's count and change leave alone, lines on which the spots do nothing, and the three lines of the
statement. -/

namespace Sys2Proof.Machine

variable {s t u : State} {f : Face} {part : FacePart} {item : LineItem} {desc : LineDesc} {i j : Fin 24} {x : Track}

/-! ## What one track's count and change leave alone (R81 to R90, R99) -/

/-- The other tracks of the face, the Spot Merger and the Pairing Unit are unchanged. -/
structure OneTrack (f : Face) (i : Fin 24) (s t : State) : Prop where
  others : ∀ j : Fin 24, j ≠ i → (t.teFace f).tracks[j] = (s.teFace f).tracks[j]
  sm     : t.sm = s.sm
  pu     : t.pu = s.pu

theorem OneTrack.refl (f : Face) (i : Fin 24) (s : State) : OneTrack f i s s := ⟨fun _ _ => rfl, rfl, rfl⟩

theorem OneTrack.trans (h : OneTrack f i s t) (k : OneTrack f i t u) : OneTrack f i s u :=
  ⟨fun j hj => (k.others j hj).trans (h.others j hj), k.sm.trans h.sm, k.pu.trans h.pu⟩

theorem OnlyReporting.oneTrack (h : OnlyReporting s t) (f : Face) (i : Fin 24) : OneTrack f i s t := by
  have face := h.sameTables.teFace f
  obtain ⟨_, _, _, _, ⟨_, sm, pu⟩, _⟩ := h
  exact ⟨fun j _ => by rw [face], sm, pu⟩

theorem onTe_oneTrack (s : State) (f : Face) (i : Fin 24) {g : TrackEngine → TrackEngine} (hg : (g s.te).faces = s.te.faces) :
    OneTrack f i s (s.onTe g) :=
  ⟨fun j _ => congrArg (fun e : PerFace TeFace => (e.get f).tracks[j]) hg, rfl, rfl⟩

theorem onTeFace_oneTrack (s : State) (f : Face) (i : Fin 24) {g : TeFace → TeFace}
    (hg : ∀ j : Fin 24, j ≠ i → (g (s.teFace f)).tracks[j] = (s.teFace f).tracks[j]) : OneTrack f i s (s.onTeFace f g) := by
  refine ⟨fun j hj => ?_, rfl, rfl⟩
  rw [State.teFace, State.onTeFace_te, PerFace.get_modify_same]
  exact hg j hj

theorem setTrack_oneTrack (s : State) (f : Face) (i : Fin 24) (v : Option Track) : OneTrack f i s (s.setTrack f i v) :=
  onTeFace_oneTrack s f i fun _ hj => getElem_set_other _ _ hj

theorem repeatMark_oneTrack (s : State) (f : Face) (i : Fin 24) (x : Track) (stamp : Int) :
    OneTrack f i s (repeatMark s f i x stamp) := by
  unfold repeatMark
  split
  · exact .refl f i s
  · split
    · exact .refl f i s
    · split
      · exact .refl f i s
      · exact ((requestOnly_reporting s _ _ _).oneTrack f i).trans (setTrack_oneTrack _ f i _)

theorem countOne_oneTrack (part : FacePart) (f : Face) (item : LineItem) (claims : List Claimed) (s : State)
    (i : Fin 24) (x : Track) : OneTrack f i s (countOne part f item claims s (i, x)) := by
  unfold countOne
  dsimp only
  split
  · exact (setTrack_oneTrack s f i _).trans (repeatMark_oneTrack _ f i _ _)
  · exact setTrack_oneTrack s f i _

theorem failTrack_oneTrack (s : State) (f : Face) (i : Fin 24) (x : Track) (cut : Bool) :
    OneTrack f i s (failTrack s f i x cut) :=
  ((issueMarked_reporting s _ _ _).oneTrack f i).trans
    ((setTrack_oneTrack _ f i none).trans (onTeFace_oneTrack _ f i fun _ _ => rfl))

theorem openStreak_oneTrack (s : State) (f : Face) (i : Fin 24) (x : Track) (stamp : Int) :
    OneTrack f i s (openStreak s f i x stamp) := by
  unfold openStreak
  exact (onTe_oneTrack s f i rfl).trans (((issueMarked_reporting _ _ _ _).oneTrack f i).trans
    ((setTrack_oneTrack _ f i _).trans (((raise_reporting _ _).oneTrack f i).trans
      (onTeFace_oneTrack _ f i fun _ _ => rfl))))

theorem confirmTrack_oneTrack (s : State) (f : Face) (i : Fin 24) (x : Track) (stamp : Int) :
    OneTrack f i s (confirmTrack s f i x stamp) := by
  unfold confirmTrack
  split
  · exact failTrack_oneTrack s f i x false
  · exact openStreak_oneTrack s f i x stamp

theorem closeTrack_oneTrack (s : State) (f : Face) (i : Fin 24) (x : Track) (reason : CloseReason) (survivor : Nat) :
    OneTrack f i s (closeTrack s f i x reason survivor) :=
  ((issue_reporting s _).oneTrack f i).trans
    ((setTrack_oneTrack _ f i none).trans (onTeFace_oneTrack _ f i fun _ _ => rfl))

theorem changeOne_oneTrack (part : FacePart) (f : Face) (desc : LineDesc) (s : State) (i : Fin 24) :
    OneTrack f i s (changeOne part f desc s i) := by
  unfold changeOne
  dsimp only
  split
  · exact .refl f i s
  · split
    · split
      · exact confirmTrack_oneTrack s f i _ _
      · split
        · exact failTrack_oneTrack s f i _ _
        · exact .refl f i s
    · split
      · exact setTrack_oneTrack s f i _
      · exact .refl f i s
    · split
      · exact closeTrack_oneTrack s f i _ _ _
      · exact .refl f i s

/-! ## The stages of the Track Engine on at most one track (R79) -/

theorem agedTracks_none (h : ∀ j : Fin 24, (s.teFace f).tracks[j] = none) : agedTracks s f = [] := by
  unfold agedTracks
  rw [taken_free h]
  rfl

theorem agedTracks_one (hx : (s.teFace f).tracks[i] = some x)
    (ho : ∀ j : Fin 24, j ≠ i → (s.teFace f).tracks[j] = none) : agedTracks s f = [(i, x)] := by
  unfold agedTracks
  rw [taken_one hx ho]
  rfl

/-- R91: a track with no other beside it takes none in. -/
theorem mergeLane_alone (ho : ∀ j : Fin 24, j ≠ i → (s.teFace f).tracks[j] = none) (part : FacePart) (stamp : Int)
    (lane : Nat) : mergeLane part f stamp s lane = s := by
  unfold mergeLane
  cases hi : (s.teFace f).tracks[i] with
  | none =>
    have free : ∀ j : Fin 24, (s.teFace f).tracks[j] = none := fun j => by
      by_cases e : j = i
      · rw [e, hi]
      · exact ho j e
    rw [agedTracks_none free]
    rfl
  | some x =>
    rw [agedTracks_one hi ho, List.filter_cons]
    split <;> rfl

theorem claimant_none (part : FacePart) (desc : LineDesc) (r : Run) : claimant part desc [] r = none := by
  unfold claimant
  split <;> rfl

theorem claimant_one {r : Run} (hc : candidateFor part desc r x = true) (hk : (part.lane r.lane).kind = .coated)
    (hs : desc.sect = .coated) (i : Fin 24) : claimant part desc [(i, x)] r = some i := by
  unfold claimant
  have picked : [(i, x)].filter (fun z : Fin 24 × Track => candidateFor part desc r z.2) = [(i, x)] :=
    List.filter_cons_of_pos hc
  rw [if_pos ⟨hk, hs⟩, picked]
  rfl

/-- R79, R80: on a face without tracks every run stays unclaimed. -/
theorem trackLine_none (h : ∀ j : Fin 24, (s.teFace f).tracks[j] = none) (part : FacePart) (item : LineItem) :
    trackLine s f part item = (s, item.runs) := by
  have unclaimed : claimRuns part item.desc [] item.runs = item.runs.map fun r => { run := r, track := none } :=
    List.map_congr_left fun r _ => by rw [claimant_none]
  have merged := List.foldl_fixed' (fun lane => mergeLane_alone (i := 0) (fun j _ => h j) part item.desc.stamp lane)
    (List.range part.lanes.length)
  unfold trackLine
  rw [agedTracks_none h, taken_free h, unclaimed]
  refine Prod.ext merged ?_
  simp [List.filter_map, Function.comp_def]

/-- R79: on a face with one track, which claims every run, its count and its change are all there is. -/
theorem trackLine_one (hx : (s.teFace f).tracks[i] = some x)
    (ho : ∀ j : Fin 24, j ≠ i → (s.teFace f).tracks[j] = none)
    (hc : ∀ r ∈ item.runs, claimant part item.desc [(i, x)] r = some i) :
    trackLine s f part item =
      (changeOne part f item.desc
        (countOne part f item (item.runs.map fun r => { run := r, track := some i }) s (i, x)) i, []) := by
  have claims : claimRuns part item.desc [(i, x)] item.runs = item.runs.map fun r => { run := r, track := some i } :=
    List.map_congr_left fun r hr => by rw [hc r hr]
  have kept := (countOne_oneTrack part f item (item.runs.map fun r => { run := r, track := some i }) s i x).trans
    (changeOne_oneTrack part f item.desc _ i)
  have merged := List.foldl_fixed' (fun lane => mergeLane_alone (i := i)
    (fun j hj => (kept.others j hj).trans (ho j hj)) part item.desc.stamp lane) (List.range part.lanes.length)
  unfold trackLine
  rw [agedTracks_one hx ho, taken_one hx ho, claims]
  refine Prod.ext merged ?_
  simp [List.filter_map, Function.comp_def]

/-! ## Spots that every line joins (R65, R75) -/

/-- R65: with every open spot joined on the line, none grows quieter and none closes. -/
theorem quietStep_joined (h : ∀ j y, (s.smFace f).spots[(j : Fin 64)] = some y → y.lastLine = item.desc.number)
    (part : FacePart) : quietStep s f part item = { state := s, closures := [] } := by
  have same : ((s.smFace f).spots.map fun o => o.map (quietSpot part item)) = (s.smFace f).spots := by
    refine Vector.ext fun k hk => ?_
    show ((s.smFace f).spots.map fun o => o.map (quietSpot part item))[(⟨k, hk⟩ : Fin 64)] =
      (s.smFace f).spots[(⟨k, hk⟩ : Fin 64)]
    rw [getElem_mapped]
    cases hy : (s.smFace f).spots[(⟨k, hk⟩ : Fin 64)] with
    | none => rfl
    | some y => exact congrArg some (if_pos (h _ y hy))
  have state : (s.onSmFace f fun m => { m with spots := m.spots.map fun o => o.map (quietSpot part item) }) = s :=
    onSmFace_same (by rw [same])
  unfold quietStep closeSpots
  split
  · rfl
  · dsimp only
    rw [state, picked_none fun j y hy ends => ?_]
    · rfl
    · have joined := h j y hy
      simp [joined] at ends

theorem horizon_none (h : ∀ j : Fin 64, (s.smFace f).spots[j] = none) : horizon s f = none := by
  unfold horizon
  rw [taken_free h]
  rfl

theorem horizon_one {k : Fin 64} {y : Spot} (hy : (s.smFace f).spots[k] = some y)
    (ho : ∀ j : Fin 64, j ≠ k → (s.smFace f).spots[j] = none) : horizon s f = some y.firstStamp := by
  unfold horizon
  rw [taken_one hy ho]
  rfl

/-! ## The line's progress (R109, R110) -/

/-- The face's progress stands at `through`, its last line and its doubts are those of the item. -/
def lineThrough (s : State) (f : Face) (item : LineItem) (through : Int) : State :=
  { s with
    pu :=
      { s.pu with
        faces :=
          s.pu.faces.set f
            { (if s.pu.active then lineDoubts s f item else []).foldl (logDoubt item.desc.stamp) (s.puFace f) with
              processed := through
              lastLine := some item.desc.stamp } } }

theorem lineProgress_none {front : Option Int} {through : Int}
    (ht : (front.map fun h => min item.desc.stamp (h - 1)).getD item.desc.stamp = through) (h : NoneDue s f through) :
    lineProgress s f item front = discardLogs (lineThrough s f item through) := by
  have moved : NoneDue (lineThrough s f item through) f ((lineThrough s f item through).puFace f).processed := by
    unfold NoneDue State.puFace lineThrough
    dsimp only
    rw [PerFace.get_set_same]
    exact h
  subst ht
  exact congrArg discardLogs (resolvePassed_none moved)

/-! ## The line item (R60, R79, R103) -/

/-- The Track Engine remembers the face part of the line item (R67, R95). -/
def rememberPart (s : State) (f : Face) (part : FacePart) : State := s.onTeFace f fun e => { e with lastPart := some part }

theorem processLine_eq (s : State) (f : Face) (part : FacePart) (item : LineItem) :
    processLine s f part item =
      let tracked := trackLine s f part item
      let offered := (rememberPart tracked.1 f part).onSmFace f fun m => tracked.2.foldl (offerRun part item.desc) m
      let quieted := quietStep offered f part item
      let handed := handoverStep quieted.state f part item.desc
      lineProgress (quieted.closures.foldl takeClosure handed) f item (horizon handed f) := rfl

theorem takeLineItem_eq {h : Handed} {rest : List Handed} (hh : (s.rxFace f).handed = h :: rest) (hk : h.kind = .line item) :
    takeLineItem s f = processLine { s with rx := s.rx.set f { s.rxFace f with handed := rest } } f h.facePart item := by
  unfold takeLineItem
  rw [hh]
  dsimp only
  rw [hk, popHanded_eq hh]

/-- A line after whose runs every open spot has been joined and none asks for its handover. -/
theorem processLine_joined {unclaimed : List Run} {offered : State} (ht : trackLine s f part item = (u, unclaimed))
    (ho : ((rememberPart u f part).onSmFace f fun m => unclaimed.foldl (offerRun part item.desc) m) = offered)
    (hj : ∀ j y, (offered.smFace f).spots[(j : Fin 64)] = some y →
      y.lastLine = item.desc.number ∧ qualifies part y = false) :
    processLine s f part item = lineProgress offered f item (horizon offered f) := by
  rw [processLine_eq, ht]
  dsimp only
  rw [ho, quietStep_joined fun j y hy => (hj j y hy).1]
  dsimp only
  rw [handoverStep_none fun j y hy asks => ?_]
  · rfl
  · have qualified := (asksHandover_iff.1 asks).2
    rw [(hj j y hy).2] at qualified
    cases qualified

/-- A line whose every run is claimed, on a face with no open spot. -/
theorem processLine_claimed (ht : trackLine s f part item = (u, [])) (hs : ∀ j : Fin 64, (u.smFace f).spots[j] = none)
    (hd : NoneDue u f item.desc.stamp) :
    processLine s f part item = discardLogs (lineThrough (rememberPart u f part) f item item.desc.stamp) := by
  have free : ∀ j : Fin 64, ((rememberPart u f part).smFace f).spots[j] = none := hs
  have joined := processLine_joined ht (onSmFace_same (s := rememberPart u f part) (f := f) (g := fun m => m) rfl)
    fun j y hy => by
      rw [free j] at hy
      cases hy
  rw [joined, horizon_none free]
  exact lineProgress_none (s := rememberPart u f part) rfl hd

/-- R75: a spot of one line does not qualify while handover starts beyond one line. -/
theorem qualifies_openSpot (h : 1 < part.streakStart) (desc : LineDesc) (r : Run) :
    qualifies part (openSpot desc r) = false := by
  refine Bool.eq_false_iff.2 fun q => ?_
  obtain ⟨_, _, long, _⟩ := qualifies_iff.1 q
  have one : (openSpot desc r).mdExtent = 1 := by simp [Spot.mdExtent, openSpot]
  omega

/-- A line with one run on an empty face: the run opens the face's first spot, which becomes the horizon. -/
theorem processLine_opens {r : Run} (hr : item.runs = [r]) (hf : TablesFree s f)
    (hd : NoneDue s f (item.desc.stamp - 1)) (hq : 1 < part.streakStart) :
    processLine s f part item =
      discardLogs
        (lineThrough
          { rememberPart s f part with
            sm :=
              s.sm.set f
                { s.smFace f with spots := (s.smFace f).spots.set 0 (some (openSpot item.desc r)) } }
          f item (item.desc.stamp - 1)) := by
  obtain ⟨noTrack, noSpot⟩ := hf
  generalize ho : ({ rememberPart s f part with
    sm := s.sm.set f { s.smFace f with spots := (s.smFace f).spots.set 0 (some (openSpot item.desc r)) } } : State) = offered
  have opened : ((rememberPart s f part).onSmFace f fun m => [r].foldl (offerRun part item.desc) m) = offered := by
    have first := offerRun_opens (part := part) (desc := item.desc) (m := s.smFace f) (r := r) (i := 0)
      (fun j y hy => by rw [noSpot j] at hy; cases hy) (noSpot 0) fun j hj => absurd hj (Fin.not_lt_zero j)
    rw [← ho, onSmFace_eq]
    exact congrArg (fun m => ({ rememberPart s f part with sm := s.sm.set f m } : State)) first
  have spots : (offered.smFace f).spots = (s.smFace f).spots.set 0 (some (openSpot item.desc r)) := by
    rw [← ho, State.smFace, PerFace.get_set_same]
  have spot : (offered.smFace f).spots[(0 : Fin 64)] = some (openSpot item.desc r) := by
    rw [spots]
    exact Vector.getElem_set_self _
  have others : ∀ j : Fin 64, j ≠ 0 → (offered.smFace f).spots[j] = none := fun j hj => by
    rw [spots]
    exact (getElem_set_other (i := 0) _ _ hj).trans (noSpot j)
  have joined := processLine_joined ((trackLine_none noTrack part item).trans (by rw [hr])) opened fun j y hy => by
    by_cases e : j = 0
    · obtain rfl := Option.some.inj (spot.symm.trans (e ▸ hy))
      exact ⟨rfl, qualifies_openSpot hq item.desc r⟩
    · rw [others j e] at hy
      cases hy
  rw [joined, horizon_one spot others]
  refine lineProgress_none (min_eq_right (by show item.desc.stamp - 1 ≤ item.desc.stamp; omega)) ?_
  rw [← ho]
  exact hd

/-- Settles O27: the stages by `processLine_eq`; a line without runs and one whose every run is claimed by `processLine_claimed`; one
that opens a spot by `processLine_opens`. -/
theorem lineItemProcessed : Obligations.LineItemProcessed := by
  intro f h item rest s hq hh hk part stamp popped remembered progressed
  have item_eq : takeLineItem s f = processLine popped f part item := takeLineItem_eq hh hk
  refine ⟨?_, fun hr hf hd => ?_, fun r hr hf hd _ hstart => ?_, ?_⟩
  · intro tracked offered quieted handed u hu
    exact exec_onlyStatus rfl (item_eq.trans (processLine_eq popped f part item)) hu
  · have unclaimed : trackLine popped f part item = (popped, []) :=
      (trackLine_none (s := popped) hf.1 part item).trans (by rw [hr])
    exact exec_onlyStatus rfl (item_eq.trans (processLine_claimed unclaimed hf.2 hd)) hq.1
  · exact exec_onlyStatus rfl (item_eq.trans (processLine_opens (s := popped) hr hf hd hstart)) hq.1
  · intro i x hx ho hs hc hlane hsect counted changed hd hl
    have claims : ∀ r ∈ item.runs, claimant part item.desc [(i, x)] r = some i := fun r hr =>
      claimant_one (hc r hr) (hlane r hr) (hsect (List.ne_nil_of_mem hr)) i
    have tracked : trackLine popped f part item = (changed, []) := trackLine_one (s := popped) hx ho claims
    have kept : OneTrack f i popped changed :=
      (countOne_oneTrack part f item _ popped i x).trans (changeOne_oneTrack part f item.desc counted i)
    have free : ∀ j : Fin 64, (changed.smFace f).spots[j] = none := fun j => by
      rw [State.smFace, kept.sm]
      exact hs j
    have due : NoneDue changed f stamp := by
      unfold NoneDue
      rw [kept.pu]
      exact hd
    exact exec_onlyStatus rfl (item_eq.trans (processLine_claimed tracked free due)) hl

end Sys2Proof.Machine
end

section
/-! SUPPORT. Who else leaves the tables of tracks and spots alone: the encoder and the section tracker, the scan links, pages, reads,
batches and orders, and the clock. One lemma for each operation, each citing those of the operations it is made of. -/

namespace Sys2Proof.Machine

variable {s t u : State}

theorem OnlyHeads.sameTables (h : OnlyHeads s t) : SameTables s t := by
  obtain ⟨te, sm, _⟩ := h.defects
  exact ⟨te, sm⟩

/-- What comes before may be any update of other blocks. -/
theorem SameTables.of_eq (h : SameTables t u) (te : t.te = s.te) (sm : t.sm = s.sm) : SameTables s u :=
  ⟨h.te.trans te, h.sm.trans sm⟩

theorem onXu_tables (s : State) (g : ExchangeUnit → ExchangeUnit) : SameTables s (s.onXu g) := ⟨rfl, rfl⟩
theorem onMu_tables (s : State) (g : MotionUnit → MotionUnit) : SameTables s (s.onMu g) := ⟨rfl, rfl⟩
theorem onKu_tables (s : State) (g : MarkUnit → MarkUnit) : SameTables s (s.onKu g) := ⟨rfl, rfl⟩
theorem onRs_tables (s : State) (g : RecipeStore → RecipeStore) : SameTables s (s.onRs g) := ⟨rfl, rfl⟩
theorem pushStream_tables (s : State) (f : Face) (item : StreamItem) : SameTables s (s.pushStream f item) := ⟨rfl, rfl⟩
theorem popHanded_tables (s : State) (f : Face) : SameTables s (popHanded s f) := ⟨rfl, rfl⟩

theorem wantStatus_tables (s : State) (owed : Owed) : SameTables s (wantStatus s owed) :=
  (wantStatus_reporting s owed).sameTables

theorem captureFault_tables (s : State) (code : FaultCode) : SameTables s (captureFault s code) :=
  (captureFault_reporting s code).sameTables

theorem issue_tables (s : State) (body : RecordBody) : SameTables s (issue s body) := (issue_reporting s body).sameTables

/-! ## Assembly, HELLOs and packets -/

theorem assembleOldest_tables (s : State) (f : Face) : SameTables s (assembleOldest s f) := by
  unfold assembleOldest
  split
  · exact .refl s
  · exact assembleLine_tables s f _

theorem assembleComplete_tables (n : Nat) (s : State) (f : Face) : SameTables s (assembleComplete n s f) := by
  induction n generalizing s with
  | zero => exact .refl s
  | succ n ih =>
    unfold assembleComplete
    split
    · exact .refl s
    · split
      · exact (assembleLine_tables s f _).trans (ih _)
      · exact .refl s

theorem assembleReady_tables (s : State) (f : Face) : SameTables s (assembleReady s f) := assembleComplete_tables _ s f

theorem assembleOverdue_tables (n : Nat) (s : State) (f : Face) : SameTables s (assembleOverdue n s f) := by
  induction n generalizing s with
  | zero => exact .refl s
  | succ n ih =>
    unfold assembleOverdue
    split
    · exact .refl s
    · split
      · exact ((assembleLine_tables s f _).trans (assembleReady_tables _ f)).trans (ih _)
      · exact .refl s

theorem takeHello_tables (s : State) (p : Port) (hello : Hello) : SameTables s (takeHello s p hello) := by
  have remembered := onHead_tables s p fun h => { h with hello := some hello }
  unfold takeHello
  dsimp only
  split
  · exact remembered
  · split
    · exact remembered
    · refine SameTables.trans ?_ (assembleReady_tables _ _)
      split
      · exact remembered.trans (readyHead_onlyHeads _ p).sameTables
      · exact remembered.trans (mismatchHead_onlyHeads _ p _ _).sameTables

theorem receiveHello_tables (s : State) (p : Port) (packet : Packet) : SameTables s (receiveHello s p packet) := by
  unfold receiveHello
  split
  · split
    · exact takeHello_tables s p _
    · exact onHead_tables s p _
  · exact .refl s

theorem resetHead_tables (s : State) (p : Port) : SameTables s (resetHead s p) := by
  have sent := (sendRetrain_onlyHeads s p).sameTables
  unfold resetHead
  dsimp only
  split
  · exact sent
  · exact ((sent.trans (leaveLive_tables _ p)).trans (onHead_tables _ p _)).trans (assembleReady_tables _ _)

theorem matchLine_tables (s : State) (p : Port) (packet : Packet) : SameTables s (matchLine s p packet) := by
  unfold matchLine
  dsimp only
  split
  · exact onHead_tables s p _
  · exact ((giveUp_onlyHeads s p _).sameTables.trans (onHead_tables _ p _)).trans (assembleReady_tables _ _)

theorem receiveLine_tables (s : State) (p : Port) (packet : Packet) : SameTables s (receiveLine s p packet) := by
  have counted : ∀ g, SameTables s (s.onCounters p g) := fun _ => onHead_tables s p _
  unfold receiveLine
  split
  · split
    · exact counted _
    · split
      · exact counted _
      · split
        · exact counted _
        · split
          · exact counted _
          · exact matchLine_tables s p packet
  · exact .refl s

theorem takeItem_tables (s : State) (f : Face) : SameTables s (takeItem s f) := by
  unfold takeItem
  split
  · exact .refl s
  · exact ⟨rfl, rfl⟩

theorem makeRoom_tables (s : State) (f : Face) : SameTables s (makeRoom s f) := by
  unfold makeRoom
  split
  · exact (assembleOldest_tables s f).trans (assembleReady_tables _ f)
  · exact .refl s

theorem triggerLine_tables (s : State) (f : Face) (desc : LineDesc) : SameTables s (triggerLine s f desc) := by
  have sent : ∀ (ports : List Port) v, SameTables v (ports.foldl (sendTrigger desc) v) :=
    foldl_tables _ fun v p => (sendTrigger_onlyHeads desc v p).sameTables
  have opened := fun v item => (pushStream_tables v f item).trans (onLuFace_tables _ f fun l =>
    { l with lastTriggered := some { number := desc.number, stamp := desc.stamp } })
  exact (makeRoom_tables s f).trans ((sent _ _).trans ((opened _ _).trans (assembleReady_tables _ f)))

/-! ## Boundaries, splices and the line -/

theorem finishFace_tables (s : State) (f : Face) : SameTables s (finishFace s f) :=
  (onMuFace_tables s f fun m => { m with finished := true }).trans ((onMu_tables _ _).trans (closeSkip_tables _ f))

theorem makePatchEnd_tables (s : State) (f : Face) (stamp : Int) (flags : PatchFlags) :
    SameTables s (makePatchEnd s f stamp flags) := by
  have pushed := fun item => (onMuFace_tables s f fun m => { m with sect := .gap, lastEnd := stamp }).trans
    (pushStream_tables _ f item)
  unfold makePatchEnd
  dsimp only
  split
  · exact (pushed _).trans (finishFace_tables _ f)
  · exact pushed _

theorem applyPending_tables (s : State) (f : Face) (stamp : Int) : SameTables s (applyPending s f stamp).1 := by
  unfold applyPending
  split
  · exact .refl s
  · dsimp only
    exact (issue_tables _ _).of_eq rfl rfl

theorem makePatchStart_tables (s : State) (f : Face) (stamp : Int) (flags : StartFlags) :
    SameTables s (makePatchStart s f stamp flags) := by
  unfold makePatchStart
  exact ((onMuFace_tables s f _).trans (applyPending_tables _ f stamp)).trans (pushStream_tables _ f _)

theorem applyBoundary_tables (s : State) (f : Face) (b : Boundary) : SameTables s (applyBoundary s f b) := by
  cases b with
  | edge e =>
    have popped := onMuFace_tables s f fun m => { m with edges := m.edges.tail }
    unfold applyBoundary applyEdge
    dsimp only
    split
    · exact popped.trans (makePatchStart_tables _ f _ _)
    · exact popped.trans (makePatchStart_tables _ f _ _)
    · exact popped.trans (makePatchEnd_tables _ f _ _)
    all_goals exact popped.trans (onMuFace_tables _ f _)
  | synthetic x =>
    unfold applyBoundary applySynthetic
    dsimp only
    split
    · exact makePatchEnd_tables s f _ _
    · exact makePatchStart_tables s f _ _
    · exact .refl s
  | segment x =>
    have ended := makePatchEnd_tables s f x (segmentFlags (s.muFace f))
    unfold applyBoundary applySegment
    dsimp only
    split
    · exact ended
    · exact ended.trans (makePatchStart_tables _ f _ _)

theorem applyBoundaries_tables (n : Nat) (s : State) (f : Face) (stamp : Int) :
    SameTables s (applyBoundaries n s f stamp) := by
  induction n generalizing s with
  | zero => exact .refl s
  | succ n ih =>
    unfold applyBoundaries
    split
    · exact .refl s
    · split
      · exact .refl s
      · split
        · exact (applyBoundary_tables s f _).trans (ih _)
        · exact .refl s

theorem meetSplices_tables (s : State) (f : Face) (stamp : Int) : SameTables s (meetSplices s f stamp) := by
  have each : ∀ v e, SameTables v (enterZone f stamp v e) := fun v e => by
    have pushed := pushStream_tables v f .spliceClosure
    unfold enterZone
    split
    · cases f with
      | upper => exact pushed.trans (issue_tables _ _)
      | lower => exact pushed
    · exact .refl v
  exact (foldl_tables _ each s.mu.splices s).trans (onMu_tables _ _)

theorem prepareLine_tables (s : State) (sp : SharedPart) (f : Face) : SameTables s (prepareLine s sp f) := by
  have bounds := applyBoundaries_tables (boundaryFuel s f (lineStamp s sp (s.muFace f).nextLine)) s f
    (lineStamp s sp (s.muFace f).nextLine)
  have met := bounds.trans (meetSplices_tables _ f (lineStamp s sp (s.muFace f).nextLine))
  unfold prepareLine
  dsimp only
  split
  · exact bounds
  · refine SameTables.trans ?_ (onMuFace_tables _ f _)
    split
    · exact met.trans (((closeSkip_tables _ f).trans (onMuFace_tables _ f _)).trans (triggerLine_tables _ f _))
    · exact met.trans ((onMuFace_tables _ f _).trans (pushStream_tables _ f _))

theorem prepareIfDue_tables (s : State) (sp : SharedPart) (f : Face) : SameTables s (prepareIfDue s sp f) := by
  unfold prepareIfDue
  split
  · exact prepareLine_tables s sp f
  · exact .refl s

/-! ## Samples of the mark and splice inputs, and the encoder -/

theorem sampleMark_tables (s : State) (sp : SharedPart) (f : Face) : SameTables s (sampleMark s sp f) := by
  unfold sampleMark
  dsimp only
  split
  · exact .refl s
  · split <;> exact onMuFace_tables s f _

theorem acceptSplice_tables (s : State) (sp : SharedPart) (z : Int) : SameTables s (acceptSplice s sp z) := by
  unfold acceptSplice
  dsimp only
  split
  · split
    · exact (onMu_tables s _).trans (issue_tables _ _)
    · exact onMu_tables s _
  · exact issue_tables s _

theorem sampleSplice_tables (s : State) (sp : SharedPart) : SameTables s (sampleSplice s sp) := by
  unfold sampleSplice
  dsimp only
  split
  · exact .refl s
  · split
    · exact onMu_tables s _
    · split
      · exact ((onMu_tables s _).trans (onMu_tables _ _)).trans (acceptSplice_tables _ _ _)
      · exact (onMu_tables s _).trans (onMu_tables _ _)

theorem sendLimit_tables (s : State) : SameTables s (sendLimit s) := by
  unfold sendLimit
  split <;> exact ⟨rfl, rfl⟩

theorem inspectAdvance_tables (s : State) : SameTables s (inspectAdvance s) := by
  unfold inspectAdvance
  split
  · exact .refl s
  · have sampled := fun v sp => (sampleMark_tables v sp .upper).trans
      ((sampleMark_tables _ sp .lower).trans (sampleSplice_tables _ sp))
    exact (sendLimit_tables s).trans ((sampled _ _).trans
      ((prepareIfDue_tables _ _ .upper).trans (prepareIfDue_tables _ _ .lower)))

theorem endPulse_tables (s : State) (o : MarkOut) : SameTables s (endPulse s o) := by
  unfold endPulse
  split
  · split
    · exact onKu_tables s _
    · exact .refl s
  all_goals exact .refl s

theorem advanceMarks_tables (s : State) : SameTables s (advanceMarks s) := by
  have taken : ∀ (due : List MarkEntry) v, SameTables v (due.foldl takeMark v) :=
    foldl_tables _ fun v e => (takeMark_reporting v e).sameTables
  exact (onKu_tables s _).trans ((taken _ _).trans ((endPulse_tables _ _).trans (endPulse_tables _ _)))

theorem cutPulses_tables (s : State) : SameTables s (cutPulses s) := by
  have cut : ∀ v o, SameTables v (cutOutput v o) := fun v o => by
    unfold cutOutput
    split <;> exact ⟨rfl, rfl⟩
  exact (cut s _).trans (cut _ _)

theorem breakActivated_tables (s : State) : SameTables s (breakActivated s) := by
  have flagged := (cutPulses_tables s).trans (onKu_tables _ fun k => { k with breakFlag := true })
  unfold breakActivated
  dsimp only
  split
  · exact (raise_reporting s _).sameTables
  · split
    · exact flagged.trans ((onKu_tables _ _).trans (raise_reporting _ _).sameTables)
    · exact flagged.trans (raise_reporting _ _).sameTables

theorem forwardStep_tables (s : State) : SameTables s (forwardStep s) := by
  have moved : ∀ p, SameTables s (movePosition (s.onMu fun m => { m with direction := .forward }) p) := fun p => ⟨rfl, rfl⟩
  unfold forwardStep advance
  dsimp only
  split
  · split
    · refine SameTables.trans ?_ (advanceMarks_tables _)
      split
      · exact (moved _).trans ((onMu_tables _ _).trans (inspectAdvance_tables _))
      · exact (moved _).trans (onMu_tables _ _)
    · exact moved _
  · exact onMu_tables s _

theorem reverseStep_tables (s : State) : SameTables s (reverseStep s) := by
  have turned : SameTables s
      (if s.mu.direction = .forward then cutPulses (s.onMu fun m => { m with direction := .reverse }) else s) := by
    split
    · exact (onMu_tables s _).trans (cutPulses_tables _)
    · exact .refl s
  unfold reverseStep
  dsimp only
  split
  · exact turned.trans (onMu_tables _ _)
  · exact turned

theorem decodeLevels_tables (s : State) (a b : Phase) : SameTables s (decodeLevels s a b) := by
  have jump : ∀ v, SameTables v (encoderJump v) := fun v => by
    unfold encoderJump
    split <;> exact ⟨rfl, rfl⟩
  have accepted := onMu_tables s fun m => { m with phaseA := a, phaseB := b }
  unfold decodeLevels decodeStep
  dsimp only
  split
  · exact accepted
  · split
    · exact accepted.trans (forwardStep_tables _)
    · split
      · exact accepted.trans (reverseStep_tables _)
      · exact accepted.trans (jump _)

theorem rawChange_tables (s : State) (a b : Bool) (sensors : Sensors) : SameTables s (rawChange s a b sensors) :=
  (decodeLevels_tables ((setSensors s sensors).onPins fun p => { p with encA := a, encB := b }) _ _).of_eq rfl rfl

theorem holdExpiry_tables (s : State) (phases : Phases) (sensors : Sensors) : SameTables s (holdExpiry s phases sensors) := by
  have set : SameTables s (setSensors s sensors) := ⟨rfl, rfl⟩
  unfold holdExpiry
  dsimp only
  split
  · cases phases <;> exact set.trans (decodeLevels_tables _ _ _)
  · exact set

theorem clearFlags_tables (s : State) (mask : Byte) : SameTables s (clearFlags s mask) := by
  unfold clearFlags
  dsimp only
  split
  · exact (onXu_tables s _).trans (sendMessage_reporting _ _).sameTables
  · exact onXu_tables s _

/-! ## Samples, stock, pages and reads -/

theorem startSample_tables (s : State) : SameTables s (startSample s) := by
  unfold startSample
  split
  · exact .refl s
  · split <;> exact ⟨rfl, rfl⟩

theorem endSample_tables (s : State) : SameTables s (endSample s) := by
  unfold endSample
  dsimp only
  split
  · exact (onXu_tables s _).trans (startSample_tables _)
  · exact onXu_tables s _

theorem skipInvalid_tables (n : Nat) (s : State) : SameTables s (skipInvalid n s) := by
  induction n generalizing s with
  | zero => exact .refl s
  | succ n ih =>
    unfold skipInvalid
    split
    · exact .refl s
    · exact ((onXu_tables s _).trans (captureFault_tables _ _)).trans (ih _)

theorem takeFromStock_tables (s : State) : SameTables s (takeFromStock s) := by
  have empty : ∀ v, SameTables v (stockEmpty v) := fun v => by
    unfold stockEmpty
    split
    · exact .refl v
    · exact (onXu_tables v _).trans (raise_reporting _ _).sameTables
  have skipped := skipInvalid_tables (Config.listEntries + 1) s
  unfold takeFromStock
  dsimp only
  split
  · exact skipped.trans (empty _)
  · unfold takePage
    exact skipped.trans (onXu_tables _ _)

theorem beginPost_tables (s : State) (reason : PostReason) : SameTables s (beginPost s reason) := by
  unfold beginPost
  split
  · exact .refl s
  · split <;> exact ⟨rfl, rfl⟩

theorem loseRecords_tables (s : State) (records : List Record) : SameTables s (loseRecords s records) :=
  foldl_tables loseRecord (fun _ _ => ⟨rfl, rfl⟩) records s

theorem abandonPage_tables (s : State) (records : List Record) : SameTables s (abandonPage s records) := by
  have lost := (loseRecords_tables s records).trans (testLoss_reporting _).sameTables
  unfold abandonPage
  dsimp only
  split
  · exact lost.trans (captureFault_tables _ _)
  · exact lost.trans (issue_tables _ _)

theorem drainInto_tables (s : State) (page : Page) (rec : Record) (rest : List Record) :
    SameTables s (drainInto s page rec rest) := by
  have written : SameTables s (testLoss (writeRecord s page rec rest)) :=
    (testLoss_reporting (writeRecord s page rec rest)).sameTables.of_eq rfl rfl
  unfold drainInto postWhenFull
  split
  · split
    · exact written
    · split
      · exact written.trans (beginPost_tables _ _)
      · exact written
  · exact beginPost_tables s _

theorem endCloseout_tables (s : State) : SameTables s (endCloseout s) := by
  unfold endCloseout
  dsimp only
  refine SameTables.trans ?_ (wantStatus_tables _ _)
  split
  · exact onCu_tables s _
  · exact (onCu_tables s _).trans (onXu_tables _ _)

theorem closeoutCheck_tables (s : State) : SameTables s (closeoutCheck s) := by
  unfold closeoutCheck
  split
  · split
    · exact (beginPost_tables s _).trans (onCu_tables _ _)
    · exact endCloseout_tables s
  · exact .refl s

theorem actAbandon_tables (s : State) : SameTables s (actAbandon s) := by
  have given : SameTables s (s.onRu fun r => { r with queue := [], abandoned := true }) := ⟨rfl, rfl⟩
  exact given.trans ((loseRecords_tables _ _).trans (closeoutCheck_tables _))

theorem afterPost_tables (s : State) (written : Bool) : SameTables s (afterPost s written) := by
  unfold afterPost
  split
  · split
    · exact endCloseout_tables s
    · exact (onCu_tables s _).trans (closeoutCheck_tables _)
  · exact closeoutCheck_tables s

theorem failPost_tables (s : State) (p : Posting) : SameTables s (failPost s p) :=
  ((onXu_tables s _).trans (abandonPage_tables _ _)).trans ((wantStatus_tables _ _).trans (afterPost_tables _ _))

theorem failPage_tables (s : State) : SameTables s (failPage s) := by
  unfold failPage failFilling
  split
  · exact failPost_tables s _
  · split
    · exact .refl s
    · exact ((onXu_tables s _).trans (abandonPage_tables _ _)).trans (closeoutCheck_tables _)
  · exact .refl s

theorem completePost_tables (s : State) : SameTables s (completePost s) := by
  unfold completePost postDone
  split
  · exact .refl s
  · exact ((onXu_tables s _).trans (wantStatus_tables _ _)).trans (afterPost_tables _ _)

theorem drainQueue_tables (s : State) : SameTables s (drainQueue s) := by
  unfold drainQueue
  split
  · exact (drainInto_tables s _ _ _).trans (closeoutCheck_tables _)
  all_goals exact .refl s

theorem endStatus_tables (s : State) : SameTables s (endStatus s) := by
  unfold endStatus
  split
  · exact .refl s
  · next w _ =>
    have paid := (onXu_tables s fun x => { x with statusWrite := none, statusWanted := none }).trans
      (payOwed_reporting _ w.owed).sameTables
    dsimp only
    split
    · exact paid
    · unfold beginStatus
      split
      · exact paid.trans (payOwed_reporting _ _).sameTables
      · exact paid.trans (writeStatus_reporting _ _).sameTables

theorem failStatus_tables (s : State) : SameTables s (failStatus s) := by
  unfold failStatus
  split
  · exact .refl s
  · exact ((onXu_tables s _).trans (captureFault_tables _ _)).trans (endStatus_tables _)

theorem pollTick_tables (s : State) : SameTables s (pollTick s) := by
  have sampled := (onXu_tables s fun x => { x with pollCount := 0, pollDue := false }).trans (startSample_tables _)
  unfold pollTick
  dsimp only
  split
  · split
    · exact sampled.trans (wantStatus_tables _ _)
    · exact sampled
  · exact .refl s

theorem agePost_tables (s : State) : SameTables s (agePost s) := by
  unfold agePost
  split
  · exact beginPost_tables s _
  · exact .refl s

theorem stallEvent_tables (s : State) : SameTables s (stallEvent s) := by
  unfold stallEvent
  split
  · exact (onMu_tables s _).trans (beginPost_tables _ _)
  · exact .refl s

theorem completeSample_tables (s : State) (generation count written : Word) :
    SameTables s (completeSample s generation count written) := by
  have copied : SameTables s (if copyWanted s generation then startCopy s generation count else s) := by
    split <;> exact ⟨rfl, rfl⟩
  unfold completeSample
  dsimp only
  split
  · refine SameTables.trans ?_ (endSample_tables _)
    split
    · exact copied.trans ⟨rfl, rfl⟩
    · exact copied
  · exact .refl s

theorem completeReread_tables (s : State) (bytes : StockBytes) : SameTables s (completeReread s bytes) := by
  unfold completeReread
  split
  · exact .refl s
  · dsimp only
    split
    · exact ⟨rfl, rfl⟩
    · split
      · exact ⟨rfl, rfl⟩
      · exact ((onXu_tables s _).trans (onXu_tables _ _)).trans (captureFault_tables _ _)

/-! ## Batches and orders -/

theorem finishBatch_tables (s : State) (generation : Word) (results : Vector OrderResult 16) :
    SameTables s (finishBatch s generation results) :=
  ((onCu_tables s _).trans (onXu_tables _ _)).trans (wantStatus_tables _ _)

theorem endOrder_tables (s : State) (result : OrderResult) : SameTables s (endOrder s result) := by
  unfold endOrder
  split
  · exact .refl s
  · dsimp only
    split
    · exact onCu_tables s _
    · exact finishBatch_tables s _ _

theorem completeCopy_tables (s : State) (entries : OrderListBytes) : SameTables s (completeCopy s entries) := by
  unfold completeCopy handBatch
  split
  · exact .refl s
  · dsimp only
    split
    · exact onXu_tables s _
    · split
      · exact (onXu_tables s _).trans (onCu_tables _ _)
      · exact (onXu_tables s _).trans (finishBatch_tables _ _ _)

theorem failRead_tables (s : State) (read : ReadKind) : SameTables s (failRead s read) := by
  cases read with
  | sample => exact (captureFault_tables s _).trans (endSample_tables _)
  | batchCopy => exact (onXu_tables s _).trans (captureFault_tables _ _)
  | stockReread => exact (onXu_tables s _).trans (captureFault_tables _ _)
  | recipeLoad => exact ((onRs_tables s _).trans (captureFault_tables _ _)).trans (endOrder_tables _ _)
  | postCompletion =>
    unfold failRead
    dsimp only
    split
    · exact .refl s
    · exact failPost_tables s _
  | statusCompletion => exact failStatus_tables s

theorem enterIdle_tables (s : State) : SameTables s (enterIdle s) := by
  unfold enterIdle
  split
  · exact ((onCu_tables s _).trans (startSample_tables _)).trans (wantStatus_tables _ _)
  · exact .refl s

theorem finishPairing_tables (s : State) (f : Face) : SameTables s (finishPairing s f) := by
  unfold finishPairing
  refine SameTables.trans ?_ (discardLogs_tables _)
  exact (foldl_tables _ (issueSingle_tables _) _ _).of_eq rfl rfl

theorem stopIfFinished_tables (s : State) : SameTables s (stopIfFinished s) := by
  unfold stopIfFinished
  split
  · exact enterClosing_tables s _
  · exact .refl s

theorem requestFinish_tables (s : State) (f : Face) : SameTables s (requestFinish s f) := by
  have asked := onMuFace_tables s f fun m => { m with finishRequest := true }
  unfold requestFinish
  dsimp only
  split
  · exact asked.trans ((finishFace_tables _ f).trans (finishPairing_tables _ f))
  · exact asked

theorem orderStop_tables (s : State) : SameTables s (orderStop s).1 := by
  unfold orderStop
  split
  case h_1 =>
    exact ((onCu_tables s _).trans (wantStatus_tables _ _)).trans
      (((requestFinish_tables _ _).trans (requestFinish_tables _ _)).trans (stopIfFinished_tables _))
  all_goals exact .refl s

theorem orderHalt_tables (s : State) : SameTables s (orderHalt s).1 := by
  have marked := onCu_tables s fun c => { c with abandon := true }
  unfold orderHalt haltClosing
  split
  · exact enterClosing_tables s _
  · exact enterClosing_tables s _
  · dsimp only
    split
    · exact .refl s
    · split
      · exact marked.trans (actAbandon_tables _)
      · exact marked.trans (actAbandon_tables _)
      all_goals exact marked
  all_goals exact .refl s

theorem activateRecipe_tables (s : State) (slot : BitVec 2) (bytes : List Byte) :
    SameTables s (activateRecipe s slot bytes) := by
  have heads : ∀ v, SameTables v (activateHeads v) := fun v => foldl_tables _ (fun w p => onHead_tables w p _) _ v
  unfold activateRecipe
  dsimp only
  refine SameTables.trans ?_ (cutPulses_tables _)
  have parts : ∀ v upper lower, SameTables v (activateParts v upper lower) := fun _ _ _ => ⟨rfl, rfl⟩
  exact ((onRs_tables s _).trans (heads _)).trans ((parts _ _ _).trans (onMu_tables _ _))

theorem judgeRecipe_tables (s : State) (slot : BitVec 2) (bytes : List Byte) :
    SameTables s (judgeRecipe s slot bytes).1 := by
  unfold judgeRecipe settleRecipe
  split
  · exact .refl s
  · split
    · exact activateRecipe_tables s slot bytes
    case h_2 | h_3 =>
      split <;> exact ⟨rfl, rfl⟩
    all_goals exact .refl s

theorem orderFlush_tables (s : State) : SameTables s (orderFlush s).1 := by
  unfold orderFlush
  split
  · exact beginPost_tables s _
  · split <;> exact .refl s

theorem orderNote_tables (s : State) (value : BitVec 64) : SameTables s (orderNote s value).1 := by
  unfold orderNote
  split
  · exact issue_tables s (.note value s.mu.h)
  · exact .refl s

theorem orderMarkon_tables (s : State) : SameTables s (orderMarkon s).1 := by
  unfold orderMarkon
  split
  · exact .refl s
  · split <;> exact ⟨rfl, rfl⟩

theorem orderLevels_tables (s : State) (levels : Vector Byte 8) : SameTables s (orderLevels s levels).1 := by
  unfold orderLevels
  split <;> exact ⟨rfl, rfl⟩

theorem orderHeadreset_tables (s : State) (head : Word) : SameTables s (orderHeadreset s head).1 := by
  unfold orderHeadreset
  split
  · split
    · exact resetHead_tables s _
    · exact .refl s
  · exact .refl s

/-! ## Power-on and the clock -/

theorem comeUp_tables (s : State) : SameTables s (comeUp s) := by
  have sent : SameTables s (retrainAll s) := foldl_tables _ (fun v p => by
    split
    · exact (sendRetrain_onlyHeads v p).sameTables
    · exact .refl v) _ s
  have changed : ∀ v, SameTables v (markChanged s v) := fun v => by
    unfold markChanged
    split <;> exact ⟨rfl, rfl⟩
  unfold comeUp
  dsimp only
  refine SameTables.trans ?_ (changed _)
  split
  · exact sent.trans (breakActivated_tables _)
  · exact sent

theorem tick_tables (s : State) : SameTables s (tick s) := by
  have ms : ∀ v, SameTables v (msTick v) := fun v => by
    unfold msTick
    rw [countPoll_eq, countStall_eq]
    exact ⟨rfl, rfl⟩
  have cycle := onMu_tables s fun m => { m with phaseA := m.phaseA.age, phaseB := m.phaseB.age }
  unfold tick countMicrosecond
  dsimp only
  split
  · exact cycle.trans (onMu_tables _ _)
  · split
    · exact ⟨rfl, rfl⟩
    · exact (ms _).of_eq rfl rfl

end Sys2Proof.Machine
end

section
/-! SUPPORT. What each operation of the Track Engine makes of its face's table and counts, said once: the table entry it sets, the
counts it moves, and the other face and the other entries, which it leaves as they are. -/

namespace Sys2Proof.Machine

variable {s t u : State} {f : Face} {i j : Fin 24} {x y : Track}

/-! ## Updates of a face -/

theorem teFace_onTeFace (s : State) (f : Face) (g : TeFace → TeFace) : (s.onTeFace f g).teFace f = g (s.teFace f) :=
  PerFace.get_modify_same _ _ _

theorem track_eq (s : State) (f : Face) (i : Fin 24) : s.track f i = (s.teFace f).tracks[i] := rfl

theorem SameTables.track (h : SameTables s t) (f : Face) (i : Fin 24) : t.track f i = s.track f i := by
  rw [track_eq, track_eq, h.teFace]

theorem OneTrack.track (h : OneTrack f i s t) (hj : j ≠ i) : t.track f j = s.track f j := h.others j hj

theorem setTrack_teFace (s : State) (f : Face) (i : Fin 24) (v : Option Track) :
    (s.setTrack f i v).teFace f = { s.teFace f with tracks := (s.teFace f).tracks.set i.val v } := teFace_onTeFace s f _

theorem setTrack_other (s : State) (f : Face) (i : Fin 24) (v : Option Track) :
    (s.setTrack f i v).teFace (otherFace f) = s.teFace (otherFace f) := onTeFace_other s f _

theorem setTrack_track (s : State) (f : Face) (i : Fin 24) (v : Option Track) : (s.setTrack f i v).track f i = v := by
  rw [track_eq, setTrack_teFace]
  exact Vector.getElem_set_self _

/-! ## Failing, opening and closing (R85 to R89) -/

/-- R87: the table entry of a track that fails is freed, and it counts among the face's larges. -/
theorem failTrack_teFace (s : State) (f : Face) (i : Fin 24) (x : Track) (cut : Bool) :
    (failTrack s f i x cut).teFace f =
      { s.teFace f with tracks := (s.teFace f).tracks.set i.val none, larges := bump16 (s.teFace f).larges } := by
  unfold failTrack
  rw [teFace_onTeFace, setTrack_teFace, (issueMarked_reporting s _ _ _).sameTables.teFace]

theorem failTrack_other (s : State) (f : Face) (i : Fin 24) (x : Track) (cut : Bool) :
    (failTrack s f i x cut).teFace (otherFace f) = s.teFace (otherFace f) := by
  unfold failTrack
  rw [onTeFace_other, setTrack_other, (issueMarked_reporting s _ _ _).sameTables.teFace]

/-- R89: the table entry of a track that closes is freed, and the open streak count falls. -/
theorem closeTrack_teFace (s : State) (f : Face) (i : Fin 24) (x : Track) (reason : CloseReason) (survivor : Nat) :
    (closeTrack s f i x reason survivor).teFace f =
      { s.teFace f with
        tracks := (s.teFace f).tracks.set i.val none
        openStreaks := (s.teFace f).openStreaks - 1 } := by
  unfold closeTrack
  rw [teFace_onTeFace, setTrack_teFace, (issue_reporting s _).sameTables.teFace]

theorem closeTrack_other (s : State) (f : Face) (i : Fin 24) (x : Track) (reason : CloseReason) (survivor : Nat) :
    (closeTrack s f i x reason survivor).teFace (otherFace f) = s.teFace (otherFace f) := by
  unfold closeTrack
  rw [onTeFace_other, setTrack_other, (issue_reporting s _).sameTables.teFace]

/-- R85, R99: the track as its streak opens; `source` is that of its mark request. -/
def openedTrack (s : State) (x : Track) (stamp : Int) (source : Word) : Track :=
  { x with
    state := .confirmed
    number := s.te.nextStreak
    confirmStamp := stamp
    nextRepeat := stamp + (s.shared.map SharedPart.repeatInterval).getD 0
    openSource := source }

/-- R85: the next streak number has been given. -/
def numberTaken (s : State) : State := s.onTe fun e => { e with nextStreak := s.te.nextStreak + 1 }

/-- R85: the STREAK_OPEN record and its mark request, once the number has been given. -/
def openingIssued (s : State) (f : Face) (x : Track) (stamp : Int) : State × Word :=
  issueMarked (numberTaken s) (openBody f x s.te.nextStreak stamp) .streak stamp

/-- R85: an opening is its record, the table entry, cause STREAK and the counts. -/
theorem openStreak_eq (s : State) (f : Face) (i : Fin 24) (x : Track) (stamp : Int) :
    openStreak s f i x stamp =
      (raise ((openingIssued s f x stamp).1.setTrack f i
        (some (openedTrack s x stamp (openingIssued s f x stamp).2))) .streak).onTeFace f fun e =>
          { e with confirmations := bump16 e.confirmations, openStreaks := e.openStreaks + 1 } := rfl

theorem openingIssued_reporting (s : State) (f : Face) (x : Track) (stamp : Int) :
    OnlyReporting (numberTaken s) (openingIssued s f x stamp).1 := issueMarked_reporting _ _ _ _

theorem openingIssued_teFace (s : State) (f g : Face) (x : Track) (stamp : Int) :
    (openingIssued s f x stamp).1.teFace g = s.teFace g :=
  (openingIssued_reporting s f x stamp).sameTables.teFace g

/-- R85: the track that opens stands CONFIRMED in its entry, and both counts rise. -/
theorem openStreak_teFace (s : State) (f : Face) (i : Fin 24) (x : Track) (stamp : Int) :
    (openStreak s f i x stamp).teFace f =
      { s.teFace f with
        tracks := (s.teFace f).tracks.set i.val (some (openedTrack s x stamp (openingIssued s f x stamp).2))
        confirmations := bump16 (s.teFace f).confirmations
        openStreaks := (s.teFace f).openStreaks + 1 } := by
  rw [openStreak_eq, teFace_onTeFace, (raise_reporting _ _).sameTables.teFace, setTrack_teFace, openingIssued_teFace]

theorem openStreak_other (s : State) (f : Face) (i : Fin 24) (x : Track) (stamp : Int) :
    (openStreak s f i x stamp).teFace (otherFace f) = s.teFace (otherFace f) := by
  rw [openStreak_eq, onTeFace_other, (raise_reporting _ _).sameTables.teFace, setTrack_other, openingIssued_teFace]

/-! ## Merging leaves the other entries alone (R91, R92) -/

theorem settleSurvivor_oneTrack (s : State) (f : Face) (i : Fin 24) (x : Track) (lane : Lane) (stamp : Int) :
    OneTrack f i s (settleSurvivor s f i x lane stamp) := by
  unfold settleSurvivor
  split
  · split
    · exact confirmTrack_oneTrack s f i x stamp
    · exact setTrack_oneTrack s f i _
  · exact setTrack_oneTrack s f i _
  · split <;> exact setTrack_oneTrack s f i _

theorem cutOne_oneTrack (f : Face) (reason : CloseReason) (s : State) (x : Fin 24 × Track) :
    OneTrack f x.1 s (cutOne f reason s x) := by
  unfold cutOne
  split
  · exact failTrack_oneTrack s f _ _ _
  · exact closeTrack_oneTrack s f _ _ _ _
  · exact closeTrack_oneTrack s f _ _ _ _

/-! ## The active tracks of a face -/

theorem taken_fst_nodup {α : Type} {n : Nat} (table : Vector (Option α) n) : ((taken table).map Prod.fst).Nodup := by
  refine (taken_nodup table).map_on fun a ha b hb e => ?_
  obtain ⟨k, v⟩ := a
  obtain ⟨l, w⟩ := b
  cases e
  have same : some v = some w := (mem_taken.1 ha).symm.trans (mem_taken.1 hb)
  cases same
  rfl

theorem mem_agedTracks {z : Fin 24 × Track} : z ∈ agedTracks s f ↔ s.track f z.1 = some z.2 := by
  unfold agedTracks
  rw [mem_sortBy]
  exact mem_taken

theorem agedTracks_fst_nodup (s : State) (f : Face) : ((agedTracks s f).map Prod.fst).Nodup :=
  ((sortBy_perm _ _).map Prod.fst).nodup_iff.2 (taken_fst_nodup _)

theorem agedTracks_nodup (s : State) (f : Face) : (agedTracks s f).Nodup :=
  (sortBy_perm _ _).nodup_iff.2 (taken_nodup _)

end Sys2Proof.Machine
end

section
/-! SUPPORT. The open streak count: what each operation of the Track Engine does with it, and the statement that every step keeps it. -/

namespace Sys2Proof.Machine

variable {s t u : State} {f : Face} {i j : Fin 24} {x y : Track}

/-! ## Counting the entries of a table (R102) -/

theorem numbered_some (x : Track) : numbered (some x) = (x.state != .tentative) := rfl

/-- An entry that is set leaves the count of the numbered tracks but for itself. -/
theorem countP_numbered_set (table : Vector (Option Track) 24) (i : Fin 24) (v : Option Track) :
    (table.set i.val v).toList.countP numbered + (if numbered table[i] then 1 else 0) =
      table.toList.countP numbered + (if numbered v then 1 else 0) := by
  have inside : i.val < table.toList.length := by simp
  have entry : table.toList[i.val] = table[i] := by simp
  have present : numbered table[i] = true → 0 < table.toList.countP numbered := fun h =>
    List.countP_pos_iff.2 ⟨table[i], entry ▸ List.getElem_mem inside, h⟩
  rw [Vector.toList_set, List.countP_set inside, entry]
  cases h : numbered table[i] with
  | true =>
    have := present h
    simp only [if_true]
    omega
  | false =>
    simp only [Bool.false_eq_true, if_false]
    omega

theorem streaksOk_set {e : TeFace} (h : StreaksOk e) {v : Option Track} (hv : numbered v = numbered e.tracks[i]) :
    StreaksOk { e with tracks := e.tracks.set i.val v } := by
  have count := countP_numbered_set e.tracks i v
  rw [hv] at count
  unfold StreaksOk at h ⊢
  dsimp only
  omega

/-- R85: one entry more is numbered. -/
theorem streaksOk_opened {e : TeFace} (h : StreaksOk e) (hn : numbered e.tracks[i] = false) {v : Option Track}
    (hv : numbered v = true) (confirmations : Nat) :
    StreaksOk
      { e with tracks := e.tracks.set i.val v, confirmations := confirmations, openStreaks := e.openStreaks + 1 } := by
  have count := countP_numbered_set e.tracks i v
  rw [hn, hv] at count
  simp only [Bool.false_eq_true, if_false, if_true] at count
  unfold StreaksOk at h ⊢
  dsimp only
  omega

/-- R89: one entry less is numbered. -/
theorem streaksOk_closed {e : TeFace} (h : StreaksOk e) (hn : numbered e.tracks[i] = true) :
    StreaksOk { e with tracks := e.tracks.set i.val none, openStreaks := e.openStreaks - 1 } := by
  have count := countP_numbered_set e.tracks i none
  have free : numbered none = false := rfl
  rw [hn, free] at count
  simp only [Bool.false_eq_true, if_false, if_true] at count
  unfold StreaksOk at h ⊢
  dsimp only
  omega

/-! ## Both faces -/

/-- R102, of both faces. -/
def CountsOk (s : State) : Prop := ∀ f, StreaksOk (s.teFace f)

theorem SameTables.counts (h : SameTables s t) (k : CountsOk s) : CountsOk t := fun f => by
  rw [h.teFace]
  exact k f

/-- An operation of one face keeps the count of the other. -/
theorem CountsOk.of_face (h : CountsOk s) (face : StreaksOk (t.teFace f))
    (other : t.teFace (otherFace f) = s.teFace (otherFace f)) : CountsOk t := by
  intro g
  obtain rfl | rfl : g = f ∨ g = otherFace f := by cases f <;> cases g <;> simp [otherFace]
  · exact face
  · rw [other]
    exact h _

theorem onTeFace_counts (h : CountsOk s) (f : Face) {g : TeFace → TeFace}
    (hg : StreaksOk (s.teFace f) → StreaksOk (g (s.teFace f))) : CountsOk (s.onTeFace f g) :=
  h.of_face (by rw [teFace_onTeFace]; exact hg (h f)) (onTeFace_other s f g)

theorem setTrack_counts (h : CountsOk s) {v : Option Track} (hv : numbered v = numbered (s.track f i)) :
    CountsOk (s.setTrack f i v) :=
  onTeFace_counts h f fun k => streaksOk_set k hv

theorem failTrack_counts (h : CountsOk s) (hn : numbered (s.track f i) = false) (x : Track) (cut : Bool) :
    CountsOk (failTrack s f i x cut) :=
  h.of_face (by rw [failTrack_teFace]; exact streaksOk_set (v := none) (h f) hn.symm) (failTrack_other s f i x cut)

theorem openStreak_counts (h : CountsOk s) (hn : numbered (s.track f i) = false) (x : Track) (stamp : Int) :
    CountsOk (openStreak s f i x stamp) :=
  h.of_face (by rw [openStreak_teFace]; exact streaksOk_opened (h f) hn rfl _) (openStreak_other s f i x stamp)

theorem confirmTrack_counts (h : CountsOk s) (hn : numbered (s.track f i) = false) (x : Track) (stamp : Int) :
    CountsOk (confirmTrack s f i x stamp) := by
  unfold confirmTrack
  split
  · exact failTrack_counts h hn x false
  · exact openStreak_counts h hn x stamp

theorem closeTrack_counts (h : CountsOk s) (hn : numbered (s.track f i) = true) (x : Track) (reason : CloseReason)
    (survivor : Nat) : CountsOk (closeTrack s f i x reason survivor) :=
  h.of_face (by rw [closeTrack_teFace]; exact streaksOk_closed (h f) hn) (closeTrack_other s f i x reason survivor)

/-- Operations on the tracks of a face, each on its own entry, that each keep the counts. -/
theorem foldl_counts {g : State → Fin 24 × Track → State} (one : ∀ v z, OneTrack f z.1 v (g v z))
    (keeps : ∀ v z, CountsOk v → v.track f z.1 = some z.2 → CountsOk (g v z)) (l : List (Fin 24 × Track))
    (distinct : (l.map Prod.fst).Nodup) (h : CountsOk s) (hl : ∀ z ∈ l, s.track f z.1 = some z.2) :
    CountsOk (l.foldl g s) := by
  induction l generalizing s with
  | nil => exact h
  | cons z rest ih =>
    obtain ⟨apart, distinct⟩ := List.nodup_cons.1 distinct
    refine ih distinct (keeps s z h (hl z (List.mem_cons_self ..))) fun w hw => ?_
    have other : w.1 ≠ z.1 := fun e => apart (e ▸ List.mem_map_of_mem hw)
    exact ((one s z).track other).trans (hl w (List.mem_cons_of_mem _ hw))

theorem foldl_aged_counts {g : State → Fin 24 × Track → State} (one : ∀ v z, OneTrack f z.1 v (g v z))
    (keeps : ∀ v z, CountsOk v → v.track f z.1 = some z.2 → CountsOk (g v z)) (h : CountsOk s) :
    CountsOk ((agedTracks s f).foldl g s) :=
  foldl_counts one keeps _ (agedTracks_fst_nodup s f) h fun _ => mem_agedTracks.1

/-! ## The stages of a line (R79 to R92, R99) -/

theorem foldl_absorbRun_state (runs : List Run) (x : Track) : (runs.foldl Track.absorbRun x).state = x.state :=
  List.foldlRecOn (motive := fun y : Track => y.state = x.state) _ _ rfl fun _ h _ _ => h

/-- R83: a count takes a FADING track back to CONFIRMED at most. -/
theorem countTrack_numbered (part : FacePart) (desc : LineDesc) (blind : List Range) (runs : List Run) (x : Track) :
    numbered (some (countTrack part desc blind runs x)) = numbered (some x) := by
  have absorbed := foldl_absorbRun_state runs x
  unfold countTrack
  dsimp only
  split
  · rw [numbered_some, numbered_some, ← absorbed]
    rfl
  · split
    · rfl
    · rw [numbered_some, numbered_some, ← absorbed]
      unfold Track.hit
      dsimp only
      split
      · next fading => rw [fading]; rfl
      · rfl

theorem repeatMark_counts (h : CountsOk s) (hx : s.track f i = some x) (stamp : Int) :
    CountsOk (repeatMark s f i x stamp) := by
  unfold repeatMark
  split
  · exact h
  · split
    · exact h
    · split
      · exact h
      · have asked := (requestOnly_reporting s .streak stamp x.openSource).sameTables
        refine setTrack_counts (asked.counts h) ?_
        rw [asked.track, hx]
        rfl

theorem countOne_counts (part : FacePart) (item : LineItem) (claims : List Claimed) (h : CountsOk s)
    {z : Fin 24 × Track} (hz : s.track f z.1 = some z.2) : CountsOk (countOne part f item claims s z) := by
  have counted : CountsOk (s.setTrack f z.1
      (some (countTrack part item.desc item.blind (claimedBy claims z.1) z.2))) :=
    setTrack_counts h (by rw [hz, countTrack_numbered])
  unfold countOne
  dsimp only
  split
  · exact repeatMark_counts counted (setTrack_track s f z.1 _) _
  · exact counted

theorem changeOne_counts (part : FacePart) (f : Face) (desc : LineDesc) (i : Fin 24) (h : CountsOk s) :
    CountsOk (changeOne part f desc s i) := by
  unfold changeOne
  split
  · exact h
  · next x hx =>
    have entry : numbered (s.track f i) = (x.state != .tentative) := by rw [hx, numbered_some]
    dsimp only
    split
    · next tentative =>
      have unnumbered : numbered (s.track f i) = false := by rw [entry, tentative]; rfl
      split
      · exact confirmTrack_counts h unnumbered x _
      · split
        · exact failTrack_counts h unnumbered x false
        · exact h
    · next confirmed =>
      split
      · exact setTrack_counts h (by rw [entry, confirmed]; rfl)
      · exact h
    · next fading =>
      split
      · exact closeTrack_counts h (by rw [entry, fading]; rfl) x _ _
      · exact h

theorem settleSurvivor_counts (h : CountsOk s) (hx : numbered (s.track f i) = numbered (some x)) (lane : Lane)
    (stamp : Int) : CountsOk (settleSurvivor s f i x lane stamp) := by
  have kept : CountsOk (s.setTrack f i (some x)) := setTrack_counts h hx.symm
  unfold settleSurvivor
  split
  · next tentative =>
    split
    · exact confirmTrack_counts h (by rw [hx, numbered_some, tentative]; rfl) x stamp
    · exact kept
  · exact kept
  · next fading =>
    split
    · exact setTrack_counts h (by rw [hx, numbered_some x, fading]; rfl)
    · exact kept

theorem freeYounger_counts (h : CountsOk s) (hy : s.track f j = some y) (i : Fin 24) :
    CountsOk (freeYounger s f i j y) := by
  have entry : numbered (s.track f j) = (y.state != .tentative) := by rw [hy, numbered_some]
  unfold freeYounger
  split
  · next tentative => exact setTrack_counts h (by rw [entry, tentative]; rfl)
  · next confirmed => exact closeTrack_counts h (by rw [entry, confirmed]; rfl) y _ _
  · next fading => exact closeTrack_counts h (by rw [entry, fading]; rfl) y _ _

/-- R92: the survivor and the younger track stand in two entries. -/
theorem mergeOne_counts (part : FacePart) (stamp : Int) (apart : i ≠ j) (h : CountsOk s) :
    CountsOk (mergeOne part f stamp i s j) := by
  unfold mergeOne
  split
  · next x y hx hy =>
    dsimp only
    split
    · refine freeYounger_counts (settleSurvivor_counts h ?_ _ _) ?_ i
      · rw [hx]
        rfl
      · rw [(settleSurvivor_oneTrack s f i _ _ _).track apart.symm, hy]
    · exact h
  all_goals exact h

theorem mergeAged_counts (part : FacePart) (f : Face) (stamp : Int) {l : List (Fin 24)} (distinct : l.Nodup)
    (h : CountsOk s) : CountsOk (mergeAged part f stamp l s) := by
  induction l generalizing s with
  | nil => exact h
  | cons i rest ih =>
    obtain ⟨apart, distinct⟩ := List.nodup_cons.1 distinct
    refine ih distinct (List.foldlRecOn (motive := CountsOk) _ _ h fun v hv j hj => ?_)
    exact mergeOne_counts part stamp (fun e => apart (e ▸ hj)) hv

theorem mergeLane_counts (part : FacePart) (f : Face) (stamp : Int) (lane : Nat) (h : CountsOk s) :
    CountsOk (mergeLane part f stamp s lane) :=
  mergeAged_counts part f stamp
    ((agedTracks_fst_nodup s f).sublist ((List.filter_sublist).map Prod.fst)) h

theorem trackLine_counts (part : FacePart) (f : Face) (item : LineItem) (h : CountsOk s) :
    CountsOk (trackLine s f part item).1 := by
  unfold trackLine
  refine List.foldlRecOn (motive := CountsOk) _ _ ?_ fun v hv lane _ => mergeLane_counts part f _ lane hv
  refine List.foldlRecOn (motive := CountsOk) _ _ ?_ fun v hv i _ => changeOne_counts part f _ i hv
  exact foldl_aged_counts (fun v z => countOne_oneTrack part f item _ v z.1 z.2)
    (fun v z hv hz => countOne_counts part item _ hv hz) h

/-! ## Handover, cuts and patches (R84, R93 to R98) -/

theorem lowestFree_free {α : Type} {n : Nat} {table : Vector (Option α) n} {k : Fin n} (h : lowestFree table = some k) :
    table[k] = none :=
  Option.isNone_iff_eq_none.1 (List.find?_some (p := fun l : Fin n => table[l].isNone) h)

theorem takeHandover_counts (part : FacePart) (f : Face) (desc : LineDesc) (q : Request) (h : CountsOk s) :
    CountsOk (takeHandover s f part desc q).1 := by
  unfold takeHandover
  split
  · exact onTeFace_counts h f id
  · next i free =>
    have empty : s.track f i = none := lowestFree_free free
    have opened := fun start => setTrack_counts (v := some (openTrack desc.patchIndex start q)) h (by rw [empty]; rfl)
    refine mergeLane_counts part f _ _ ?_
    split
    · exact confirmTrack_counts (opened _) (by rw [setTrack_track]; rfl) _ _
    · exact opened _

theorem cutTracks_counts (f : Face) (reason : CloseReason) (h : CountsOk s) : CountsOk (cutTracks s f reason) := by
  refine foldl_aged_counts (cutOne_oneTrack f reason) (fun v z hv hz => ?_) h
  have entry : numbered (v.track f z.1) = (z.2.state != .tentative) := by rw [hz, numbered_some]
  unfold cutOne
  split
  · next tentative => exact failTrack_counts hv (by rw [entry, tentative]; rfl) _ _
  · next confirmed => exact closeTrack_counts hv (by rw [entry, confirmed]; rfl) _ _ _
  · next fading => exact closeTrack_counts hv (by rw [entry, fading]; rfl) _ _ _

theorem trackPatchEnd_counts (f : Face) (part : FacePart) (h : CountsOk s) : CountsOk (trackPatchEnd s f part) := by
  unfold trackPatchEnd
  split
  · exact cutTracks_counts f _ h
  · exact h

/-- R94: the patches a track has seen do not change what it is. -/
theorem countP_patches (table : Vector (Option Track) 24) :
    (table.map fun o => o.map fun x => { x with patches := bump16 x.patches }).toList.countP numbered =
      table.toList.countP numbered := by
  rw [Vector.toList_map, List.countP_map]
  refine List.countP_congr fun o _ => ?_
  cases o <;> rfl

theorem trackPatchStart_counts (f : Face) (item : PatchStart) (h : CountsOk s) : CountsOk (trackPatchStart s f item) := by
  have begun : ∀ v, CountsOk v → CountsOk (v.onTeFace f fun e =>
      { e with
        patchStart := item.stamp
        tracks := e.tracks.map fun o => o.map fun x => { x with patches := bump16 x.patches } }) := fun v hv =>
    onTeFace_counts hv f fun k => k.trans (countP_patches _).symm
  unfold trackPatchStart
  dsimp only
  split
  · exact begun _ (cutTracks_counts f .recipe h)
  · exact begun _ h

theorem startTracks_counts (s : State) (s0 : Int) : CountsOk (startTracks s s0) := fun f => by
  have empty : (startTracks s s0).teFace f = { TeFace.powerOn with patchStart := s0 } := PerFace.get_both _ f
  have none_numbered : StreaksOk TeFace.powerOn := by
    rw [← reset_teFace f]
    exact streaksOk_reset f
  rw [empty]
  exact none_numbered

/-! ## Items (R60, R79, R93 to R96) -/

theorem te_counts (e : t.te = s.te) (h : CountsOk s) : CountsOk t := fun f => by
  unfold State.teFace
  rw [e]
  exact h f

theorem quietStep_te (s : State) (f : Face) (part : FacePart) (item : LineItem) :
    (quietStep s f part item).state.te = s.te := by
  unfold quietStep closeSpots
  dsimp only
  split
  · rfl
  · exact List.foldlRecOn (motive := fun c : Closing => c.state.te = s.te) _ _ rfl
      fun c hc z _ => (closeSpot_te part f c z).trans hc

theorem offerSpot_counts (part : FacePart) (f : Face) (desc : LineDesc) (z : Fin 64 × Spot) (h : CountsOk s) :
    CountsOk (offerSpot part f desc s z) := by
  rw [offerSpot_eq]
  exact takeHandover_counts part f desc _ h

theorem handoverStep_counts (part : FacePart) (f : Face) (desc : LineDesc) (h : CountsOk s) :
    CountsOk (handoverStep s f part desc) :=
  List.foldlRecOn (motive := CountsOk) _ _ h fun _ hv z _ => offerSpot_counts part f desc z hv

theorem settleProgress_tables (s : State) (f : Face) : SameTables s (settleProgress s f) :=
  (resolvePassed_tables s f).trans (discardLogs_tables _)

theorem lineProgress_tables (s : State) (f : Face) (item : LineItem) (front : Option Int) :
    SameTables s (lineProgress s f item front) := by
  unfold lineProgress
  exact (settleProgress_tables _ f).of_eq rfl rfl

theorem processLine_counts (f : Face) (part : FacePart) (item : LineItem) (h : CountsOk s) :
    CountsOk (processLine s f part item) := by
  have tracked := trackLine_counts part f item h
  unfold processLine
  rcases e : trackLine s f part item with ⟨v, unclaimed⟩
  rw [e] at tracked
  have remembered : CountsOk (v.onTeFace f fun e => { e with lastPart := some part }) := onTeFace_counts tracked f id
  have quiet := fun w : State => te_counts (quietStep_te w f part item)
  exact (lineProgress_tables _ f item _).counts ((deliver_tables _).counts (handoverStep_counts part f item.desc
    (quiet _ (te_counts rfl remembered))))

theorem cutAndDeliver_counts (f : Face) (h : CountsOk s) : CountsOk (cutAndDeliver s f) :=
  te_counts (cutAndDeliver_clears s f).1 h

theorem processSplice_counts (f : Face) (h : CountsOk s) : CountsOk (processSplice s f) :=
  (eventProgress_tables _ f).counts (cutAndDeliver_counts f (cutTracks_counts f _ h))

theorem processPatchStart_counts (f : Face) (item : PatchStart) (h : CountsOk s) :
    CountsOk (processPatchStart s f item) := by
  have passed := (eventProgress_tables _ f).counts (cutAndDeliver_counts f (trackPatchStart_counts f item h))
  rw [processPatchStart_eq]
  split
  · exact (autoResume_tables _).counts passed
  · exact passed

theorem clearPatchCounts_counts (f : Face) (h : CountsOk s) : CountsOk (clearPatchCounts s f) :=
  onTeFace_counts (te_counts rfl h) f id

theorem issueTally_counts (code : FaultCode) (f : Face) (tally : Tally) (h : CountsOk s) :
    CountsOk (issueTally s code f tally) := (issueTally_reporting s code f tally).sameTables.counts h

theorem reportTrackFull_counts (f : Face) (h : CountsOk s) : CountsOk (reportTrackFull s f) :=
  issueTally_counts _ f _ (onTeFace_counts h f id)

theorem reportSpotFull_counts (f : Face) (h : CountsOk s) : CountsOk (reportSpotFull s f) :=
  issueTally_counts _ f _ (te_counts rfl h)

theorem reportJumps_counts (h : CountsOk s) : CountsOk (reportJumps s) := issueTally_counts _ _ _ (te_counts rfl h)

theorem reportOverflow_counts (f : Face) (h : CountsOk s) : CountsOk (reportOverflow s f) :=
  issueTally_counts _ f _ (te_counts rfl h)

theorem reportMotion_counts (f : Face) (h : CountsOk s) : CountsOk (reportMotion s f) := by
  cases f with
  | upper => exact reportOverflow_counts _ (reportJumps_counts h)
  | lower => exact reportOverflow_counts _ h

theorem reportPatch_counts (f : Face) (item : PatchEnd) (runFull : Tally) (h : CountsOk s) :
    CountsOk (reportPatch s f item runFull) := by
  have recorded := clearPatchCounts_counts f ((issue_tables s (patchBody s f item)).counts h)
  exact reportTrackFull_counts f (reportSpotFull_counts f (issueTally_counts _ f _
    (reportMotion_counts f ((onMuFace_tables _ f _).counts recorded))))

theorem processPatchEnd_counts (f : Face) (item : PatchEnd) (runFull : Tally) (part : FacePart) (h : CountsOk s) :
    CountsOk (processPatchEnd s f item runFull part) := by
  have passed := (eventProgress_tables _ f).counts (cutAndDeliver_counts f (trackPatchEnd_counts f part h))
  have reported := reportPatch_counts f item runFull passed
  unfold processPatchEnd
  dsimp only
  split
  · exact (startSample_tables _).counts reported
  · exact reported

/-! ## Close-out (R164) -/

theorem closeAllTracks_counts (h : CountsOk s) : CountsOk (closeAllTracks s) :=
  clearPatchCounts_counts _ (clearPatchCounts_counts _ (cutTracks_counts _ _ (cutTracks_counts _ _ h)))

theorem unresolvedPairing_tables (s : State) : SameTables s (unresolvedPairing s) := by
  unfold unresolvedPairing
  exact (foldl_tables _ (issueSingle_tables _) _ _).of_eq rfl rfl

theorem missAllMarks_tables (s : State) : SameTables s (missAllMarks s) :=
  (foldl_tables _ (fun v e => (issueMissed_reporting v e .rollEnd).sameTables) _ _).of_eq rfl rfl

theorem reportTallies_counts (f : Face) (h : CountsOk s) : CountsOk (reportTallies s f) :=
  reportTrackFull_counts f (reportSpotFull_counts f (issueTally_counts _ f _ (te_counts rfl (reportOverflow_counts f h))))

theorem issueRollEnd_tables (s : State) : SameTables s (issueRollEnd s) := (issue_tables s _).trans ⟨rfl, rfl⟩

theorem closeoutSteps_counts (h : CountsOk s) : CountsOk (closeoutSteps s) := by
  have tracks : CountsOk (closeAllTracks (closeAllSpots s)) :=
    closeAllTracks_counts (cutAndDeliver_counts _ (cutAndDeliver_counts _ h))
  have marks := (missAllMarks_tables _).counts ((unresolvedPairing_tables _).counts tracks)
  have tallies := reportTallies_counts .lower (reportTallies_counts .upper (reportJumps_counts marks))
  exact (issueRollEnd_tables _).counts tallies

theorem beginCloseout_counts (h : CountsOk s) : CountsOk (beginCloseout s) := by
  unfold beginCloseout
  dsimp only
  split
  · have drain : CountsOk ((closeoutSteps s).onCu fun c => { c with phase := .drain }) :=
      (onCu_tables _ _).counts (closeoutSteps_counts h)
    split
    · exact (actAbandon_tables _).counts drain
    · exact (closeoutCheck_tables _).counts drain
  · exact h

/-! ## Commands -/

theorem takeLineItem_counts (f : Face) (h : CountsOk s) : CountsOk (takeLineItem s f) := by
  unfold takeLineItem
  split
  · exact h
  · split
    · exact processLine_counts f _ _ ((popHanded_tables s f).counts h)
    all_goals exact h

theorem takePatchEndItem_counts (f : Face) (h : CountsOk s) : CountsOk (takePatchEndItem s f) := by
  have passed : ∀ item runFull part, CountsOk (processPatchEnd (popHanded s f) f item runFull part) :=
    fun item runFull part => processPatchEnd_counts f item runFull part ((popHanded_tables s f).counts h)
  unfold takePatchEndItem
  split
  · exact h
  · split
    · dsimp only
      split
      · exact (stopIfFinished_tables _).counts ((finishPairing_tables _ f).counts (passed _ _ _))
      · exact passed _ _ _
    all_goals exact h

theorem takePatchStartItem_counts (f : Face) (h : CountsOk s) : CountsOk (takePatchStartItem s f) := by
  unfold takePatchStartItem
  split
  · exact h
  · split
    · exact processPatchStart_counts f _ ((popHanded_tables s f).counts h)
    all_goals exact h

theorem takeSpliceItem_counts (f : Face) (h : CountsOk s) : CountsOk (takeSpliceItem s f) := by
  unfold takeSpliceItem
  split
  · exact h
  · split
    · exact processSplice_counts f ((popHanded_tables s f).counts h)
    all_goals exact h

/-- R168: `start` empties the tables; refused, it leaves them. -/
theorem orderStart_counts (h : CountsOk s) (rollId : Word) (s0 : Int) : CountsOk (orderStart s rollId s0).1 := by
  unfold orderStart
  split
  · exact h
  · split
    · exact h
    · next unready =>
      split
      · exact h
      · obtain ⟨part, hs⟩ := Option.ne_none_iff_exists'.1 fun e => unready (Option.isNone_iff_eq_none.2 e)
        rw [startRoll_eq hs]
        exact (wantStatus_tables _ _).counts (te_counts rfl (startTracks_counts s s0))

theorem executeOrder_counts (h : CountsOk s) (order : Instr) (effect : State → State × OrderResult)
    (he : CountsOk (effect s).1) : CountsOk (executeOrder s order effect) := by
  unfold executeOrder
  split
  · exact (endOrder_tables _ _).counts he
  · exact h

/-- R166: power-on and part reset come up with empty tables. -/
theorem comeUp_counts (hs : s.te = State.reset.te) : CountsOk (comeUp s) :=
  (comeUp_tables s).counts (te_counts hs streaksOk_reset)

theorem exec_counts (c : Instr) (h : CountsOk s) : ∃ t, exec c s = .next t ∧ CountsOk t := by
  have settled : ∀ v, CountsOk v → CountsOk (settle s v) := fun v => (settle_tables s v).counts
  have aside : ∀ v, SameTables s v → CountsOk (settle s v) := fun v k => settled v (k.counts h)
  have order : ∀ i effect, CountsOk (effect s).1 → CountsOk (settle s (executeOrder s i effect)) := fun i effect k =>
    settled _ (executeOrder_counts h i effect k)
  cases c with
  | powerOn straps => exact ⟨_, rfl, comeUp_counts rfl⟩
  | partReset => exact ⟨_, rfl, comeUp_counts rfl⟩
  | xbaseWrite half value =>
    refine ⟨_, rfl, aside _ ?_⟩
    split
    · exact (onXu_tables s _).trans (enterIdle_tables _)
    · exact .refl s
  | enableSet => exact ⟨_, rfl, aside _ ((onXu_tables s _).trans (enterIdle_tables _))⟩
  | enableClear =>
    have disabled := onXu_tables s fun x => { x with enable := false }
    refine ⟨_, rfl, aside _ ?_⟩
    split
    · exact disabled.trans (((onCu_tables _ _).trans (onXu_tables _ _)).trans (wantStatus_tables _ _))
    · exact disabled.trans (enterClosing_tables _ _)
    · exact disabled.trans (enterClosing_tables _ _)
    all_goals exact disabled
  | pollIntervalWrite value =>
    refine ⟨_, rfl, aside _ ?_⟩
    split
    · exact .refl s
    · exact onXu_tables s _
  | attnWrite value => exact ⟨_, rfl, aside _ (clearFlags_tables s _)⟩
  | registerWriteIgnored offset value => exact ⟨_, rfl, aside _ (.refl s)⟩
  | encoderRawChange a b sensors => exact ⟨_, rfl, aside _ (rawChange_tables s a b sensors)⟩
  | encoderHoldExpiry phases sensors => exact ⟨_, rfl, aside _ (holdExpiry_tables s phases sensors)⟩
  | breakInputActive =>
    refine ⟨_, rfl, aside _ ?_⟩
    split
    · exact .refl s
    · exact (breakActivated_tables _).of_eq rfl rfl
  | breakInputInactive => exact ⟨_, rfl, aside _ ⟨rfl, rfl⟩⟩
  | helloReceived port packet => exact ⟨_, rfl, aside _ (receiveHello_tables s port packet)⟩
  | linePacketReceived port packet => exact ⟨_, rfl, aside _ (receiveLine_tables s port packet)⟩
  | lineDeadlineExpiry face => exact ⟨_, rfl, aside _ (assembleOverdue_tables _ s face)⟩
  | rxTakeItem face => exact ⟨_, rfl, aside _ (takeItem_tables s face)⟩
  | teLineItem face => exact ⟨_, rfl, settled _ (takeLineItem_counts face h)⟩
  | tePatchEndItem face => exact ⟨_, rfl, settled _ (takePatchEndItem_counts face h)⟩
  | tePatchStartItem face => exact ⟨_, rfl, settled _ (takePatchStartItem_counts face h)⟩
  | teSpliceClosureItem face => exact ⟨_, rfl, settled _ (takeSpliceItem_counts face h)⟩
  | holdingQueueDrain => exact ⟨_, rfl, aside _ (drainQueue_tables s)⟩
  | pageTake =>
    refine ⟨_, rfl, aside _ ?_⟩
    split
    · exact takeFromStock_tables s
    · exact .refl s
  | postComplete => exact ⟨_, rfl, aside _ (completePost_tables s)⟩
  | pageWriteFailure => exact ⟨_, rfl, aside _ (failPage_tables s)⟩
  | statusWriteComplete => exact ⟨_, rfl, aside _ (endStatus_tables s)⟩
  | statusWriteFailure => exact ⟨_, rfl, aside _ (failStatus_tables s)⟩
  | pollTick => exact ⟨_, rfl, aside _ (pollTick_tables s)⟩
  | pageAgeExpiry => exact ⟨_, rfl, aside _ (agePost_tables s)⟩
  | stallExpiry => exact ⟨_, rfl, aside _ (stallEvent_tables s)⟩
  | readTimeout read =>
    refine ⟨_, rfl, aside _ ?_⟩
    split
    · exact .refl s
    · split
      · exact failRead_tables s read
      · exact .refl s
  | readErrorCompletion read =>
    refine ⟨_, rfl, aside _ ?_⟩
    split
    · exact failRead_tables s read
    · exact .refl s
  | sampleReadComplete generation count written => exact ⟨_, rfl, aside _ (completeSample_tables s _ _ _)⟩
  | batchCopyComplete entries => exact ⟨_, rfl, aside _ (completeCopy_tables s entries)⟩
  | stockRereadComplete descriptors => exact ⟨_, rfl, aside _ (completeReread_tables s _)⟩
  | start rollId s0 => exact ⟨_, rfl, order _ _ (orderStart_counts h _ _)⟩
  | stop => exact ⟨_, rfl, order _ _ ((orderStop_tables s).counts h)⟩
  | halt => exact ⟨_, rfl, order _ _ ((orderHalt_tables s).counts h)⟩
  | recipe slot =>
    refine ⟨_, rfl, aside _ ?_⟩
    split
    · split
      · exact endOrder_tables s _
      · exact ⟨rfl, rfl⟩
    · exact .refl s
  | recipeLoadComplete slot =>
    refine ⟨_, rfl, aside _ ?_⟩
    split
    · exact .refl s
    · exact ((onRs_tables s _).trans (judgeRecipe_tables _ _ _)).trans (endOrder_tables _ _)
  | flush => exact ⟨_, rfl, order _ _ ((orderFlush_tables s).counts h)⟩
  | note value => exact ⟨_, rfl, order _ _ ((orderNote_tables s value).counts h)⟩
  | markon => exact ⟨_, rfl, order _ _ ((orderMarkon_tables s).counts h)⟩
  | clear => exact ⟨_, rfl, order _ _ (te_counts rfl h)⟩
  | levels levels => exact ⟨_, rfl, order _ _ ((orderLevels_tables s levels).counts h)⟩
  | headreset head => exact ⟨_, rfl, order _ _ ((orderHeadreset_tables s head).counts h)⟩
  | unknownOrder code => exact ⟨_, rfl, order _ _ h⟩
  | closeoutBegin => exact ⟨_, rfl, settled _ (beginCloseout_counts h)⟩

/-- Settles O11: the clock leaves the tables alone, and every command keeps the counts. -/
theorem stepKeepsStreakCounts : Obligations.StepKeepsStreakCounts := by
  intro s t h hstep
  obtain rfl | ⟨c, rest, _, he⟩ := step_cases hstep
  · exact (tick_tables s).counts h
  · obtain ⟨v, hv, counts⟩ := exec_counts (s := { s with pending := rest }) c h
    obtain rfl := Host.Outcome.next.inj (hv.symm.trans he)
    exact counts

end Sys2Proof.Machine
end

section
/-! SUPPORT. A record with its mark request reads nothing of the Track Engine: an update of that engine before it may as well come
after it. -/

namespace Sys2Proof.Machine

variable {s : State}

theorem raise_onTe (s : State) (g : TrackEngine → TrackEngine) (c : Cause) :
    raise (s.onTe g) c = (raise s c).onTe g := by
  rw [raise_eq, raise_eq]
  rfl

theorem layMark_onTe (s : State) (g : TrackEngine → TrackEngine) (o : MarkOut) (stop : Int) :
    layMark (s.onTe g) o stop = (layMark s o stop).onTe g := by
  unfold layMark
  rw [State.onTe_ku]
  split <;> rfl

theorem takeRequest_onTe (s : State) (g : TrackEngine → TrackEngine) (entry : MarkEntry) :
    takeRequest (s.onTe g) entry = ((takeRequest s entry).1.onTe g, (takeRequest s entry).2) := by
  unfold takeRequest
  rw [State.onTe_mu, State.onTe_ku]
  split
  · rfl
  · split
    · split
      · rfl
      · rw [layMark_onTe]
    · rfl
  · exact congrArg (·, _) (raise_onTe (bumpLate s) g .mark)
  · exact congrArg (·, _) (raise_onTe (bumpMarkFull s) g .mark)
  · rfl

theorem markRequest_onTe (s : State) (g : TrackEngine → TrackEngine) (kind : PolicyEntry) (stamp : Int) (source : Word) :
    markRequest (s.onTe g) kind stamp source =
      ((markRequest s kind stamp source).1.onTe g, (markRequest s kind stamp source).2) := by
  have shared : (s.onTe g).shared = s.shared := rfl
  unfold markRequest
  rw [shared, State.onTe_straps]
  dsimp only
  split
  · rfl
  · split
    · split
      · rfl
      · exact takeRequest_onTe s g _
      · exact takeRequest_onTe s g _
    · rfl

theorem takeNumber_onTe (s : State) (g : TrackEngine → TrackEngine) :
    takeNumber (s.onTe g) = ((takeNumber s).1.onTe g, (takeNumber s).2) := by
  unfold takeNumber
  rw [State.onTe_ru]
  dsimp only
  split
  · split <;> rfl
  · rfl

theorem sourceOf_onTe (s : State) (g : TrackEngine → TrackEngine) (number : Option Nat) :
    sourceOf (s.onTe g) number = ((sourceOf s number).1.onTe g, (sourceOf s number).2) := by cases number <;> rfl

theorem placeRecord_onTe (s : State) (g : TrackEngine → TrackEngine) (number : Option Nat) (mark : MarkState)
    (body : RecordBody) : placeRecord (s.onTe g) number mark body = (placeRecord s number mark body).onTe g := by
  unfold placeRecord
  rw [State.onTe_ru]
  dsimp only
  split
  · rfl
  · split <;> rfl

theorem captureFault_onTe (s : State) (g : TrackEngine → TrackEngine) (code : FaultCode) :
    captureFault (s.onTe g) code = (captureFault s code).onTe g := by
  unfold captureFault
  rw [raise_eq, raise_eq]
  rfl

theorem countRecord_onTe (s : State) (g : TrackEngine → TrackEngine) (body : RecordBody) :
    countRecord (s.onTe g) body = (countRecord s body).onTe g := by
  unfold countRecord
  split
  case h_3 => exact captureFault_onTe s g _
  all_goals rfl

theorem issue_onTe (s : State) (g : TrackEngine → TrackEngine) (body : RecordBody) :
    issue (s.onTe g) body = (issue s body).onTe g := by
  unfold issue
  rw [takeNumber_onTe]
  dsimp only
  rw [placeRecord_onTe, countRecord_onTe]

theorem settleMissed_onTe (s : State) (g : TrackEngine → TrackEngine) (answer : MarkAnswer) :
    settleMissed (s.onTe g) answer = (settleMissed s answer).onTe g := by
  unfold settleMissed issueMissed
  split
  · rfl
  · rw [issue_onTe]
    rfl

theorem issueMarked_onTe (s : State) (g : TrackEngine → TrackEngine) (body : RecordBody) (kind : PolicyEntry)
    (stamp : Int) :
    issueMarked (s.onTe g) body kind stamp =
      ((issueMarked s body kind stamp).1.onTe g, (issueMarked s body kind stamp).2) := by
  unfold issueMarked
  rw [takeNumber_onTe]
  dsimp only
  rw [sourceOf_onTe]
  dsimp only
  rw [markRequest_onTe]
  dsimp only
  rw [placeRecord_onTe, countRecord_onTe, settleMissed_onTe]

end Sys2Proof.Machine
end

section
/-! SUPPORT. The stages of a track's life: its claim, its counts, its change, its merging and its handover, and the statement about
them. -/

namespace Sys2Proof.Machine

variable {s t u : State} {f : Face} {part : FacePart} {desc : LineDesc} {i j : Fin 24} {x y : Track} {stamp : Int}

/-! ## Claim (R80) -/

theorem windowMeets_iff {w lo hi : Nat} :
    x.windowMeets w lo hi = true ↔ x.centre2 ≤ 2 * hi + 2 * w ∧ 2 * lo ≤ x.centre2 + 2 * w := by
  simp [Track.windowMeets]

theorem streakLighting_matches_iff {a : StreakLighting} {b : Lighting} :
    a.matches b = true ↔ a = .either ∨ (a = .r ∧ b = .r) ∨ (a = .t ∧ b = .t) := by
  cases a <;> cases b <;> decide

theorem candidateFor_iff {r : Run} :
    candidateFor part desc r x = true ↔
      x.lane = r.lane ∧
        (x.centre2 ≤ 2 * r.last + 2 * (part.lane r.lane).window ∧ 2 * r.first ≤ x.centre2 + 2 * (part.lane r.lane).window) ∧
        ((part.lane r.lane).streakLighting = .either ∨
          ((part.lane r.lane).streakLighting = .r ∧ desc.lighting = .r) ∨
          ((part.lane r.lane).streakLighting = .t ∧ desc.lighting = .t)) := by
  unfold candidateFor
  rw [Bool.and_eq_true, Bool.and_eq_true, decide_eq_true_eq, windowMeets_iff, streakLighting_matches_iff, and_assoc]

/-- R80: no run of a margin lane, or beyond the coating, is claimed. -/
theorem claimant_unclaimed {r : Run} (h : (part.lane r.lane).kind = .margin ∨ desc.sect ≠ .coated)
    (tracks : List (Fin 24 × Track)) : claimant part desc tracks r = none := by
  refine if_neg fun both => ?_
  obtain ⟨coated, sect⟩ := both
  rcases h with margin | other
  · rw [margin] at coated
    cases coated
  · exact other sect

/-- R80: the claimant of a run in a coated lane, from the tracks that may claim it. -/
theorem claimant_coated {r : Run} (hk : (part.lane r.lane).kind = .coated) (hs : desc.sect = .coated)
    (tracks : List (Fin 24 × Track)) :
    claimant part desc tracks r =
      ((tracks.filter fun z => candidateFor part desc r z.2).foldl (nearer r) none).map Prod.fst := if_pos ⟨hk, hs⟩

/-- R80: of two tracks that may claim a run the nearer does, the lower entry when they are equally near. -/
theorem claimant_two {r : Run} (hk : (part.lane r.lane).kind = .coated) (hs : desc.sect = .coated)
    (hx : candidateFor part desc r x = true) (hy : candidateFor part desc r y = true) (i j : Fin 24) :
    claimant part desc [(i, x), (j, y)] r =
      some (if distance y.centre2 (r.first + r.last) < distance x.centre2 (r.first + r.last) then j else i) := by
  rw [claimant_coated hk hs, List.filter_cons_of_pos (p := fun z : Fin 24 × Track => candidateFor part desc r z.2) hx,
    List.filter_cons_of_pos (p := fun z : Fin 24 × Track => candidateFor part desc r z.2) hy]
  simp only [List.filter_nil, List.foldl_cons, List.foldl_nil, nearer]
  split <;> rfl

/-- R80: a track that may not claim a run does not stand in the way of one that may. -/
theorem claimant_skips {r : Run} (hx : candidateFor part desc r x = false) (i : Fin 24)
    (before after : List (Fin 24 × Track)) :
    claimant part desc (before ++ (i, x) :: after) r = claimant part desc (before ++ after) r := by
  unfold claimant
  rw [List.filter_append, List.filter_append, List.filter_cons_of_neg (by simp [hx])]

/-! ## Count (R81 to R83, R99) -/

/-- R83: an observed track that has claimed nothing. -/
theorem countTrack_missed {blind : List Range} (h : isHeld part desc blind x = false) :
    countTrack part desc blind [] x = x.miss := if_neg (Bool.eq_false_iff.1 h)

/-- R81: an observed track that has claimed one run. -/
theorem countTrack_hit {blind : List Range} (h : isHeld part desc blind x = false) (r : Run) :
    countTrack part desc blind [r] x = (x.absorbRun r).hit desc (part.lane x.lane).maxWidth r.first r.last :=
  if_neg (Bool.eq_false_iff.1 h)

/-- R82: a held track, whatever it has claimed. -/
theorem countTrack_held {blind : List Range} (h : isHeld part desc blind x = true) (runs : List Run) :
    countTrack part desc blind runs x =
      (runs.foldl Track.absorbRun x).hold desc.stamp (heldBlind part blind x) := if_pos h

theorem claimedBy_eq (claims : List Claimed) (i : Fin 24) :
    claimedBy claims i = (claims.filter fun c => decide (c.track = some i)).map Claimed.run := by
  unfold claimedBy
  refine congrArg _ (List.filter_congr fun c _ => ?_)
  rw [Bool.eq_iff_iff, beq_iff_eq, decide_eq_true_eq]

/-- R99: the repeat interval of the active shared part; none when it is 0. -/
def repeatEvery (s : State) : Nat := (s.shared.map SharedPart.repeatInterval).getD 0

theorem repeatMark_quiet (h : repeatEvery s = 0 ∨ stamp < x.nextRepeat) (f : Face) (i : Fin 24) :
    repeatMark s f i x stamp = s := by
  unfold repeatMark
  split
  · rfl
  · next sp shared =>
    have every : repeatEvery s = sp.repeatInterval := by
      unfold repeatEvery
      rw [shared]
      rfl
    rw [every] at h
    split
    · rfl
    · next interval => exact if_pos (h.resolve_left interval)

theorem repeatMark_asks (hi : repeatEvery s ≠ 0) (h : x.nextRepeat ≤ stamp) (f : Face) (i : Fin 24) :
    repeatMark s f i x stamp =
      (requestOnly s .streak stamp x.openSource).setTrack f i
        (some { x with nextRepeat := nextRepeatAfter (repeatEvery s) x.nextRepeat stamp }) := by
  unfold repeatMark
  split
  · next shared =>
    refine absurd ?_ hi
    unfold repeatEvery
    rw [shared]
    rfl
  · next sp shared =>
    have every : repeatEvery s = sp.repeatInterval := by
      unfold repeatEvery
      rw [shared]
      rfl
    rw [every] at hi ⊢
    rw [if_neg hi, if_neg (Int.not_lt.2 h)]

/-- R99: the next repeat stamp moves by whole intervals, as few as take it beyond the hit. -/
theorem nextRepeatAfter_eq {interval n : Nat} {due : Int} (hi : interval ≠ 0) (hn : 0 < n)
    (reached : due + (n - 1 : Nat) * interval ≤ stamp) (beyond : stamp < due + n * interval) :
    nextRepeatAfter interval due stamp = due + n * interval := by
  have positive : (0 : Int) < interval := by omega
  have whole : ((n - 1 : Nat) : Int) = n - 1 := by omega
  have below : (n : Int) - 1 ≤ (stamp - due) / interval :=
    (Int.le_ediv_iff_mul_le positive).2 (by rw [← whole]; omega)
  have above : (stamp - due) / interval < n := (Int.ediv_lt_iff_lt_mul positive).2 (by omega)
  have quotient : (stamp - due) / interval + 1 = n := by omega
  unfold nextRepeatAfter
  rw [quotient, Int.mul_comm]

theorem countOne_eq (part : FacePart) (f : Face) (item : LineItem) (claims : List Claimed) (s : State) (i : Fin 24)
    (x : Track) :
    countOne part f item claims s (i, x) =
      let counted := countTrack part item.desc item.blind (claimedBy claims i) x
      if counted.state = .confirmed ∧ claimedBy claims i ≠ [] ∧ isHeld part item.desc item.blind x = false then
        repeatMark (s.setTrack f i (some counted)) f i counted item.desc.stamp
      else s.setTrack f i (some counted) := by
  unfold countOne
  simp only [Bool.not_eq_true']

/-! ## Change (R85 to R90) -/

theorem changeOne_tentative (hx : s.track f i = some x) (ht : x.state = .tentative) (part : FacePart) (desc : LineDesc) :
    changeOne part f desc s i =
      if (part.lane x.lane).confirmHits ≤ x.hits then confirmTrack s f i x desc.stamp
      else if (part.lane x.lane).tentativeLimit < x.missRun then failTrack s f i x false
      else s := by
  unfold changeOne
  rw [hx]
  dsimp only
  rw [ht]

theorem changeOne_confirmed (hx : s.track f i = some x) (hc : x.state = .confirmed) (part : FacePart) (desc : LineDesc) :
    changeOne part f desc s i =
      if (part.lane x.lane).fadeMisses ≤ x.missRun then s.setTrack f i (some { x with state := .fading }) else s := by
  unfold changeOne
  rw [hx]
  dsimp only
  rw [hc]

theorem changeOne_fading (hx : s.track f i = some x) (hf : x.state = .fading) (part : FacePart) (desc : LineDesc) :
    changeOne part f desc s i =
      if (part.lane x.lane).endMisses ≤ x.missRun then closeTrack s f i x .faded 0 else s := by
  unfold changeOne
  rw [hx]
  dsimp only
  rw [hf]

/-- R86: with the numbers exhausted a confirmation fails the track. -/
theorem confirmTrack_exhausted (h : 16777215 < s.te.nextStreak) (f : Face) (i : Fin 24) (x : Track) (stamp : Int) :
    confirmTrack s f i x stamp = failTrack s f i x false := if_pos h

theorem confirmTrack_numbered (h : s.te.nextStreak ≤ 16777215) (f : Face) (i : Fin 24) (x : Track) (stamp : Int) :
    confirmTrack s f i x stamp = openStreak s f i x stamp := if_neg (Nat.not_lt.2 h)

theorem openStreak_nextStreak (s : State) (f : Face) (i : Fin 24) (x : Track) (stamp : Int) :
    (openStreak s f i x stamp).te.nextStreak = s.te.nextStreak + 1 := by
  rw [openStreak_eq, State.onTeFace_te, (raise_reporting _ _).sameTables.te, State.setTrack, State.onTeFace_te,
    (openingIssued_reporting s f x stamp).sameTables.te]
  rfl

theorem openStreak_track (s : State) (f : Face) (i : Fin 24) (x : Track) (stamp : Int) :
    (openStreak s f i x stamp).track f i = some (openedTrack s x stamp (openingIssued s f x stamp).2) := by
  rw [track_eq, openStreak_teFace]
  exact Vector.getElem_set_self _

theorem failTrack_track (s : State) (f : Face) (i : Fin 24) (x : Track) (cut : Bool) :
    (failTrack s f i x cut).track f i = none := by
  rw [track_eq, failTrack_teFace]
  exact Vector.getElem_set_self _

theorem closeTrack_track (s : State) (f : Face) (i : Fin 24) (x : Track) (reason : CloseReason) (survivor : Nat) :
    (closeTrack s f i x reason survivor).track f i = none := by
  rw [track_eq, closeTrack_teFace]
  exact Vector.getElem_set_self _

/-- R85: the Record Unit takes the STREAK_OPEN record with its mark request; the number it names is not the unit's. -/
theorem openStreak_ru (s : State) (f : Face) (i : Fin 24) (x : Track) (stamp : Int) :
    (openStreak s f i x stamp).ru = (issueMarked s (openBody f x s.te.nextStreak stamp) .streak stamp).1.ru := by
  rw [openStreak_eq, State.onTeFace_ru, raise_ru]
  unfold openingIssued numberTaken
  rw [issueMarked_onTe]
  rfl

theorem openStreak_mu (s : State) (f : Face) (i : Fin 24) (x : Track) (stamp : Int) :
    (openStreak s f i x stamp).mu = s.mu := by
  obtain ⟨_, _, _, ⟨mu, _⟩, _⟩ := openingIssued_reporting s f x stamp
  rw [openStreak_eq, State.onTeFace_mu, raise_eq]
  exact mu

/-- R191: a cause that occurs has its flag set. -/
theorem setFlag_streak (flags : Byte) : (setFlag flags .streak).getLsbD 2 = true := by
  simp [setFlag, causeIndex]

theorem openStreak_flag (s : State) (f : Face) (i : Fin 24) (x : Track) (stamp : Int) :
    (openStreak s f i x stamp).xu.flags.getLsbD 2 = true := by
  rw [openStreak_eq, State.onTeFace_xu, raise_eq]
  exact setFlag_streak _

theorem cutOne_tentative (h : x.state = .tentative) (f : Face) (reason : CloseReason) (s : State) (i : Fin 24) :
    cutOne f reason s (i, x) = failTrack s f i x true := by
  unfold cutOne
  dsimp only
  rw [h]

theorem cutOne_numbered (h : x.state ≠ .tentative) (f : Face) (reason : CloseReason) (s : State) (i : Fin 24) :
    cutOne f reason s (i, x) = closeTrack s f i x reason 0 := by
  unfold cutOne
  dsimp only
  cases e : x.state with
  | tentative => exact absurd e h
  | confirmed => rfl
  | fading => rfl

/-! ## Merging of two tracks (R91, R92) -/

theorem mergeOne_apart (hx : s.track f i = some x) (hy : s.track f j = some y)
    (far : 2 * (part.lane x.lane).window < distance x.centre2 y.centre2) (stamp : Int) :
    mergeOne part f stamp i s j = s := by
  unfold mergeOne
  rw [hx, hy]
  exact if_neg (Nat.not_le.2 far)

theorem mergeOne_near (hx : s.track f i = some x) (hy : s.track f j = some y)
    (near : distance x.centre2 y.centre2 ≤ 2 * (part.lane x.lane).window) (stamp : Int) :
    mergeOne part f stamp i s j =
      freeYounger (settleSurvivor s f i (x.takeIn y) (part.lane x.lane) stamp) f i j y := by
  unfold mergeOne
  rw [hx, hy]
  exact if_pos near

theorem settleSurvivor_confirmed (h : x.state = .confirmed) (s : State) (f : Face) (i : Fin 24) (lane : Lane)
    (stamp : Int) : settleSurvivor s f i x lane stamp = s.setTrack f i (some x) := by
  unfold settleSurvivor
  rw [h]

theorem settleSurvivor_fading (h : x.state = .fading) (s : State) (f : Face) (i : Fin 24) (lane : Lane) (stamp : Int) :
    settleSurvivor s f i x lane stamp =
      s.setTrack f i (some (if x.missRun < lane.fadeMisses then { x with state := .confirmed } else x)) := by
  unfold settleSurvivor
  rw [h]
  dsimp only
  split <;> rfl

/-- R92: a survivor that has a number keeps its entry and its number. -/
theorem settleSurvivor_numbered (h : x.state ≠ .tentative) (s : State) (f : Face) (i : Fin 24) (lane : Lane)
    (stamp : Int) : ∃ z, settleSurvivor s f i x lane stamp = s.setTrack f i (some z) ∧ z.number = x.number := by
  cases e : x.state with
  | tentative => exact absurd e h
  | confirmed => exact ⟨_, settleSurvivor_confirmed e s f i lane stamp, rfl⟩
  | fading =>
    refine ⟨_, settleSurvivor_fading e s f i lane stamp, ?_⟩
    split <;> rfl

theorem settleSurvivor_tentative (h : x.state = .tentative) (s : State) (f : Face) (i : Fin 24) (lane : Lane)
    (stamp : Int) :
    settleSurvivor s f i x lane stamp =
      if lane.confirmHits ≤ x.hits then confirmTrack s f i x stamp else s.setTrack f i (some x) := by
  unfold settleSurvivor
  rw [h]

theorem freeYounger_tentative (h : y.state = .tentative) (s : State) (f : Face) (i j : Fin 24) :
    freeYounger s f i j y = s.setTrack f j none := by
  unfold freeYounger
  rw [h]

theorem freeYounger_numbered (h : y.state ≠ .tentative) (s : State) (f : Face) (i j : Fin 24) :
    freeYounger s f i j y = closeTrack s f j y .merged ((s.track f i).map Track.number |>.getD 0) := by
  unfold freeYounger
  cases e : y.state with
  | tentative => exact absurd e h
  | confirmed => rfl
  | fading => rfl

theorem freeYounger_track (s : State) (f : Face) (i j : Fin 24) (y : Track) :
    (freeYounger s f i j y).track f j = none := by
  by_cases h : y.state = .tentative
  · rw [freeYounger_tentative h, setTrack_track]
  · rw [freeYounger_numbered h, closeTrack_track]

theorem freeYounger_oneTrack (s : State) (f : Face) (i j : Fin 24) (y : Track) :
    OneTrack f j s (freeYounger s f i j y) := by
  by_cases h : y.state = .tentative
  · rw [freeYounger_tentative h]
    exact setTrack_oneTrack s f j _
  · rw [freeYounger_numbered h]
    exact closeTrack_oneTrack s f j y _ _

theorem freeYounger_larges (s : State) (f : Face) (i j : Fin 24) (y : Track) :
    ((freeYounger s f i j y).teFace f).larges = (s.teFace f).larges := by
  by_cases h : y.state = .tentative
  · rw [freeYounger_tentative h, setTrack_teFace]
  · rw [freeYounger_numbered h, closeTrack_teFace]

/-- R89, R92: the STREAK_CLOSE record of a numbered track that merges into one that then has the number `survivor`. -/
def mergedBody (f : Face) (y : Track) (survivor : Nat) : RecordBody :=
  .streakClose y.number f y.lastHit y.hits y.observed y.maxWidth .merged y.patches y.widened survivor y.held

/-- R92: the state in which a younger track has left its record, if it has a number. -/
def mergedIssued (s : State) (f : Face) (y : Track) (survivor : Nat) : State :=
  if y.state = .tentative then s else issue s (mergedBody f y survivor)

theorem freeYounger_ru (hx : s.track f i = some x) (j : Fin 24) (y : Track) :
    (freeYounger s f i j y).ru = (mergedIssued s f y x.number).ru := by
  unfold mergedIssued
  split
  · next h =>
    rw [freeYounger_tentative h]
    rfl
  · next h =>
    rw [freeYounger_numbered h, hx]
    rfl

theorem mergedIssued_ru_congr (hr : s.ru = t.ru) (hh : s.mu.h = t.mu.h) (f : Face) (y : Track) (survivor : Nat) :
    (mergedIssued s f y survivor).ru = (mergedIssued t f y survivor).ru := by
  unfold mergedIssued
  split
  · exact hr
  · exact issue_ru_congr hr hh _

/-- R92: the state in which the older track has taken in the younger one, which still stands in its entry. -/
def survivorSettled (part : FacePart) (f : Face) (stamp : Int) (s : State) (i : Fin 24) (x y : Track) : State :=
  settleSurvivor s f i (x.takeIn y) (part.lane x.lane) stamp

/-- R92: a TENTATIVE survivor below its confirm hits stays TENTATIVE. -/
theorem survivorSettled_below (ht : x.state = .tentative) (below : (x.takeIn y).hits < (part.lane x.lane).confirmHits)
    (stamp : Int) : survivorSettled part f stamp s i x y = s.setTrack f i (some (x.takeIn y)) :=
  (settleSurvivor_tentative (x := x.takeIn y) ht s f i _ stamp).trans (if_neg (Nat.not_le.2 below))

/-- R92: a TENTATIVE survivor that reaches its confirm hits is confirmed. -/
theorem survivorSettled_reaches (ht : x.state = .tentative)
    (reached : (part.lane x.lane).confirmHits ≤ (x.takeIn y).hits) (stamp : Int) :
    survivorSettled part f stamp s i x y = confirmTrack s f i (x.takeIn y) stamp :=
  (settleSurvivor_tentative (x := x.takeIn y) ht s f i _ stamp).trans (if_pos reached)

section Near

variable (hx : s.track f i = some x) (hy : s.track f j = some y) (apart : i ≠ j)
  (near : distance x.centre2 y.centre2 ≤ 2 * (part.lane x.lane).window)

include hx hy near

theorem mergeOne_frees (stamp : Int) : (mergeOne part f stamp i s j).track f j = none := by
  rw [mergeOne_near hx hy near, freeYounger_track]

include apart in
theorem mergeOne_survivor (stamp : Int) :
    (mergeOne part f stamp i s j).track f i = (survivorSettled part f stamp s i x y).track f i := by
  rw [mergeOne_near hx hy near]
  exact (freeYounger_oneTrack _ f i j y).track apart

theorem mergeOne_ru {z : Track} (hz : (survivorSettled part f stamp s i x y).track f i = some z) :
    (mergeOne part f stamp i s j).ru = (mergedIssued (survivorSettled part f stamp s i x y) f y z.number).ru := by
  rw [mergeOne_near hx hy near]
  exact freeYounger_ru hz j y

theorem mergeOne_larges (stamp : Int) :
    ((mergeOne part f stamp i s j).teFace f).larges = ((survivorSettled part f stamp s i x y).teFace f).larges := by
  rw [mergeOne_near hx hy near]
  exact freeYounger_larges _ f i j y

/-- R92: a survivor with a number leaves the younger track's record the only one. -/
theorem mergeOne_numbered_ru (h : x.state ≠ .tentative) (stamp : Int) :
    (mergeOne part f stamp i s j).ru = (mergedIssued s f y x.number).ru := by
  obtain ⟨z, settled, number⟩ := settleSurvivor_numbered (x := x.takeIn y) h s f i (part.lane x.lane) stamp
  have entry : (survivorSettled part f stamp s i x y).track f i = some z := by
    unfold survivorSettled
    rw [settled, setTrack_track]
  have same : z.number = x.number := number
  rw [mergeOne_ru hx hy near entry, same]
  unfold survivorSettled
  rw [settled]
  exact mergedIssued_ru_congr (s := s.setTrack f i (some z)) (t := s) rfl rfl f y _

include apart in
/-- R92: a TENTATIVE survivor below its confirm hits has no number for the younger track's record to name but its own. -/
theorem mergeOne_below (ht : x.state = .tentative) (below : (x.takeIn y).hits < (part.lane x.lane).confirmHits)
    (stamp : Int) :
    (mergeOne part f stamp i s j).track f i = some (x.takeIn y) ∧
      (mergeOne part f stamp i s j).ru = (mergedIssued s f y (x.takeIn y).number).ru := by
  have settled := survivorSettled_below (s := s) (f := f) (i := i) ht below stamp
  have entry : (survivorSettled part f stamp s i x y).track f i = some (x.takeIn y) := by rw [settled, setTrack_track]
  refine ⟨(mergeOne_survivor hx hy apart near stamp).trans entry, ?_⟩
  rw [mergeOne_ru hx hy near entry, settled]
  exact mergedIssued_ru_congr (s := s.setTrack f i (some (x.takeIn y))) (t := s) rfl rfl f y _

include apart in
/-- R92: a TENTATIVE survivor that reaches its confirm hits is confirmed before the younger track's record, which names its number. -/
theorem mergeOne_confirms (ht : x.state = .tentative)
    (reached : (part.lane x.lane).confirmHits ≤ (x.takeIn y).hits) (numbers : s.te.nextStreak ≤ 16777215) (stamp : Int) :
    (∃ source, (mergeOne part f stamp i s j).track f i = some (openedTrack s (x.takeIn y) stamp source)) ∧
      (mergeOne part f stamp i s j).ru =
        (mergedIssued (issueMarked s (openBody f (x.takeIn y) s.te.nextStreak stamp) .streak stamp).1 f y
          s.te.nextStreak).ru := by
  have settled : survivorSettled part f stamp s i x y = openStreak s f i (x.takeIn y) stamp :=
    (survivorSettled_reaches ht reached stamp).trans (confirmTrack_numbered numbers f i _ stamp)
  have entry : (survivorSettled part f stamp s i x y).track f i = _ :=
    (congrArg (State.track · f i) settled).trans (openStreak_track s f i (x.takeIn y) stamp)
  refine ⟨⟨_, (mergeOne_survivor hx hy apart near stamp).trans entry⟩, ?_⟩
  rw [mergeOne_ru hx hy near entry, settled]
  obtain ⟨_, _, _, ⟨mu, _⟩, _⟩ := issueMarked_reporting s (openBody f (x.takeIn y) s.te.nextStreak stamp) .streak stamp
  exact mergedIssued_ru_congr (openStreak_ru s f i _ stamp) (by rw [openStreak_mu, mu]) f y _

include apart in
/-- R86, R92, log 37: with the numbers exhausted the survivor fails, and both entries are free. -/
theorem mergeOne_exhausted (ht : x.state = .tentative)
    (reached : (part.lane x.lane).confirmHits ≤ (x.takeIn y).hits) (exhausted : 16777215 < s.te.nextStreak)
    (stamp : Int) :
    (mergeOne part f stamp i s j).track f i = none ∧
      ((mergeOne part f stamp i s j).teFace f).larges = bump16 (s.teFace f).larges := by
  have settled : survivorSettled part f stamp s i x y = failTrack s f i (x.takeIn y) false :=
    (survivorSettled_reaches ht reached stamp).trans (confirmTrack_exhausted exhausted f i _ stamp)
  refine ⟨(mergeOne_survivor hx hy apart near stamp).trans ?_, (mergeOne_larges hx hy near stamp).trans ?_⟩
  · rw [settled, failTrack_track]
  · rw [settled, failTrack_teFace]

end Near

/-! ## The merge check of a lane (R91) -/

/-- R91: of two entries the first holds the older track, or as old a one in the lower place. -/
def Elder (a b : Fin 24 × Track) : Prop :=
  a.2.firstStamp < b.2.firstStamp ∨ (a.2.firstStamp = b.2.firstStamp ∧ a.1 < b.1)

theorem Elder.trans {a b c : Fin 24 × Track} (h : Elder a b) (k : Elder b c) : Elder a c := by
  unfold Elder at *
  omega

theorem Elder.asymm {a b : Fin 24 × Track} (h : Elder a b) : ¬Elder b a := by
  unfold Elder at *
  omega

theorem insertBy_pairwise {α : Type} {R : α → α → Prop} {after : α → α → Bool}
    (trans : ∀ a b c, R a b → R b c → R a c) {z : α} {l : List α} (before : ∀ a ∈ l, after a z = true → R z a)
    (behind : ∀ a ∈ l, after a z = false → R a z) (h : l.Pairwise R) : (insertBy after z l).Pairwise R := by
  induction l with
  | nil => exact List.pairwise_singleton R z
  | cons a rest ih =>
    obtain ⟨first, rest_ok⟩ := List.pairwise_cons.1 h
    unfold insertBy
    split
    · next hz =>
      have za := before a (List.mem_cons_self ..) hz
      refine List.pairwise_cons.2 ⟨fun b hb => ?_, h⟩
      rcases List.mem_cons.1 hb with rfl | hb
      · exact za
      · exact trans _ _ _ za (first b hb)
    · next hz =>
      have az := behind a (List.mem_cons_self ..) (Bool.eq_false_iff.2 hz)
      refine List.pairwise_cons.2 ⟨fun b hb => ?_, ih (fun b hb => before b (List.mem_cons_of_mem _ hb))
        (fun b hb => behind b (List.mem_cons_of_mem _ hb)) rest_ok⟩
      rcases (mem_insertBy _ _ _ _).1 hb with rfl | hb
      · exact az
      · exact first b hb

/-- Elements that stand in the order `S` and are then sorted stand in the order `R`, which goes by the key and among equals by `S`. -/
theorem sortBy_pairwise {α : Type} {R S : α → α → Prop} {after : α → α → Bool}
    (trans : ∀ a b c, R a b → R b c → R a c) (before : ∀ a b, S a b → after a b = true → R b a)
    (behind : ∀ a b, S a b → after a b = false → R a b) {l : List α} (h : l.Pairwise S) :
    (sortBy after l).Pairwise R := by
  have sorted : ∀ (l acc : List α), l.Pairwise S → acc.Pairwise R → (∀ a ∈ acc, ∀ b ∈ l, S a b) →
      (l.foldl (fun acc z => insertBy after z acc) acc).Pairwise R := by
    intro l
    induction l with
    | nil => exact fun _ _ k _ => k
    | cons z rest ih =>
      intro acc hl hacc apart
      obtain ⟨first, hrest⟩ := List.pairwise_cons.1 hl
      have place : ∀ a ∈ acc, S a z := fun a ha => apart a ha z (List.mem_cons_self ..)
      refine ih _ hrest (insertBy_pairwise trans (fun a ha => before a z (place a ha))
        (fun a ha => behind a z (place a ha)) hacc)
        fun a ha b hb => ?_
      rcases (mem_insertBy _ _ _ _).1 ha with rfl | ha
      · exact first b hb
      · exact apart a ha b (List.mem_cons_of_mem _ hb)
  exact sorted l [] h .nil fun a ha => absurd ha List.not_mem_nil

theorem taken_pairwise {α : Type} {n : Nat} (table : Vector (Option α) n) :
    (taken table).Pairwise fun a b => a.1 < b.1 := by
  unfold taken
  refine (List.pairwise_lt_finRange n).filterMap _ fun k l hkl a ha b hb => ?_
  obtain ⟨_, _, rfl⟩ := Option.map_eq_some_iff.1 ha
  obtain ⟨_, _, rfl⟩ := Option.map_eq_some_iff.1 hb
  exact hkl

theorem agedTracks_pairwise (s : State) (f : Face) : (agedTracks s f).Pairwise Elder := by
  refine sortBy_pairwise (R := Elder) (S := fun a b : Fin 24 × Track => a.1 < b.1) (fun _ _ _ => Elder.trans)
    (fun a b hab later => ?_) (fun a b hab early => ?_)
    (taken_pairwise _)
  · exact .inl (of_decide_eq_true later)
  · have := of_decide_eq_false early
    unfold Elder
    omega

/-- R91: the entries of one lane in order of age. -/
def laneTracks (s : State) (f : Face) (lane : Nat) : List (Fin 24 × Track) :=
  (agedTracks s f).filter fun z => z.2.lane == lane

theorem mem_laneTracks {lane : Nat} {z : Fin 24 × Track} :
    z ∈ laneTracks s f lane ↔ s.track f z.1 = some z.2 ∧ z.2.lane = lane := by
  unfold laneTracks
  rw [List.mem_filter, mem_agedTracks, beq_iff_eq]

theorem laneTracks_nodup (s : State) (f : Face) (lane : Nat) : (laneTracks s f lane).Nodup :=
  (agedTracks_nodup s f).filter _

theorem mergeLane_eq (part : FacePart) (f : Face) (stamp : Int) (s : State) (lane : Nat) :
    mergeLane part f stamp s lane = mergeAged part f stamp ((laneTracks s f lane).map Prod.fst) s := rfl

/-- R91: a track alone in its lane takes none in. -/
theorem mergeLane_lone {lane : Nat} (only : ∀ j y, s.track f j = some y → y.lane = lane → j = i) (part : FacePart)
    (stamp : Int) : mergeLane part f stamp s lane = s := by
  have nodup := laneTracks_nodup s f lane
  have members : ∀ z ∈ laneTracks s f lane, s.track f i = some z.2 ∧ z.1 = i := fun z hz => by
    obtain ⟨hz, hlane⟩ := mem_laneTracks.1 hz
    have place := only z.1 z.2 hz hlane
    exact ⟨place ▸ hz, place⟩
  rw [mergeLane_eq]
  rcases e : laneTracks s f lane with _ | ⟨a, _ | ⟨b, rest⟩⟩
  · rfl
  · rfl
  · rw [e] at nodup members
    obtain ⟨ha, pa⟩ := members a (by simp)
    obtain ⟨hb, pb⟩ := members b (by simp)
    have same : a = b := Prod.ext (pa.trans pb.symm) (Option.some.inj (ha.symm.trans hb))
    subst same
    simp at nodup

/-- R91: of two tracks alone in a lane the younger is offered to the older. -/
theorem mergeLane_two {lane : Nat} (hx : s.track f i = some x) (hy : s.track f j = some y) (apart : i ≠ j)
    (hlx : x.lane = lane) (hly : y.lane = lane)
    (only : ∀ (k : Fin 24) (z : Track), k ≠ i → k ≠ j → s.track f k = some z → z.lane ≠ lane)
    (elder : Elder (i, x) (j, y)) (part : FacePart) (stamp : Int) :
    mergeLane part f stamp s lane = mergeOne part f stamp i s j := by
  have members : ∀ z, z ∈ laneTracks s f lane ↔ z ∈ [(i, x), (j, y)] := fun z => by
    rw [mem_laneTracks, List.mem_pair]
    constructor
    · rintro ⟨hz, hlane⟩
      obtain ⟨k, w⟩ := z
      by_cases hki : k = i
      · subst hki
        exact .inl (congrArg (Prod.mk k) (Option.some.inj (hz.symm.trans hx)))
      · by_cases hkj : k = j
        · subst hkj
          exact .inr (congrArg (Prod.mk k) (Option.some.inj (hz.symm.trans hy)))
        · exact absurd hlane (only k w hki hkj hz)
    · rintro (rfl | rfl)
      · exact ⟨hx, hlx⟩
      · exact ⟨hy, hly⟩
  have perm : (laneTracks s f lane).Perm [(i, x), (j, y)] :=
    (List.perm_ext_iff_of_nodup (laneTracks_nodup s f lane) (by simp [apart])).2 members
  have ordered : laneTracks s f lane = [(i, x), (j, y)] := by
    rcases List.perm_pair.1 perm with e | e
    · exact e
    · have sorted : (laneTracks s f lane).Pairwise Elder := (agedTracks_pairwise s f).filter _
      rw [e] at sorted
      exact absurd (List.pairwise_pair.1 sorted) elder.asymm
  rw [mergeLane_eq, ordered]
  rfl

/-! ## Handover (R84) -/

theorem takeHandover_full (h : ∀ k : Fin 24, (s.teFace f).tracks[k] ≠ none) (part : FacePart) (desc : LineDesc)
    (q : Request) :
    takeHandover s f part desc q = (s.onTeFace f fun e => { e with full := e.full.add desc.stamp }, false) := by
  unfold takeHandover
  rw [lowestFree_none h]

/-- R85: a track just opened has missed nothing, so its change confirms it or leaves it. -/
theorem changeOne_opened (part : FacePart) (f : Face) (desc : LineDesc) (s : State) (i : Fin 24) (patch : Word)
    (start : Int) (q : Request) :
    changeOne part f desc (s.setTrack f i (some (openTrack patch start q))) i =
      if (part.lane q.lane).confirmHits ≤ (openTrack patch start q).hits then
        confirmTrack (s.setTrack f i (some (openTrack patch start q))) f i (openTrack patch start q) desc.stamp
      else s.setTrack f i (some (openTrack patch start q)) :=
  (changeOne_tentative (setTrack_track s f i _) rfl part desc).trans
    (ite_congr rfl (fun _ => rfl) fun _ => if_neg (Nat.not_lt_zero _))

/-- R84: the lowest free entry takes the track, which is confirmed at once when its hits suffice; then its lane is checked. -/
theorem takeHandover_opens (hi : (s.teFace f).tracks[i] = none) (hl : ∀ j : Fin 24, j < i → (s.teFace f).tracks[j] ≠ none)
    (part : FacePart) (desc : LineDesc) (q : Request) :
    takeHandover s f part desc q =
      (mergeLane part f desc.stamp
        (changeOne part f desc (s.setTrack f i (some (openTrack desc.patchIndex (s.teFace f).patchStart q))) i)
        q.lane, true) := by
  unfold takeHandover
  rw [lowestFree_some hi hl, changeOne_opened]

/-- R91: after a change of the track in one entry, no track of its lane stands elsewhere when none did. -/
theorem changeOne_mergeLane_lone {lane : Nat} (only : ∀ (k : Fin 24) (z : Track), k ≠ i → s.track f k = some z → z.lane ≠ lane)
    (v : Option Track) (part : FacePart) (desc : LineDesc) (stamp : Int) :
    mergeLane part f stamp (changeOne part f desc (s.setTrack f i v) i) lane =
      changeOne part f desc (s.setTrack f i v) i := by
  refine mergeLane_lone (i := i) (fun k z hz hlane => ?_) part stamp
  by_contra other
  have kept := (setTrack_oneTrack s f i v).trans (changeOne_oneTrack part f desc (s.setTrack f i v) i)
  exact only k z other ((kept.track other).symm.trans hz) hlane

/-- Settles O57: each clause by the lemma about its operation. -/
theorem tracksLive : Obligations.TracksLive := by
  refine ⟨fun part desc blind t r => ?_, fun part desc r i j t u _ => ?_, fun t y => rfl, fun part f desc q s => ?_,
    fun part f stamp lane i j t y s apart hx hy hlx hly only elder =>
      mergeLane_two hx hy apart hlx hly only elder part stamp,
    fun part f item claims i t s => ?_, fun part f desc i t s ht => ?_⟩
  · intro missed hit
    refine ⟨fun free => ?_, fun held => ?_⟩
    · have hm : missed = t.miss := countTrack_missed free
      have hh : hit = (t.absorbRun r).hit desc (part.lane t.lane).maxWidth r.first r.last := countTrack_hit free r
      rw [hm, hh]
      exact ⟨rfl, rfl, rfl, rfl, rfl, rfl, rfl, rfl, rfl, rfl, rfl, rfl⟩
    · have hm : missed = t.hold desc.stamp (heldBlind part blind t) := countTrack_held held []
      have hh : hit = (t.absorbRun r).hold desc.stamp (heldBlind part blind t) := countTrack_held held [r]
      rw [hm, hh]
      exact ⟨rfl, rfl, rfl, rfl, rfl, rfl, rfl⟩
  · refine ⟨fun x => candidateFor_iff, fun h => claimant_unclaimed h _, fun hk hs => ?_⟩
    have nobody : claimant part desc [] r = none := claimant_none part desc r
    refine ⟨fun ht hu => ?_, fun ht hu => ?_, fun ht hu => ?_, fun ht hu => claimant_two hk hs ht hu i j⟩
    · exact (claimant_skips ht i [] [(j, u)]).trans ((claimant_skips hu j [] []).trans nobody)
    · exact (claimant_skips hu j [(i, t)] []).trans (claimant_one ht hk hs i)
    · exact (claimant_skips ht i [] [(j, u)]).trans (claimant_one hu hk hs j)
  · intro e
    refine ⟨fun full => takeHandover_full full part desc q, fun i free lowest => ?_⟩
    have opens := takeHandover_opens free lowest part desc q
    exact ⟨opens, fun only => opens.trans (congrArg (·, true) (changeOne_mergeLane_lone
      (fun k z other hz => only k z other hz) _ part desc _))⟩
  · intro runs u stamp interval counted tested v
    have claimed : claimedBy claims i = runs := claimedBy_eq claims i
    have counts : v = if tested then repeatMark counted f i u stamp else counted := by
      have eq := countOne_eq part f item claims s i t
      rw [claimed] at eq
      exact eq
    refine ⟨fun quiet => ?_, fun test repeats n positive reached beyond => ?_⟩
    · rw [counts]
      split
      · next test => exact repeatMark_quiet (s := counted) (quiet.resolve_left (not_not.2 test)) f i
      · rfl
    · have steps : 0 ≤ ((n - 1 : Nat) : Int) * interval := by positivity
      rw [counts, if_pos test, repeatMark_asks (s := counted) repeats (by omega) f i,
        nextRepeatAfter_eq (interval := repeatEvery counted) repeats positive reached beyond]
      rfl
  · intro lane u failed closed
    refine ⟨fun tentative => ?_, fun confirmed => ?_, fun fading => ?_, fun reason => ?_, fun j y apart hy => ?_⟩
    · have change : u = _ := changeOne_tentative ht tentative part desc
      refine ⟨fun reached exhausted => ?_, fun reached numbers => ?_, fun below missed => ?_, fun below seen => ?_⟩
      · rw [change, if_pos reached, confirmTrack_exhausted exhausted]
        rfl
      · rw [if_pos reached, confirmTrack_numbered numbers] at change
        rw [change]
        refine ⟨openStreak_nextStreak s f i t _, ⟨_, openStreak_track s f i t _, rfl, rfl, rfl, rfl, rfl⟩, ?_, ?_,
          openStreak_flag s f i t _, openStreak_ru s f i t _⟩ <;> rw [openStreak_teFace]
      · rw [change, if_neg (Nat.not_le.2 below), if_pos missed]
        rfl
      · rw [change, if_neg (Nat.not_le.2 below), if_neg (Nat.not_lt.2 seen)]
    · have change : u = _ := changeOne_confirmed ht confirmed part desc
      exact ⟨fun missed => change.trans (if_pos missed), fun seen => change.trans (if_neg (Nat.not_le.2 seen))⟩
    · have change : u = _ := changeOne_fading ht fading part desc
      exact ⟨fun missed => change.trans (if_pos missed), fun seen => change.trans (if_neg (Nat.not_le.2 seen))⟩
    · exact ⟨fun tentative => cutOne_tentative tentative f reason s i,
        fun numbered => cutOne_numbered numbered f reason s i⟩
    · intro v
      refine ⟨fun far => mergeOne_apart hy ht far _, fun near => ⟨mergeOne_frees hy ht near _, ?_⟩⟩
      have survivor := mergeOne_survivor hy ht apart near desc.stamp
      refine ⟨fun confirmed => ?_, fun fading => ?_, fun tentative => ?_, fun ht0 hy0 => ?_, fun ht0 hy0 => ?_⟩
      · refine survivor.trans ?_
        unfold survivorSettled
        rw [settleSurvivor_confirmed (x := y.takeIn t) confirmed, setTrack_track]
      · refine survivor.trans ?_
        unfold survivorSettled
        rw [settleSurvivor_fading (x := y.takeIn t) fading, setTrack_track]
        rfl
      · intro joined merged
        refine ⟨fun below => mergeOne_below hy ht apart near tentative below _, fun reached numbers => ?_,
          fun reached exhausted => mergeOne_exhausted hy ht apart near tentative reached exhausted _⟩
        obtain ⟨⟨source, entry⟩, record⟩ := mergeOne_confirms hy ht apart near tentative reached numbers desc.stamp
        exact ⟨⟨_, entry, rfl, rfl, rfl, rfl⟩, record⟩
      · have quiet : v.ru = _ := mergeOne_numbered_ru hy ht near hy0 desc.stamp
        rw [quiet]
        exact congrArg State.ru (if_pos ht0)
      · have closes : v.ru = _ := mergeOne_numbered_ru hy ht near hy0 desc.stamp
        rw [closes]
        exact congrArg State.ru (if_neg ht0)

end Sys2Proof.Machine
end

section
/-! SUPPORT. The pairing of the two faces: the Pairing Unit's limits over a step; the way of a closure through the mapping, the
match, the list and the resolution; the doubt logs. -/

namespace Sys2Proof.Machine

variable {s t : State} {c : Closure} {e : PairEntry} {g : Face}

/-! ## The limits of the Pairing Unit over a step (R107, R110) -/

theorem comeUp_limits (h : Limits s) : Limits (comeUp s) := (comeUp_keeps (Keeps.refl s)).limits h

/-- Power-on and part reset establish every limit afresh; any other command keeps those of the state it finds. -/
theorem exec_keeps_or_limits (i : Instr) (he : exec i s = .next t) : Keeps s t ∨ Limits t := by
  by_cases hp : ∃ x, i = .powerOn x
  · obtain ⟨straps, rfl⟩ := hp
    obtain rfl := Host.Outcome.next.inj he
    obtain ⟨motion, links, pairing, marks, holding, pages⟩ := powerOn_limits straps s.pins s.xu.message
    exact .inr (comeUp_limits ⟨motion, links, pairing, marks, holding, pages⟩)
  · by_cases hr : i = .partReset
    · subst hr
      obtain rfl := Host.Outcome.next.inj he
      obtain ⟨motion, links, pairing, marks, holding, pages⟩ := powerOn_limits s.straps s.pins s.xu.message
      exact .inr (comeUp_limits ⟨motion, links, pairing, marks, holding, pages⟩)
    · obtain ⟨u, hu, keeps⟩ := exec_keeps i (fun x e => hp ⟨x, e⟩) hr (s := s)
      obtain rfl := Host.Outcome.next.inj (hu.symm.trans he)
      exact .inl keeps

/-- Settles O7: the clock keeps the limits of the Pairing Unit, and every command keeps or establishes them. -/
theorem stepKeepsPairingList : Obligations.StepKeepsPairingList := by
  intro s t hp h
  obtain rfl | ⟨i, rest, _, he⟩ := step_cases h
  · exact (tick_keeps (Keeps.refl s)).pairing hp
  · obtain keeps | limits := exec_keeps_or_limits (s := { s with pending := rest }) i he
    · exact keeps.pairing hp
    · exact limits.pairing

/-! ## Coordinates and the doubts of a line (R104, R110) -/

theorem mapClosure_upper (hf : c.face = .upper) : mapClosure s c = c := by
  unfold mapClosure mapColumns
  rw [hf]
  cases c
  cases hf
  rfl

theorem mapColumns_lower {sp : SharedPart} (hs : s.shared = some sp) (lo hi : Int) :
    mapColumns s .lower lo hi = mapLower sp lo hi := by
  unfold mapColumns
  rw [hs]

theorem mapLower_plain {sp : SharedPart} (hm : sp.mirror = false) (lo hi : Int) :
    mapLower sp lo hi = (lo + sp.columnOffset, hi + sp.columnOffset) := by
  unfold mapLower
  rw [hm]
  rfl

theorem mapLower_mirrored {sp : SharedPart} (hm : sp.mirror = true) (lo hi : Int) :
    mapLower sp lo hi = (sp.columnOffset - hi, sp.columnOffset - lo) := by
  unfold mapLower
  rw [hm]
  rfl

theorem mapClosure_lower {sp : SharedPart} (hs : s.shared = some sp) (hf : c.face = .lower) :
    mapClosure s c = { c with cdMin := (mapLower sp c.cdMin c.cdMax).1, cdMax := (mapLower sp c.cdMin c.cdMax).2 } := by
  unfold mapClosure
  rw [hf, mapColumns_lower hs]

/-- R110: a blind range of a face, as a doubt in upper-face columns. -/
def blindDoubt (s : State) (f : Face) (r : Range) : DoubtKind :=
  match f, s.shared with
  | .lower, some sp =>
    if sp.mirror then .blind (sp.columnOffset - r.hi) (sp.columnOffset - r.lo)
    else .blind (r.lo + sp.columnOffset) (r.hi + sp.columnOffset)
  | _, _ => .blind r.lo r.hi

theorem blindDoubt_eq (s : State) (f : Face) (r : Range) :
    DoubtKind.blind (mapColumns s f r.lo r.hi).1 (mapColumns s f r.lo r.hi).2 = blindDoubt s f r := by
  unfold blindDoubt
  cases f with
  | upper => rfl
  | lower =>
    cases hs : s.shared with
    | none =>
      unfold mapColumns
      rw [hs]
    | some sp =>
      rw [mapColumns_lower hs]
      dsimp only
      cases hm : sp.mirror with
      | false =>
        rw [mapLower_plain hm]
        rfl
      | true =>
        rw [mapLower_mirrored hm]
        rfl

theorem lineDoubts_eq (s : State) (f : Face) (item : LineItem) :
    lineDoubts s f item =
      if item.desc.skipped = true ∨ item.desc.excluded = true ∨ item.desc.sect = .wait then [.whole]
      else item.blind.map (blindDoubt s f) := by
  have ranges : (item.blind.map fun r => DoubtKind.blind (mapColumns s f r.lo r.hi).1 (mapColumns s f r.lo r.hi).2) =
      item.blind.map (blindDoubt s f) := List.map_congr_left fun r _ => blindDoubt_eq s f r
  unfold lineDoubts
  dsimp only
  rw [ranges]
  simp only [Bool.or_eq_true, beq_iff_eq, or_assoc]

/-! ## The first matching entry (R106) -/

theorem entryMatches_iff (x : PairEntry) :
    entryMatches s c x = true ↔
      x.closure.face = otherFace c.face ∧ c.cdMin ≤ x.closure.cdMax + cdTolerance s ∧
        x.closure.cdMin ≤ c.cdMax + cdTolerance s ∧ c.first ≤ x.closure.last + mdWindow s ∧
        x.closure.first ≤ c.last + mdWindow s := by
  unfold entryMatches
  simp only [Bool.and_eq_true, beq_iff_eq, decide_eq_true_eq, and_assoc]

theorem removeFirst_append {test : PairEntry → Bool} {before : List PairEntry} (after : List PairEntry)
    (hb : ∀ x ∈ before, test x = false) (he : test e = true) :
    removeFirst test (before ++ e :: after) = some (e, before ++ after) := by
  induction before with
  | nil => exact if_pos he
  | cons x rest ih =>
    have hx : ¬test x = true := Bool.eq_false_iff.1 (hb x (List.mem_cons_self ..))
    rw [List.cons_append, removeFirst, if_neg hx, ih fun y hy => hb y (List.mem_cons_of_mem _ hy)]
    rfl

theorem removeFirst_none {test : PairEntry → Bool} {list : List PairEntry} (h : ∀ x ∈ list, test x = false) :
    removeFirst test list = none := by
  induction list with
  | nil => rfl
  | cons x rest ih =>
    have hx : ¬test x = true := Bool.eq_false_iff.1 (h x (List.mem_cons_self ..))
    rw [removeFirst, if_neg hx, ih fun y hy => h y (List.mem_cons_of_mem _ hy)]
    rfl

/-! ## The ways of an arriving closure (R105 to R108) -/

theorem takeClosure_off (closure : Closure) (ha : s.pu.active = false) :
    takeClosure s closure = issueSingle .off s (mapClosure s closure) := by
  unfold takeClosure
  rw [ha]
  rfl

theorem takeClosure_unmatched {closure : Closure} (ha : s.pu.active = true)
    (hn : ∀ x ∈ s.pu.list, entryMatches s (mapClosure s closure) x = false) :
    takeClosure s closure = placeClosure s (mapClosure s closure) := by
  unfold takeClosure
  dsimp only
  rw [if_pos ha, removeFirst_none hn]

theorem takeClosure_paired {closure : Closure} {before after : List PairEntry} (ha : s.pu.active = true)
    (hl : s.pu.list = before ++ e :: after) (hb : ∀ x ∈ before, entryMatches s (mapClosure s closure) x = false)
    (he : entryMatches s (mapClosure s closure) e = true) :
    takeClosure s closure =
      discardLogs (issueThrough { s with pu := { s.pu with list := before ++ after } } e.closure (mapClosure s closure)) := by
  unfold takeClosure
  dsimp only
  rw [if_pos ha, hl, removeFirst_append after hb he]
  rfl

theorem placeClosure_finished (h : (s.puFace (otherFace c.face)).finished = true) :
    placeClosure s c = issueSingle .uncertain s c := if_pos h

theorem placeClosure_passed (hf : (s.puFace (otherFace c.face)).finished = false)
    (hd : c.last + mdWindow s ≤ (s.puFace (otherFace c.face)).processed) :
    placeClosure s c = resolveEntry (otherFace c.face) s { closure := c, due := c.last + mdWindow s } := by
  unfold placeClosure
  dsimp only
  rw [hf, if_neg Bool.false_ne_true, if_pos hd]

theorem placeClosure_waits (hf : (s.puFace (otherFace c.face)).finished = false)
    (hd : (s.puFace (otherFace c.face)).processed < c.last + mdWindow s) :
    placeClosure s c = insertClosure s { closure := c, due := c.last + mdWindow s } := by
  unfold placeClosure
  dsimp only
  rw [hf, if_neg Bool.false_ne_true, if_neg (Int.not_le.2 hd)]

/-! ## The list in due order (R107, R108) -/

/-- R107: an entry goes in behind those due no later than it, before the first that is due later. -/
theorem insertDue_append {before after : List PairEntry} (hb : ∀ x ∈ before, x.due ≤ e.due)
    (ha : ∀ x ∈ after.head?, e.due < x.due) : insertDue e (before ++ after) = before ++ e :: after := by
  induction before with
  | nil =>
    cases after with
    | nil => rfl
    | cons x rest => exact if_pos (decide_eq_true (ha x rfl))
  | cons x rest ih =>
    have notLater : ¬decide (e.due < x.due) = true := by
      have := hb x (List.mem_cons_self ..)
      simpa using this
    have tail := ih fun y hy => hb y (List.mem_cons_of_mem _ hy)
    exact (if_neg notLater).trans (congrArg (x :: ·) tail)

theorem insertClosure_room {before after : List PairEntry} (hroom : s.pu.list.length < 128)
    (hl : s.pu.list = before ++ after) (hb : ∀ x ∈ before, x.due ≤ e.due) (ha : ∀ x ∈ after.head?, e.due < x.due) :
    insertClosure s e = { s with pu := { s.pu with list := before ++ e :: after } } := by
  have room : s.pu.list.length < Config.pairingListSize := hroom
  unfold insertClosure
  rw [if_pos room, ← insertDue_append hb ha, ← hl]
  rfl

theorem insertClosure_full {head : PairEntry} {rest before after : List PairEntry} (hl : s.pu.list = head :: rest)
    (hfull : 128 ≤ s.pu.list.length) (hs : rest = before ++ after) (hb : ∀ x ∈ before, x.due ≤ e.due)
    (ha : ∀ x ∈ after.head?, e.due < x.due) :
    let evicted := issueSingle .evicted { s with pu := { s.pu with list := rest } } head.closure
    insertClosure s e = discardLogs { evicted with pu := { evicted.pu with list := before ++ e :: after } } := by
  intro evicted
  have inserted : insertDue e evicted.pu.list = before ++ e :: after := by
    rw [← insertDue_append hb ha, ← hs]
    exact congrArg (insertDue e) (issueSingle_list _ _ _)
  have notRoom : ¬s.pu.list.length < Config.pairingListSize := Nat.not_lt.2 hfull
  unfold insertClosure
  rw [if_neg notRoom, hl, ← inserted]
  rfl

/-! ## The records (R115) -/

theorem issueMarked_pu (s : State) (body : RecordBody) (kind : PolicyEntry) (stamp : Int) :
    (issueMarked s body kind stamp).1.pu = s.pu := by
  obtain ⟨_, _, _, _, ⟨_, _, pu⟩, _⟩ := issueMarked_reporting s body kind stamp
  exact pu

theorem issueSingle_pu (result : PinholeResult) (s : State) (c : Closure) :
    (issueSingle result s c).pu = { s.pu with pinholes := bump32 s.pu.pinholes } := by
  unfold issueSingle
  rw [State.onPu_pu, issueMarked_pu]

/-- R115: a PINHOLE record of one closure leaves the web and the open tracks and spots alone. -/
theorem issueSingle_frame (result : PinholeResult) (s : State) (c : Closure) :
    (issueSingle result s c).te = s.te ∧ (issueSingle result s c).sm = s.sm ∧ (issueSingle result s c).mu = s.mu := by
  obtain ⟨_, _, _, ⟨mu, _, _⟩, ⟨te, sm, _⟩, _⟩ :=
    issueMarked_reporting s (.pinhole result c none) .pinholeOther c.first
  exact ⟨te, sm, mu⟩

theorem setFlag_raised (flags : Byte) (cause : Cause) : (setFlag flags cause).getLsbD (causeIndex cause).val = true := by
  cases cause <;> simp [setFlag, causeIndex]

theorem issueThrough_flag (s : State) (entry arriving : Closure) :
    (issueThrough s entry arriving).xu.flags.getLsbD 3 = true := by
  unfold issueThrough
  dsimp only
  rw [raise_eq]
  exact setFlag_raised _ .through

theorem issueThrough_pu (s : State) (entry arriving : Closure) :
    (issueThrough s entry arriving).pu =
      { s.pu with pinholes := bump32 s.pu.pinholes, throughs := bump32 s.pu.throughs } := by
  unfold issueThrough
  dsimp only
  rw [raise_eq]
  dsimp only
  rw [State.onPu_pu, issueMarked_pu]

theorem issueThrough_frame (s : State) (entry arriving : Closure) :
    (issueThrough s entry arriving).mu = s.mu ∧ (issueThrough s entry arriving).te = s.te ∧
      (issueThrough s entry arriving).sm = s.sm := by
  obtain ⟨_, _, _, ⟨mu, _, _⟩, ⟨te, sm, _⟩, _⟩ :=
    issueMarked_reporting s (.pinhole .through entry (some arriving)) .pinholeThrough (min entry.first arriving.first)
  unfold issueThrough
  dsimp only
  rw [raise_eq]
  exact ⟨mu, te, sm⟩

/-! ## Stretches no window can reach (R111) -/

/-- R111: the cut of the doubt logs touches the copies of the faces in the Pairing Unit alone. -/
theorem discardLogs_faces (s : State) :
    discardLogs s = { s with pu := { s.pu with faces := (discardLogs s).pu.faces } } := rfl

theorem discardLogs_puFace (s : State) (g : Face) :
    (discardLogs s).puFace g =
      { s.puFace g with log := (s.puFace g).log.filter fun x => decide (reachPoint s g ≤ x.last) } := by
  cases g <;> rfl

theorem foldl_min_le_iff (f : Face) (list : List PairEntry) (start y : Int) :
    list.foldl (fun x e => if e.closure.face = f then min x e.closure.first else x) start ≤ y ↔
      start ≤ y ∨ ∃ e ∈ list, e.closure.face = f ∧ e.closure.first ≤ y := by
  induction list generalizing start with
  | nil => simp
  | cons e rest ih =>
    rw [List.foldl_cons, ih, List.exists_mem_cons_iff, ← or_assoc]
    refine or_congr_left ?_
    by_cases hf : e.closure.face = f
    · rw [if_pos hf, min_le_iff, and_iff_right hf]
    · rw [if_neg hf, or_iff_left fun h => hf h.1]

/-- R111: what lies at or above the reach point can be reached by the window of a closure still to come, or of an entry that waits. -/
theorem reachPoint_le_iff (s : State) (g : Face) (y : Int) :
    reachPoint s g ≤ y ↔
      (s.puFace (otherFace g)).processed + 1 - mdWindow s ≤ y ∨
        ∃ e ∈ s.pu.list, e.closure.face = otherFace g ∧ e.closure.first - mdWindow s ≤ y := by
  unfold reachPoint
  simp only [sub_le_iff_le_add]
  exact foldl_min_le_iff _ _ _ _

theorem discardLogs_floor_processed (s : State) (g : Face) :
    ((discardLogs s).puFace g).floor = (s.puFace g).floor ∧
      ((discardLogs s).puFace g).processed = (s.puFace g).processed := by
  rw [discardLogs_puFace]
  exact ⟨rfl, rfl⟩

theorem mem_discardLogs_log (s : State) (g : Face) (x : Stretch) :
    x ∈ ((discardLogs s).puFace g).log ↔
      x ∈ (s.puFace g).log ∧
        ((s.puFace (otherFace g)).processed + 1 - mdWindow s ≤ x.last ∨
          ∃ e ∈ s.pu.list, e.closure.face = otherFace g ∧ e.closure.first - mdWindow s ≤ x.last) := by
  rw [discardLogs_puFace, List.mem_filter, decide_eq_true_eq, reachPoint_le_iff]

/-! ## Resolution (R109, R112) -/

theorem stretchDoubts_iff (due : Int) (x : Stretch) :
    stretchDoubts s c due x = true ↔
      x.first ≤ due ∧ c.first - mdWindow s ≤ x.last ∧
        (x.kind = .whole ∨
          ∃ lo hi, x.kind = .blind lo hi ∧ lo ≤ c.cdMax + cdTolerance s ∧ c.cdMin - cdTolerance s ≤ hi) := by
  unfold stretchDoubts Stretch.meets
  simp only [Bool.and_eq_true, decide_eq_true_eq, and_assoc]
  refine and_congr_right' (and_congr_right' ?_)
  cases x.kind with
  | whole => simp
  | blind lo hi => simp

theorem doubtful_iff (s : State) (g : Face) (e : PairEntry) :
    doubtful s g e = true ↔
      e.closure.first - mdWindow s ≤ (s.puFace g).floor ∨
        ∃ x ∈ (s.puFace g).log, x.first ≤ e.due ∧ e.closure.first - mdWindow s ≤ x.last ∧
          (x.kind = .whole ∨
            ∃ lo hi, x.kind = .blind lo hi ∧ lo ≤ e.closure.cdMax + cdTolerance s ∧
              e.closure.cdMin - cdTolerance s ≤ hi) := by
  unfold doubtful
  simp only [Bool.or_eq_true, decide_eq_true_eq, List.any_eq_true, stretchDoubts_iff]

theorem resolveEntry_doubtful (h : doubtful s g e = true) : resolveEntry g s e = issueSingle .uncertain s e.closure := by
  unfold resolveEntry
  rw [if_pos h]

theorem resolveEntry_clear (h : ¬doubtful s g e = true) : resolveEntry g s e = issueSingle .single s e.closure := by
  unfold resolveEntry
  rw [if_neg h]

/-! ## Doubt logs (R110) -/

section Doubts

variable {kind : DoubtKind} {previous stamp : Int} {p : PuFace}

theorem extendStretch_append {x : Stretch} {before : List Stretch} (after : List Stretch)
    (hb : ∀ y ∈ before, ¬(y.kind = kind ∧ y.last = previous)) (hx : x.kind = kind ∧ x.last = previous) :
    extendStretch kind previous stamp (before ++ x :: after) = some (before ++ { x with last := stamp } :: after) := by
  induction before with
  | nil => exact if_pos hx
  | cons y rest ih =>
    rw [List.cons_append, extendStretch, if_neg (hb y (List.mem_cons_self ..)),
      ih fun z hz => hb z (List.mem_cons_of_mem _ hz)]
    rfl

theorem extendStretch_none {log : List Stretch} (h : ∀ y ∈ log, ¬(y.kind = kind ∧ y.last = previous)) :
    extendStretch kind previous stamp log = none := by
  induction log with
  | nil => rfl
  | cons y rest ih =>
    rw [extendStretch, if_neg (h y (List.mem_cons_self ..)), ih fun z hz => h z (List.mem_cons_of_mem _ hz)]
    rfl

/-- R110: a doubt extends the first stretch of its kind that ran up to the face's previous line. -/
theorem logDoubt_extends {x : Stretch} {before after : List Stretch} (hl : p.log = before ++ x :: after)
    (hb : ∀ y ∈ before, ¬(y.kind = kind ∧ p.lastLine = some y.last)) (hk : x.kind = kind)
    (hx : p.lastLine = some x.last) :
    logDoubt stamp p kind = { p with log := before ++ { x with last := stamp } :: after } := by
  have earlier : ∀ y ∈ before, ¬(y.kind = kind ∧ y.last = x.last) := fun y hy ⟨hyk, hyl⟩ =>
    hb y hy ⟨hyk, by rw [hx, hyl]⟩
  unfold logDoubt
  rw [hx, Option.bind_some, hl, extendStretch_append after earlier ⟨hk, rfl⟩]

/-- R110: a doubt that no stretch ran up to opens one. -/
theorem logDoubt_opens (h : ∀ y ∈ p.log, ¬(y.kind = kind ∧ p.lastLine = some y.last)) :
    logDoubt stamp p kind = openStretch p { kind := kind, first := stamp, last := stamp } := by
  have noStretch : (p.lastLine.bind fun previous => extendStretch kind previous stamp p.log) = none := by
    cases hl : p.lastLine with
    | none => rfl
    | some previous => exact extendStretch_none fun y hy ⟨hk, hy'⟩ => h y hy ⟨hk, by rw [hl, hy']⟩
  unfold logDoubt
  rw [noStretch]

theorem openStretch_room (x : Stretch) (h : p.log.length < 64) : openStretch p x = { p with log := p.log ++ [x] } :=
  if_pos h

theorem openStretch_full {oldest : Stretch} {rest : List Stretch} (x : Stretch) (hl : p.log = oldest :: rest)
    (h : 64 ≤ p.log.length) : openStretch p x = { p with log := rest ++ [x], floor := max p.floor oldest.last } := by
  have notRoom : ¬p.log.length < Config.doubtLogSize := Nat.not_lt.2 h
  unfold openStretch
  rw [if_neg notRoom, hl]

end Doubts

/-! ## The life of a closure -/

/-- Settles O58, part by part: the mapping, the arrival with a match and without one, the resolution and its records, the progress, and
the doubt logs as they grow and are cut. -/
theorem closuresPairedAndResolved : Obligations.ClosuresPairedAndResolved := by
  unfold Obligations.ClosuresPairedAndResolved
  refine ⟨fun c s => ⟨mapClosure_upper, fun sp hs hf => ⟨fun hm => ?_, fun hm => ?_⟩⟩, fun f item s => ?_,
    ?_, ?_, ?_, ?_, fun f s => rfl, ?_, ?_⟩
  · rw [mapClosure_lower hs hf, mapLower_plain hm]
  · rw [mapClosure_lower hs hf, mapLower_mirrored hm]
  · exact lineDoubts_eq s f item
  · intro closure e before after s ha hl c t w matching hb he u
    have paired : u = discardLogs (issueThrough { s with pu := { s.pu with list := before ++ after } } e.closure c) :=
      takeClosure_paired ha hl (fun x hx => Bool.eq_false_iff.2 (mt (entryMatches_iff x).1 (hb x hx)))
        ((entryMatches_iff e).2 he)
    rw [paired, discardLogs_faces]
    obtain ⟨mu, te, sm⟩ := issueThrough_frame { s with pu := { s.pu with list := before ++ after } } e.closure c
    refine ⟨?_, ?_, ?_, issueThrough_flag _ _ _, mu, te, sm⟩ <;> simp only [issueThrough_pu]
  · intro closure s c g due e u
    refine ⟨takeClosure_off closure, fun ha hn => ?_⟩
    have placed : u = placeClosure s c := takeClosure_unmatched ha hn
    rw [placed]
    refine ⟨placeClosure_finished, placeClosure_passed, fun hf hd => ?_⟩
    rw [placeClosure_waits hf hd]
    exact ⟨fun hroom before after hl hb ha => insertClosure_room hroom hl hb ha,
      fun head rest hl hfull before after hs hb ha => insertClosure_full hl hfull hs hb ha⟩
  · intro g e s p c w tol doubt
    have meaning : doubtful s g e = true ↔ doubt := doubtful_iff s g e
    exact ⟨fun h => resolveEntry_doubtful (meaning.2 h), fun h => resolveEntry_clear (mt meaning.1 h)⟩
  · intro result c s u
    obtain ⟨te, sm, mu⟩ := issueSingle_frame result s c
    exact ⟨issueSingle_pu result s c, rfl, te, sm, mu⟩
  · intro stamp p kind
    refine ⟨fun before x after => logDoubt_extends, fun h => ?_⟩
    rw [logDoubt_opens h]
    exact ⟨openStretch_room _, fun oldest rest => openStretch_full _⟩
  · intro g s f t
    obtain ⟨floor, processed⟩ := discardLogs_floor_processed s g
    exact ⟨rfl, floor, processed, mem_discardLogs_log s g⟩

end Sys2Proof.Machine
end

section
/-! SUPPORT. The mark queue over a step, the break input, and the orders `flush`, `note` and `markon`. -/

namespace Sys2Proof.Machine

variable {s t u : State}

/-! ## The limits of the Mark Unit over a step (R120) -/

/-- Settles O8: the clock keeps the limits of the Mark Unit, and every command keeps or establishes them. -/
theorem stepKeepsMarkQueue : Obligations.StepKeepsMarkQueue := by
  intro s t hk h
  obtain rfl | ⟨i, rest, _, he⟩ := step_cases h
  · exact (tick_keeps (Keeps.refl s)).marks hk
  · obtain keeps | limits := exec_keeps_or_limits (s := { s with pending := rest }) i he
    · exact keeps.marks hk
    · exact limits.marks

/-! ## The break input (R124) -/

/-- R124: while the break flag stands, MARK is raised and nothing else happens. -/
theorem breakActivated_flagged (h : s.ku.breakFlag = true) : breakActivated s = raise s .mark := if_pos h

/-- R116, R124: the outputs that are fitted stand FORCED once the break input has acted, in place of the cut ones. -/
theorem breakActivated_clear (h : s.ku.breakFlag = false) :
    breakActivated s =
      raise
        { s with
          ku :=
            { s.ku with
              a := if s.straps.twoMarkers then .forced else cutPulse s.ku.a
              b := if s.straps.twoMarkers then .forced else cutPulse s.ku.b
              breakFlag := true
              counters := s.ku.counters.withCuts (cutsOf s.ku.a s.ku.b) } } .mark := by
  unfold breakActivated
  dsimp only
  rw [if_neg (Bool.eq_false_iff.1 h), cutPulses_eq]
  by_cases fitted : s.straps.twoMarkers = true
  · simp only [fitted, if_true]
    rfl
  · simp only [fitted]
    rfl

/-- R124: an active break input changes to active when it stood inactive. -/
theorem exec_breakInputActive (h : s.pins.breakInput = false) :
    exec .breakInputActive s =
      .next (settle s (breakActivated { s with pins := { s.pins with breakInput := true } })) := by
  have inactive : ¬s.pins.breakInput = true := Bool.eq_false_iff.1 h
  exact congrArg (fun u => Host.Outcome.next (settle s u)) (if_neg inactive)

/-- Settles O22: the input goes active with the flag clear or set, or it goes inactive. -/
theorem breakInput : Obligations.BreakInput := by
  intro s hq pins
  refine ⟨fun hin hflag => ?_, fun hin hflag => ?_, ?_⟩
  · exact exec_onlyStatus (exec_breakInputActive hin) (breakActivated_clear hflag)
      ((congrArg ControlUnit.limitEvent (raise_cu _ _)).trans hq.1)
  · exact exec_onlyStatus (exec_breakInputActive hin) (breakActivated_flagged hflag)
      ((congrArg ControlUnit.limitEvent (raise_cu _ _)).trans hq.1)
  · exact exec_onlyStatus rfl rfl hq.1

/-! ## The orders of R172 to R174 -/

theorem orderFlush_posts {page : Page} (hp : s.xu.filling = some page) (hr : page.records ≠ []) :
    orderFlush s = (postBegun s page .flush, plainResult .done) := by
  unfold orderFlush
  rw [hp, Option.any_some, if_pos (by simpa using hr), beginPost_records .flush hp hr]

/-- R172: a page that holds no record is nothing to flush (log 27). -/
theorem orderFlush_nothing (hp : ∀ page, s.xu.filling = some page → page.records = []) :
    orderFlush s = (s, plainResult (if s.ru.queue = [] then .empty else .noStock)) := by
  have bare : (s.xu.filling.any fun page => !page.records.isEmpty) = false := by
    cases h : s.xu.filling with
    | none => rfl
    | some page => simp [hp page h]
  unfold orderFlush
  rw [bare, if_neg Bool.false_ne_true]
  cases s.ru.queue <;> rfl

theorem orderNote_roll (hi : s.inspecting = true) (value : BitVec 64) :
    orderNote s value = (issue s (.note value s.mu.h), plainResult .done) := if_pos hi

theorem orderNote_refused (hi : s.inspecting = false) (value : BitVec 64) :
    orderNote s value = (s, plainResult .refusedState) := if_neg (Bool.eq_false_iff.1 hi)

theorem orderMarkon_active (hb : s.pins.breakInput = true) : orderMarkon s = (s, plainResult .breakActive) := if_pos hb

theorem orderMarkon_inactive (hb : s.pins.breakInput = false) :
    orderMarkon s = if s.ku.breakFlag then (clearBreak s, plainResult .done) else (s, plainResult .already) :=
  if_neg (Bool.eq_false_iff.1 hb)

/-- R167: an order that changes nothing ends with its result. -/
theorem executeOrder_unchanged {order : Instr} {effect : State → State × OrderResult} {result : OrderResult}
    (hq : Quiescent s) (hd : orderDue s = some order) (he : effect s = (s, result)) :
    OrderEnded s result (settle s (executeOrder s order effect)) := executeOrder_ended hd he rfl hq.1

/-- Settles O47, an order at a time, along the branches of its effect. -/
theorem flushNoteMarkonUnknown : Obligations.FlushNoteMarkonUnknown := by
  intro s hq
  refine ⟨fun hd => ⟨fun page hp hr => ?posts, fun hp hn => ?empty, fun hp hn => ?noStock⟩,
    fun value hd => ⟨fun hi hn => ?noted, fun hi => ?refused⟩,
    fun hd => ⟨fun hb => ?broken, fun hb hflag => ?cleared, fun hb hflag => ?already⟩, fun code hd => ?unknown⟩
  case posts => exact ⟨_, rfl, executeOrder_ended hd (orderFlush_posts hp hr) rfl hq.1⟩
  case empty => exact ⟨_, rfl, executeOrder_unchanged hq hd ((orderFlush_nothing hp).trans (by rw [if_pos hn]))⟩
  case noStock => exact ⟨_, rfl, executeOrder_unchanged hq hd ((orderFlush_nothing hp).trans (by rw [if_neg hn]))⟩
  case noted =>
    have control : (issue s (.note value s.mu.h)).cu = s.cu := issue_cu rfl hn
    exact ⟨_, rfl, executeOrder_ended hd (orderNote_roll hi value) (congrArg ControlUnit.batch control)
      ((congrArg ControlUnit.limitEvent control).trans hq.1)⟩
  case refused => exact ⟨_, rfl, executeOrder_unchanged hq hd (orderNote_refused hi value)⟩
  case broken => exact ⟨_, rfl, executeOrder_unchanged hq hd (orderMarkon_active hb)⟩
  case cleared => exact ⟨_, rfl, executeOrder_ended hd ((orderMarkon_inactive hb).trans (if_pos hflag)) rfl hq.1⟩
  case already =>
    exact ⟨_, rfl, executeOrder_unchanged hq hd ((orderMarkon_inactive hb).trans (if_neg (Bool.eq_false_iff.1 hflag)))⟩
  case unknown => exact ⟨_, rfl, executeOrder_unchanged hq hd rfl⟩

end Sys2Proof.Machine
end

section
/-! SUPPORT. A mark request: its outcome, its place in the queue, what it does when it is taken, and the record it goes with. -/

namespace Sys2Proof.Machine

variable {s : State} {e : MarkEntry} {body : RecordBody}

/-! ## The outcome of a request (R118, R119) -/

section
variable {p h fire : Int} {queued length : Nat}

theorem markOutcome_ahead (hf : h < fire) :
    markOutcome p h queued fire length = if queued < 32 then .queued else .full := if_pos hf

/-- R118: at the edge of fresh web the mark can still act at H. -/
theorem markOutcome_edge (hp : p = h) (hf : fire ≤ h) :
    markOutcome p h queued fire length = if h < fire + length then .partly else .late :=
  (if_neg (Int.not_lt.2 hf)).trans (if_pos hp)

/-- R119: below the edge the mark can act at H + 1 first. -/
theorem markOutcome_below (hp : p ≠ h) (hf : fire ≤ h) :
    markOutcome p h queued fire length =
      if fire + length ≤ h + 1 then .late else if queued < 32 then .partly else .full :=
  (if_neg (Int.not_lt.2 hf)).trans (if_neg hp)

theorem markOutcome_ne_none : markOutcome p h queued fire length ≠ .none := by
  unfold markOutcome
  split_ifs <;> nofun

end

/-- The outcome of a request with an output, in the state that takes it. -/
def outcomeOf (s : State) (e : MarkEntry) : MarkState := markOutcome s.mu.p s.mu.h s.ku.queue.length e.fire e.length

/-! ## The queue in fire order (R120) -/

/-- An insertion passes the elements that do not come after the new one, and stops before the first that does. -/
theorem insertBy_append {α : Type} {test : α → α → Bool} {x : α} {before after : List α}
    (hb : ∀ y ∈ before, test y x = false) (ha : ∀ y ∈ after.head?, test y x = true) :
    insertBy test x (before ++ after) = before ++ x :: after := by
  induction before with
  | nil =>
    cases after with
    | nil => rfl
    | cons y rest => exact if_pos (ha y rfl)
  | cons y rest ih =>
    have passed : ¬test y x = true := Bool.eq_false_iff.1 (hb y (List.mem_cons_self ..))
    exact (if_neg passed).trans (congrArg (y :: ·) (ih fun z hz => hb z (List.mem_cons_of_mem _ hz)))

theorem insertMark_append {before after : List MarkEntry} (hb : ∀ x ∈ before, x.fire ≤ e.fire)
    (ha : ∀ x ∈ after.head?, e.fire < x.fire) : insertMark e (before ++ after) = before ++ e :: after :=
  insertBy_append (fun x hx => decide_eq_false (Int.not_lt.2 (hb x hx))) fun x hx => decide_eq_true (ha x hx)

/-! ## The two outputs (R116) -/

theorem MarkUnit.output_eq (k : MarkUnit) (o : MarkOut) : k.output o = if o = .a then k.a else k.b := by
  cases o <;> rfl

theorem MarkUnit.setOutput_eq (k : MarkUnit) (o : MarkOut) (v : OutState) :
    k.setOutput o v = { k with a := if o = .a then v else k.a, b := if o = .a then k.b else v } := by
  cases o <;> rfl

/-! ## What a decided request does (R118, R119, R121, R125) -/

/-- R120: the request waits in the queue. -/
theorem takeRequest_queued (ho : outcomeOf s e = .queued) :
    takeRequest s e =
      ({ s with ku := { s.ku with queue := insertMark e s.ku.queue } }, { mark := .queued, missed := none }) := by
  unfold takeRequest
  rw [show markOutcome _ _ _ _ _ = _ from ho]
  rfl

/-- R119: below the edge of fresh web a mark that is cut short waits in the queue as well. -/
theorem takeRequest_partly_below (ho : outcomeOf s e = .partly) (hp : s.mu.p ≠ s.mu.h) :
    takeRequest s e =
      ({ s with ku := { s.ku with queue := insertMark e s.ku.queue } }, { mark := .partly, missed := none }) := by
  unfold takeRequest
  rw [show markOutcome _ _ _ _ _ = _ from ho]
  exact if_neg hp

/-- R125: at the edge of fresh web the request is missed while the break flag stands. -/
theorem takeRequest_partly_broken (ho : outcomeOf s e = .partly) (hp : s.mu.p = s.mu.h) (hb : s.ku.breakFlag = true) :
    takeRequest s e = (s, { mark := .partly, missed := some e }) := by
  unfold takeRequest
  rw [show markOutcome _ _ _ _ _ = _ from ho]
  exact (if_pos hp).trans (if_pos hb)

/-- R118: at the edge of fresh web the mark is laid at once. -/
theorem takeRequest_partly_laid (ho : outcomeOf s e = .partly) (hp : s.mu.p = s.mu.h) (hb : s.ku.breakFlag = false) :
    takeRequest s e = (layMark s e.out (e.fire + e.length), { mark := .partly, missed := none }) := by
  unfold takeRequest
  rw [show markOutcome _ _ _ _ _ = _ from ho]
  exact (if_pos hp).trans (if_neg (Bool.eq_false_iff.1 hb))

theorem takeRequest_late (ho : outcomeOf s e = .late) :
    takeRequest s e = (raise (bumpLate s) .mark, { mark := .late, missed := none }) := by
  unfold takeRequest
  rw [show markOutcome _ _ _ _ _ = _ from ho]

theorem takeRequest_full (ho : outcomeOf s e = .full) :
    takeRequest s e = (raise (bumpMarkFull s) .mark, { mark := .full, missed := none }) := by
  unfold takeRequest
  rw [show markOutcome _ _ _ _ _ = _ from ho]

/-- R125: a request is answered with its outcome, and missed at once when it would be laid while the break flag stands. -/
theorem takeRequest_answer (s : State) (e : MarkEntry) :
    (takeRequest s e).2 =
      { mark := outcomeOf s e
        missed := if outcomeOf s e = .partly ∧ s.mu.p = s.mu.h ∧ s.ku.breakFlag = true then some e else none } := by
  cases ho : outcomeOf s e with
  | none => exact absurd ho markOutcome_ne_none
  | queued => rw [takeRequest_queued ho]; rfl
  | late => rw [takeRequest_late ho]; rfl
  | full => rw [takeRequest_full ho]; rfl
  | partly =>
    by_cases edge : s.mu.p = s.mu.h
    · cases broken : s.ku.breakFlag with
      | true => rw [takeRequest_partly_broken ho edge broken, if_pos ⟨rfl, edge, rfl⟩]
      | false => rw [takeRequest_partly_laid ho edge broken, if_neg (by simp)]
    · rw [takeRequest_partly_below ho edge, if_neg fun ⟨_, h, _⟩ => edge h]

/-! ## The policy (R117) -/

/-- R117: the policy's word for an output. -/
def MarkOut.target : MarkOut → MarkTarget
  | .a => .a
  | .b => .b

/-- R117: the entry a request becomes on an output. -/
def requestOn (sp : SharedPart) (out : MarkOut) (stamp : Int) (source : Word) : MarkEntry :=
  { out := out, fire := stamp + (sp.marker out).offset, length := (sp.marker out).length, source := source }

section
variable {sp : SharedPart} {kind : PolicyEntry}

theorem markRequest_none (h : (∀ sp, s.shared = some sp → sp.policy.target kind = .none) ∨ s.straps.twoMarkers = false)
    (stamp : Int) (source : Word) : markRequest s kind stamp source = (s, { mark := .none, missed := none }) := by
  unfold markRequest
  cases hs : s.shared with
  | none => rfl
  | some sp =>
    dsimp only
    rcases h with unmapped | unfitted
    · rw [unmapped sp hs, ite_self]
    · exact if_neg (Bool.eq_false_iff.1 unfitted)

theorem markRequest_on (hs : s.shared = some sp) (hm : s.straps.twoMarkers = true) (out : MarkOut)
    (ht : sp.policy.target kind = out.target) (stamp : Int) (source : Word) :
    markRequest s kind stamp source = takeRequest s (requestOn sp out stamp source) := by
  unfold markRequest
  rw [hs]
  dsimp only
  rw [if_pos hm, ht]
  cases out <;> rfl

end

/-! ## The number, the place and the count of a record (R130, R134, R138, R140) -/

/-- R130: the state once the next number has been given; the sequence limit's number sends the limit event. -/
def numberGiven (s : State) : State :=
  { s with
    ru := { s.ru with nextSeq := s.ru.nextSeq + 1 }
    cu := { s.cu with limitEvent := s.cu.limitEvent || decide (s.ru.nextSeq = Config.sequenceLimit) } }

theorem takeNumber_given (h : s.ru.nextSeq ≤ Config.lastSequence) :
    takeNumber s = (numberGiven s, some s.ru.nextSeq) := by
  unfold takeNumber numberGiven
  dsimp only
  rw [if_pos h]
  by_cases limit : s.ru.nextSeq = Config.sequenceLimit
  · rw [if_pos limit, decide_eq_true limit, Bool.or_true]
    rfl
  · rw [if_neg limit, decide_eq_false limit, Bool.or_false]
    rfl

theorem takeNumber_past (h : Config.lastSequence < s.ru.nextSeq) : takeNumber s = (s, none) := if_neg (Nat.not_le.2 h)

/-- R138, R140: the Record Unit once a numbered record has been kept or lost. -/
def placedIn (r : RecordUnit) (seq : Nat) (h : Int) (mark : MarkState) (body : RecordBody) : RecordUnit :=
  if r.tallyOpen = false ∧ slotsOf r.queue + body.slots ≤ Config.holdingSlots then
    { r with queue := r.queue ++ [{ seq := seq, mark := mark, body := body }] }
  else { joinLoss r seq h body with lostTotal := bump32 r.lostTotal }

theorem placeRecord_numbered (s : State) (seq : Nat) (mark : MarkState) (body : RecordBody) :
    placeRecord s (some seq) mark body = { s with ru := placedIn s.ru seq s.mu.h mark body } := by
  have room : (s.ru.tallyOpen || decide (freeSlots s.ru < body.slots)) = true ↔
      ¬(s.ru.tallyOpen = false ∧ slotsOf s.ru.queue + body.slots ≤ Config.holdingSlots) := by
    have filled := slots_pos body
    unfold freeSlots
    cases s.ru.tallyOpen
    · simp only [Bool.false_or, decide_eq_true_eq, true_and]
      omega
    · simp
  unfold placeRecord placedIn loseRecord
  dsimp only
  simp only [room, ite_not]
  split <;> rfl

/-- R134: the roll counts of the Record Unit once a record has been taken. -/
def countedIn (body : RecordBody) (r : RecordUnit) : RecordUnit :=
  match body with
  | .spot _ => { r with spots := bump32 r.spots }
  | .large _ => { r with larges := bump32 r.larges }
  | _ => r

theorem countRecord_counted (hk : body.kind ≠ 0x40) (s : State) :
    countRecord s body = { s with ru := countedIn body s.ru } := by
  cases body
  case fault => exact absurd rfl hk
  all_goals rfl

/-! ## A record with its request (R125, R131) -/

/-- R131: the order of a numbered record: its number, its request, its place and count, then the record of a missed request. -/
theorem issueMarked_numbered (hk : body.kind ≠ 0x40) (hn : s.ru.nextSeq ≤ Config.lastSequence) (kind : PolicyEntry)
    (stamp : Int) :
    let request := markRequest (numberGiven s) kind stamp (BitVec.ofNat 32 s.ru.nextSeq)
    issueMarked s body kind stamp =
      (settleMissed
        { request.1 with
          ru := countedIn body (placedIn (numberGiven s).ru s.ru.nextSeq s.mu.h request.2.mark body) } request.2,
        BitVec.ofNat 32 s.ru.nextSeq) := by
  intro request
  obtain ⟨_, _, _, ⟨web, _, _⟩, _⟩ :=
    markRequest_reporting (numberGiven s) kind stamp (BitVec.ofNat 32 s.ru.nextSeq)
  unfold issueMarked
  rw [takeNumber_given hn]
  dsimp only [sourceOf]
  rw [placeRecord_numbered, countRecord_counted hk, markRequest_ru, web]
  rfl

/-- R130, R131: past the last number the record is lost, and its request is answered with some source (log 3). -/
theorem issueMarked_unnumbered (hk : body.kind ≠ 0x40) (hn : Config.lastSequence < s.ru.nextSeq) (kind : PolicyEntry)
    (stamp : Int) :
    let request := markRequest s.useFree kind stamp (Config.unnumberedSource s.free)
    issueMarked s body kind stamp =
      (settleMissed
        { request.1 with ru := countedIn body { s.ru with lostTotal := bump32 s.ru.lostTotal } } request.2,
        Config.unnumberedSource s.free) := by
  intro request
  have unit : request.1.ru = s.ru := markRequest_ru _ _ _ _
  unfold issueMarked
  rw [takeNumber_past hn]
  dsimp only [sourceOf]
  rw [countRecord_counted hk, ← unit]
  rfl

/-- Settles O54: the outcome, the policy, the decided request outcome by outcome, and the record about the request. -/
theorem markRequestDecided : Obligations.MarkRequestDecided := by
  refine ⟨fun p h fire queued length _ _ => ⟨markOutcome_ahead, markOutcome_edge, fun hp => markOutcome_below hp.ne⟩, ?policy,
    ?taken, ?recorded⟩
  case policy =>
    intro s kind stamp source target request
    have mapped : ∀ sp, target sp = sp.policy.target kind := fun sp => by cases kind <;> rfl
    simp only [mapped]
    exact ⟨fun h => markRequest_none h stamp source, fun sp hs hm =>
      ⟨fun ht => markRequest_on hs hm .a ht stamp source, fun ht => markRequest_on hs hm .b ht stamp source⟩⟩
  case taken =>
    intro s e outcome t output counting laid joinsQueue
    have joins : t = { s with ku := { s.ku with queue := insertMark e s.ku.queue } } → joinsQueue :=
      fun ht before after hq hb ha => by rw [ht, hq, insertMark_append hb ha]
    have stands : output = s.ku.output e.out := (s.ku.output_eq e.out).symm
    have lays : ∀ stop c, laid stop c = { s with ku := { s.ku.setOutput e.out (.active stop) with counters := c } } :=
      fun stop c => by rw [MarkUnit.setOutput_eq]
    have atOnce : outcome = .partly → s.mu.p = s.mu.h → s.ku.breakFlag = false →
        t = layMark s e.out (e.fire + e.length) := fun ho hp hb => congrArg Prod.fst (takeRequest_partly_laid ho hp hb)
    refine ⟨takeRequest_answer s e, fun ho => joins (congrArg Prod.fst (takeRequest_queued ho)),
      fun ho hp => joins (congrArg Prod.fst (takeRequest_partly_below ho hp)),
      fun ho hp hb => congrArg Prod.fst (takeRequest_partly_broken ho hp hb),
      fun ho hp hb => ⟨fun idle => ?_, fun stop active => ?_⟩,
      fun ho => congrArg Prod.fst (takeRequest_late ho), fun ho => congrArg Prod.fst (takeRequest_full ho)⟩
    · rw [atOnce ho hp hb, layMark_idle _ (stands ▸ idle), lays]
    · rw [atOnce ho hp hb, layMark_active _ (stands ▸ active), lays]
  case recorded =>
    intro s body kind stamp settled counted r numbered
    have settles : ∀ u answer, settled u answer = settleMissed u answer := fun u ⟨mark, missed⟩ => by
      cases missed <;> rfl
    have counts : ∀ q, counted q = countedIn body q := fun q => by cases body <;> rfl
    simp only [settles, counts]
    exact ⟨fun hk hn => issueMarked_numbered hk hn kind stamp, fun hk hn => ⟨_, issueMarked_unnumbered hk hn kind stamp⟩,
      fun source => rfl⟩

end Sys2Proof.Machine
end

section
/-! SUPPORT. The holding queue over a step, and a record of any kind as the Record Unit takes it: its number, its place in the queue
or in the loss tally, and what it counts for. -/

namespace Sys2Proof.Machine

variable {s t : State} {body : RecordBody} {r : RecordUnit}

/-! ## The limits of the Record Unit over a step (R130, R138, R141) -/

/-- Settles O9: the clock keeps the limits of the Record Unit, and every command keeps or establishes them. -/
theorem stepKeepsHoldingQueue : Obligations.StepKeepsHoldingQueue := by
  intro s t hr h
  obtain rfl | ⟨i, rest, _, he⟩ := step_cases h
  · exact (tick_keeps (Keeps.refl s)).holding hr
  · obtain keeps | limits := exec_keeps_or_limits (s := { s with pending := rest }) i he
    · exact keeps.holding hr
    · exact limits.holding

/-! ## What a record counts for (R134, R146) -/

/-- R146: all that a captured fault does. -/
theorem captureFault_eq (s : State) (code : FaultCode) :
    captureFault s code =
      { s with
        cu := { s.cu with capture := some { code := code, stamp := s.mu.h } }
        xu := (raise s .fault).xu
        out := (raise s .fault).out } := by
  unfold captureFault
  rw [raise_eq, raise_eq]
  rfl

theorem countRecord_fault (s : State) (code : FaultCode) (subject : FaultSubject) (first last : Int) (count : Nat) :
    countRecord s (.fault code subject first last count) = captureFault s code := rfl

theorem countRecord_ru (s : State) (body : RecordBody) : (countRecord s body).ru = countedIn body s.ru := by
  cases body
  case fault code subject first last count => rw [countRecord_fault, captureFault_eq]; rfl
  all_goals rfl

/-- A record counted leaves the limit event and the free values as they stand. -/
theorem countRecord_limitEvent_free (s : State) (body : RecordBody) :
    (countRecord s body).cu.limitEvent = s.cu.limitEvent ∧ (countRecord s body).free = s.free := by
  cases body
  case fault code subject first last count => rw [countRecord_fault, captureFault_eq]; exact ⟨rfl, rfl⟩
  all_goals exact ⟨rfl, rfl⟩

/-- R146: a FAULT record alone reaches the Exchange Unit, what is sent and the fault capture. -/
theorem countRecord_quiet (hk : body.kind ≠ 0x40) (s : State) :
    (countRecord s body).xu = s.xu ∧ (countRecord s body).out = s.out ∧ (countRecord s body).cu = s.cu := by
  rw [countRecord_counted hk]
  exact ⟨rfl, rfl, rfl⟩

theorem countedIn_queue (body : RecordBody) (r : RecordUnit) : (countedIn body r).queue = r.queue := by
  cases body <;> rfl

/-! ## A record without a mark request (R130, R131) -/

/-- R130: the Record Unit and the Control Unit once a record has its number and its place, or has been discarded past the last one. -/
def recordPlaced (s : State) (body : RecordBody) : State :=
  if s.ru.nextSeq ≤ Config.lastSequence then
    { numberGiven s with ru := placedIn (numberGiven s).ru s.ru.nextSeq s.mu.h .none body }
  else { s with ru := { s.ru with lostTotal := bump32 s.ru.lostTotal } }

theorem recordPlaced_numbered (hn : s.ru.nextSeq ≤ Config.lastSequence) (body : RecordBody) :
    recordPlaced s body = { numberGiven s with ru := placedIn (numberGiven s).ru s.ru.nextSeq s.mu.h .none body } :=
  if_pos hn

theorem recordPlaced_past (hn : Config.lastSequence < s.ru.nextSeq) (body : RecordBody) :
    recordPlaced s body = { s with ru := { s.ru with lostTotal := bump32 s.ru.lostTotal } } :=
  if_neg (Nat.not_le.2 hn)

/-- R131: a record without a mark request is placed and then counted. -/
theorem issue_eq (s : State) (body : RecordBody) : issue s body = countRecord (recordPlaced s body) body := by
  unfold issue
  by_cases hn : s.ru.nextSeq ≤ Config.lastSequence
  · rw [takeNumber_given hn, recordPlaced_numbered hn]
    exact congrArg (countRecord · body) (placeRecord_numbered _ _ _ _)
  · rw [takeNumber_past (Nat.not_le.1 hn), recordPlaced_past (Nat.not_le.1 hn)]
    rfl

/-- Placing a record leaves all but the Record Unit and the limit event alone. -/
theorem recordPlaced_frame (s : State) (body : RecordBody) :
    ∃ ru limit, recordPlaced s body = { s with ru := ru, cu := { s.cu with limitEvent := limit } } := by
  unfold recordPlaced
  split
  · exact ⟨_, _, rfl⟩
  · exact ⟨_, s.cu.limitEvent, rfl⟩

theorem recordPlaced_limitEvent (s : State) (body : RecordBody) :
    (recordPlaced s body).cu.limitEvent = true ↔ s.cu.limitEvent = true ∨ s.ru.nextSeq = Config.sequenceLimit := by
  by_cases hn : s.ru.nextSeq ≤ Config.lastSequence
  · rw [recordPlaced_numbered hn]
    simp [numberGiven]
  · have passed : s.ru.nextSeq ≠ Config.sequenceLimit := fun e => hn (e ▸ by decide)
    rw [recordPlaced_past (Nat.not_le.1 hn)]
    simp [passed]

theorem issue_limitEvent_iff (s : State) (body : RecordBody) :
    (issue s body).cu.limitEvent = true ↔ s.cu.limitEvent = true ∨ s.ru.nextSeq = Config.sequenceLimit := by
  rw [issue_eq, (countRecord_limitEvent_free _ _).1]
  exact recordPlaced_limitEvent s body

theorem issue_free (s : State) (body : RecordBody) : (issue s body).free = s.free := by
  obtain ⟨ru, limit, e⟩ := recordPlaced_frame s body
  rw [issue_eq, (countRecord_limitEvent_free _ _).2, e]

theorem issue_ru_numbered (hn : s.ru.nextSeq ≤ Config.lastSequence) (body : RecordBody) :
    (issue s body).ru =
      countedIn body (placedIn { s.ru with nextSeq := s.ru.nextSeq + 1 } s.ru.nextSeq s.mu.h .none body) := by
  rw [issue_eq, countRecord_ru, recordPlaced_numbered hn]
  rfl

theorem issue_ru_past (hn : Config.lastSequence < s.ru.nextSeq) (body : RecordBody) :
    (issue s body).ru = countedIn body { s.ru with lostTotal := bump32 s.ru.lostTotal } := by
  rw [issue_eq, countRecord_ru, recordPlaced_past hn]

/-- R131: a record that is no FAULT record sends nothing, raises nothing and leaves the fault capture. -/
theorem issue_quiet (hk : body.kind ≠ 0x40) (s : State) :
    (issue s body).xu = s.xu ∧ (issue s body).out = s.out ∧ (issue s body).cu.capture = s.cu.capture := by
  obtain ⟨ru, limit, e⟩ := recordPlaced_frame s body
  obtain ⟨xu, out, cu⟩ := countRecord_quiet hk (recordPlaced s body)
  rw [issue_eq, xu, out, cu, e]
  exact ⟨rfl, rfl, rfl⟩

/-- R146: a FAULT record, kept or not, is captured and raises FAULT. -/
theorem issueFault_captures (s : State) (code : FaultCode) (subject : FaultSubject) (first last : Int) (count : Nat) :
    (issueFault s code subject first last count).xu = (raise s .fault).xu ∧
      (issueFault s code subject first last count).out = (raise s .fault).out ∧
      (issueFault s code subject first last count).cu.capture = some { code := code, stamp := s.mu.h } := by
  obtain ⟨ru, limit, e⟩ := recordPlaced_frame s (.fault code subject first last count)
  unfold issueFault
  rw [issue_eq, e, countRecord_fault, captureFault_eq, raise_eq, raise_eq]
  exact ⟨rfl, rfl, rfl⟩

/-! ## Kept or lost (R138, R140) -/

theorem placedIn_kept {h : Int} {seq : Nat} {mark : MarkState} (ho : r.tallyOpen = false)
    (hr : slotsOf r.queue + body.slots ≤ Config.holdingSlots) :
    placedIn r seq h mark body = { r with queue := r.queue ++ [{ seq := seq, mark := mark, body := body }] } :=
  if_pos ⟨ho, hr⟩

theorem placedIn_lost {h : Int} {seq : Nat} {mark : MarkState}
    (hl : r.tallyOpen = true ∨ Config.holdingSlots < slotsOf r.queue + body.slots) :
    placedIn r seq h mark body = { joinLoss r seq h body with lostTotal := bump32 r.lostTotal } := by
  refine if_neg fun ⟨closed, room⟩ => ?_
  rcases hl with opened | full
  · exact Bool.false_ne_true (closed.symm.trans opened)
  · exact absurd room (Nat.not_le.2 full)

/-! ## The place of a lost record in the tally (R141) -/

section
variable {seq : Nat} {h : Int} {runs : List LossRun}

/-- R141: the first run whose next number it is takes the record. -/
theorem extendRun_extends {before after : List LossRun} {run : LossRun} (hb : ∀ x ∈ before, x.first + x.count ≠ seq)
    (hr : run.first + run.count = seq) :
    extendRun seq h body (before ++ run :: after) = some (before ++ run.add h body :: after) := by
  induction before with
  | nil => exact if_pos hr
  | cons x rest ih =>
    have passed : ¬x.first + x.count = seq := hb x (List.mem_cons_self ..)
    have later := ih fun y hy => hb y (List.mem_cons_of_mem _ hy)
    exact (if_neg passed).trans (congrArg (Option.map (x :: ·)) later)

theorem extendRun_none (hn : ∀ x ∈ runs, x.first + x.count ≠ seq) : extendRun seq h body runs = none := by
  induction runs with
  | nil => rfl
  | cons x rest ih =>
    have passed : ¬x.first + x.count = seq := hn x (List.mem_cons_self ..)
    have later := ih fun y hy => hn y (List.mem_cons_of_mem _ hy)
    exact (if_neg passed).trans (congrArg (Option.map (x :: ·)) later)

theorem joinLoss_extends {before after : List LossRun} {run : LossRun} (hs : r.runs = before ++ run :: after)
    (hb : ∀ x ∈ before, x.first + x.count ≠ seq) (hr : run.first + run.count = seq) :
    joinLoss r seq h body = { r with tallyOpen := true, runs := before ++ run.add h body :: after } := by
  unfold joinLoss
  rw [hs, extendRun_extends hb hr]

/-- R141, R142: a record no run awaits opens a run of its own, the latest entered. -/
theorem joinLoss_opens {before after : List LossRun} (hn : ∀ x ∈ r.runs, x.first + x.count ≠ seq)
    (hroom : r.runs.length < Config.lossRuns) (hs : r.runs = before ++ after) (hb : ∀ x ∈ before, x.first ≤ seq)
    (ha : ∀ x ∈ after.head?, seq < x.first) :
    joinLoss r seq h body =
      { r with
        tallyOpen := true
        runs :=
          before ++ { ({ LossRun.empty with first := seq }).add h body with entered := nextEntry r.runs } :: after } := by
  have placed : insertBy (fun y x => decide (x.first < y.first))
      (({ LossRun.empty with first := seq, entered := nextEntry r.runs }).add h body) r.runs =
        before ++ ({ LossRun.empty with first := seq, entered := nextEntry r.runs }).add h body :: after := by
    rw [hs]
    exact insertBy_append (fun x hx => decide_eq_false (Nat.not_lt.2 (hb x hx))) fun x hx => decide_eq_true (ha x hx)
  unfold joinLoss
  rw [extendRun_none hn]
  dsimp only
  rw [if_pos hroom, placed]
  rfl

theorem joinLoss_scatters (hn : ∀ x ∈ r.runs, x.first + x.count ≠ seq) (hfull : Config.lossRuns ≤ r.runs.length) :
    joinLoss r seq h body = { r with tallyOpen := true, scattered := r.scattered.add h body } := by
  unfold joinLoss
  rw [extendRun_none hn]
  exact if_neg (Nat.not_lt.2 hfull)

end

/-! ## A record of any kind -/

/-- R132: the slots of a record of any kind. -/
theorem slots_eq (body : RecordBody) :
    body.slots =
      match body with
      | .pinhole _ _ partner => if partner.isSome then 2 else 1
      | .streakClose _ _ _ _ _ _ reason _ _ _ held => if reason = .merged ∨ held.count ≠ 0 then 2 else 1
      | _ => 1 := by
  cases body
  case pinhole result c partner => cases partner <;> rfl
  all_goals rfl

/-- R141: the group counts after one more record. -/
theorem groupsAdd_eq (g : LossGroups) (body : RecordBody) :
    g.add body =
      match body with
      | .pinhole _ _ _ => { g with pinhole := bump32 g.pinhole }
      | .streakOpen _ _ _ _ _ _ _ _ _ | .streakClose _ _ _ _ _ _ _ _ _ _ _ => { g with streak := bump32 g.streak }
      | _ => { g with other := bump32 g.other } := by
  cases body <;> rfl

/-- Settles O55: the record by its number and its place, the slots of each kind, and the tally by the run that awaits the number. -/
theorem issueTakesRecord : Obligations.IssueTakesRecord := by
  refine ⟨?taken, slots_eq, ?joined⟩
  case taken =>
    intro s body t counted numbered
    have counts : ∀ q, counted q = countedIn body q := fun q => by cases body <;> rfl
    refine ⟨issue_reporting s body, issue_ku s body, issue_free s body, issue_limitEvent_iff s body, fun hn ho hr => ?_,
      fun hn hl => ?_, fun hn => ?_, fun hk => issue_quiet hk s, ?_⟩
    · rw [counts]
      exact (issue_ru_numbered hn body).trans (congrArg (countedIn body) (placedIn_kept ho hr))
    · have lost := (issue_ru_numbered hn body).trans (congrArg (countedIn body) (placedIn_lost (r := numbered) hl))
      rw [counts]
      refine ⟨lost, (congrArg RecordUnit.queue lost).trans ?_⟩
      rw [countedIn_queue]
      exact joinLoss_queue numbered _ _ _
    · rw [counts]
      exact issue_ru_past hn body
    · rintro code subject first last count rfl
      exact issueFault_captures s code subject first last count
  case joined =>
    intro r seq h body alone
    refine ⟨fun before run after hs hb hr => joinLoss_extends hs hb hr, fun hn hroom before after hs hb ha => ?_,
      fun hn hfull => joinLoss_scatters hn hfull, fun run => ⟨rfl, rfl, rfl, rfl, rfl, groupsAdd_eq run.groups body⟩⟩
    exact ⟨nextEntry r.runs, fun x hx => nextEntry_gt hx, joinLoss_opens hn hroom hs hb ha⟩

end Sys2Proof.Machine
end

section
/-! SUPPORT. The test of the loss tally: which run is the oldest, what one LOSS record does, and what a burst of them leaves of the
tally. -/

namespace Sys2Proof.Machine

variable {s : State} {runs aged taken rest : List LossRun} {run : LossRun}

/-! ## The oldest run (R142) -/

theorem oldestRun_nil_iff : oldestRun runs = none ↔ runs = [] := by
  cases runs with
  | nil => exact ⟨fun _ => rfl, fun _ => rfl⟩
  | cons x xs =>
    refine ⟨fun h => ?_, nofun⟩
    unfold oldestRun at h
    split at h
    · cases h
    · split at h <;> cases h

theorem oldestRun_least (h : oldestRun runs = some run) : run ∈ runs ∧ ∀ x ∈ runs, run.entered ≤ x.entered := by
  induction runs generalizing run with
  | nil => cases h
  | cons x xs ih =>
    cases later : oldestRun xs with
    | none =>
      obtain rfl := oldestRun_nil_iff.1 later
      obtain rfl := Option.some.inj h
      exact ⟨List.mem_cons_self .., by simp⟩
    | some y =>
      obtain ⟨mem, least⟩ := ih later
      simp only [oldestRun, later] at h
      by_cases older : x.entered ≤ y.entered
      · obtain rfl := Option.some.inj ((if_pos older).symm.trans h)
        exact ⟨List.mem_cons_self .., List.forall_mem_cons.2 ⟨le_refl _, fun z hz => older.trans (least z hz)⟩⟩
      · obtain rfl := Option.some.inj ((if_neg older).symm.trans h)
        exact ⟨List.mem_cons_of_mem _ mem, List.forall_mem_cons.2 ⟨(Nat.not_le.1 older).le, least⟩⟩

/-- R142: the head of the runs in their order of entry is the oldest, wherever it stands in the list. -/
theorem oldestRun_head (hp : (run :: rest).Perm runs) (ho : (run :: rest).Pairwise fun a b => a.entered < b.entered) :
    oldestRun runs = some run := by
  obtain ⟨first, _⟩ := List.pairwise_cons.1 ho
  cases found : oldestRun runs with
  | none => exact absurd (oldestRun_nil_iff.1 found ▸ hp) (List.not_perm_nil_cons _ _ ∘ List.Perm.symm)
  | some x =>
    obtain ⟨mem, least⟩ := oldestRun_least found
    rcases List.mem_cons.1 (hp.symm.subset mem) with rfl | later
    · rfl
    · exact absurd (first x later) (Nat.not_lt.2 (least run (hp.subset (List.mem_cons_self ..))))

/-- Runs entered one after another are different runs. -/
theorem nodup_of_entered (ho : aged.Pairwise fun a b => a.entered < b.entered) : aged.Nodup :=
  ho.imp fun h e => absurd (congrArg LossRun.entered e) h.ne

/-! ## LOSS records (R143) -/

/-- R143: the LOSS records of these entries, with the numbers from `n` on. -/
def lossReport (n : Nat) (entries : List LossRun) : List Record :=
  entries.mapIdx fun i run => { seq := n + i, mark := .none, body := lossBody run }

theorem lossReport_append (n : Nat) (xs ys : List LossRun) :
    lossReport n (xs ++ ys) = lossReport n xs ++ lossReport (n + xs.length) ys := by
  unfold lossReport
  rw [List.mapIdx_append]
  congr 2
  funext i run
  rw [Nat.add_right_comm, Nat.add_assoc n]

theorem slotsOf_lossReport (n : Nat) (entries : List LossRun) : slotsOf (lossReport n entries) = entries.length := by
  have one : (lossReport n entries).map (fun x => x.body.slots) = List.replicate entries.length 1 :=
    List.eq_replicate_iff.2 ⟨by simp [lossReport], fun k hk => by
      obtain ⟨x, hx, rfl⟩ := List.mem_map.1 hk
      obtain ⟨i, hi, rfl⟩ := List.mem_mapIdx.1 hx
      rfl⟩
  unfold slotsOf
  rw [one, List.sum_replicate, smul_eq_mul, mul_one]

/-- R142: the Record Unit once LOSS records of these entries have taken the next numbers and entered the queue. -/
def reportedIn (r : RecordUnit) (entries : List LossRun) : RecordUnit :=
  { r with nextSeq := r.nextSeq + entries.length, queue := r.queue ++ lossReport r.nextSeq entries }

theorem reportedIn_nil (r : RecordUnit) : reportedIn r [] = r := by
  simp [reportedIn, lossReport]

theorem reportedIn_append (r : RecordUnit) (xs ys : List LossRun) :
    reportedIn r (xs ++ ys) = reportedIn (reportedIn r xs) ys := by
  simp [reportedIn, lossReport_append, Nat.add_assoc]

/-- R191: attention cause LOSS has been raised. -/
def LossRaised (s : State) : Prop := s.xu.flags.getLsbD 6 = true

theorem issueLoss_reports (hn : s.ru.nextSeq ≤ Config.lastSequence) (run : LossRun) :
    (issueLoss s run).ru = reportedIn s.ru [run] ∧ LossRaised (issueLoss s run) := by
  unfold issueLoss LossRaised
  rw [takeNumber_given hn]
  dsimp only
  rw [raise_eq]
  exact ⟨rfl, setFlag_raised _ .loss⟩

theorem lossTestAllowed_iff {r : RecordUnit} :
    lossTestAllowed r = true ↔ r.abandoned = false ∧ r.nextSeq ≤ Config.lastSequence := by
  simp [lossTestAllowed]

/-! ## A burst of LOSS records (R142) -/

/-- R142: the Record Unit once these runs have been reported and have left the tally. -/
def burstIn (r : RecordUnit) (taken : List LossRun) : RecordUnit :=
  { reportedIn r taken with runs := r.runs.diff taken }

theorem burstIn_nil (r : RecordUnit) : burstIn r [] = r := by
  unfold burstIn
  rw [reportedIn_nil, List.diff_nil]

theorem burstIn_cons (r : RecordUnit) (run : LossRun) (taken : List LossRun) :
    burstIn r (run :: taken) = burstIn (reportedIn { r with runs := r.runs.erase run } [run]) taken := by
  unfold burstIn
  rw [← List.singleton_append, reportedIn_append, List.singleton_append, List.diff_cons]
  rfl

/-- R142: the oldest run leaves the tally and is reported. -/
def runReported (s : State) (run : LossRun) : State :=
  issueLoss (s.onRu fun r => { r with runs := r.runs.erase run }) run

theorem runReported_reports (hn : s.ru.nextSeq ≤ Config.lastSequence) (run : LossRun) :
    (runReported s run).ru = reportedIn { s.ru with runs := s.ru.runs.erase run } [run] ∧ LossRaised (runReported s run) :=
  issueLoss_reports (s := s.onRu fun r => { r with runs := r.runs.erase run }) hn run

theorem lossRecords_run (m : Nat) (hr : oldestRun s.ru.runs = some run) (ha : s.ru.abandoned = false)
    (hn : s.ru.nextSeq ≤ Config.lastSequence) : lossRecords (m + 1) s = lossRecords m (runReported s run) := by
  rw [lossRecords, if_pos (lossTestAllowed_iff.2 ⟨ha, hn⟩), hr]
  rfl

/-- R142: a burst reports the runs in their order of entry, whatever their order in the list. -/
theorem lossRecords_runs (m : Nat) (hp : (taken ++ rest).Perm s.ru.runs)
    (ho : (taken ++ rest).Pairwise fun a b => a.entered < b.entered) (ha : s.ru.abandoned = false)
    (hn : s.ru.nextSeq + taken.length ≤ Config.lastSequence + 1) :
    ∃ u, lossRecords (taken.length + m) s = lossRecords m u ∧ u.ru = burstIn s.ru taken ∧
      (LossRaised s ∨ taken ≠ [] → LossRaised u) := by
  induction taken generalizing s with
  | nil => exact ⟨s, by rw [List.length_nil, Nat.zero_add], (burstIn_nil _).symm, fun h => h.resolve_right (· rfl)⟩
  | cons run taken ih =>
    rw [List.length_cons] at hn ⊢
    have number : s.ru.nextSeq ≤ Config.lastSequence := by omega
    obtain ⟨_, erased⟩ := List.cons_perm_iff_perm_erase.1 hp
    obtain ⟨unit, raised⟩ := runReported_reports number run
    have numbers : s.ru.nextSeq + 1 + taken.length ≤ Config.lastSequence + 1 := by omega
    obtain ⟨u, later, hu, flagged⟩ := ih (s := runReported s run) (by rw [unit]; exact erased) (List.pairwise_cons.1 ho).2
      (by rw [unit]; exact ha) (by rw [unit]; exact numbers)
    refine ⟨u, ?_, ?_, fun _ => flagged (.inl raised)⟩
    · rw [Nat.add_right_comm, lossRecords_run _ (oldestRun_head hp ho) ha number, later]
    · rw [hu, unit, burstIn_cons]

theorem lossRecords_none (m : Nat) (hr : s.ru.runs = []) (hc : s.ru.scattered.count = 0) : lossRecords m s = s := by
  cases m with
  | zero => rfl
  | succ m =>
    rw [lossRecords, hr]
    dsimp only [oldestRun]
    rw [if_pos hc, ite_self]

/-- R142: the scattered entry is reported behind the runs. -/
theorem lossRecords_scattered (m : Nat) (hr : s.ru.runs = []) (hc : s.ru.scattered.count ≠ 0) (ha : s.ru.abandoned = false)
    (hn : s.ru.nextSeq ≤ Config.lastSequence) :
    lossRecords (m + 1) s = issueLoss (s.onRu fun r => { r with scattered := LossRun.empty }) s.ru.scattered := by
  rw [lossRecords, if_pos (lossTestAllowed_iff.2 ⟨ha, hn⟩), hr]
  exact if_neg hc

/-- R141: the entries of the loss tally with these runs: the runs and, where it holds something, the scattered entry. -/
def lossEntries (aged : List LossRun) (scattered : LossRun) : List LossRun :=
  aged ++ if scattered.count = 0 then [] else [scattered]

/-- Runs with places of their own in the order of entry leave the tally just when they have been reported. -/
theorem diff_reported (hp : aged.Perm runs) (ho : aged.Pairwise fun a b => a.entered < b.entered) :
    runs.diff taken = runs.filter fun x => decide (x ∉ taken) :=
  (hp.nodup_iff.1 (nodup_of_entered ho)).sdiff_eq_filter

/-- R142: a burst with room for every entry reports them all. -/
theorem lossRecords_all (hp : aged.Perm s.ru.runs) (ho : aged.Pairwise fun a b => a.entered < b.entered)
    (ha : s.ru.abandoned = false) {n : Nat} (hl : (lossEntries aged s.ru.scattered).length ≤ n)
    (hn : s.ru.nextSeq + (lossEntries aged s.ru.scattered).length ≤ Config.lastSequence + 1) :
    (lossRecords n s).ru =
        { reportedIn s.ru (lossEntries aged s.ru.scattered) with
          runs := []
          scattered := if s.ru.scattered.count = 0 then s.ru.scattered else LossRun.empty } ∧
      (lossEntries aged s.ru.scattered ≠ [] → LossRaised (lossRecords n s)) := by
  have none_left : s.ru.runs.diff aged = [] := by
    rw [diff_reported hp ho, List.filter_eq_nil_iff]
    exact fun x hx => by simpa using hp.symm.subset hx
  have burst := fun (m : Nat) (h : s.ru.nextSeq + aged.length ≤ Config.lastSequence + 1) =>
    lossRecords_runs (taken := aged) (rest := []) m (by rwa [List.append_nil]) (by rwa [List.append_nil]) ha h
  unfold lossEntries at *
  by_cases hc : s.ru.scattered.count = 0
  · simp only [if_pos hc, List.append_nil] at *
    obtain ⟨m, rfl⟩ := Nat.exists_eq_add_of_le hl
    obtain ⟨u, reported, unit, raised⟩ := burst m hn
    rw [reported, lossRecords_none m (by rw [unit]; exact none_left) (by rw [unit]; exact hc), unit]
    exact ⟨by rw [burstIn, none_left]; rfl, fun h => raised (.inr h)⟩
  · simp only [if_neg hc, List.length_append, List.length_singleton] at *
    obtain ⟨m, rfl⟩ := Nat.exists_eq_add_of_le hl
    obtain ⟨u, reported, unit, _⟩ := burst (m + 1) (by omega)
    have number : u.ru.nextSeq ≤ Config.lastSequence := by
      rw [unit]
      exact Nat.le_of_succ_le_succ hn
    obtain ⟨last, raised⟩ := issueLoss_reports (s := u.onRu fun r => { r with scattered := LossRun.empty }) number
      u.ru.scattered
    rw [Nat.add_right_comm, Nat.add_assoc, reported, lossRecords_scattered m (by rw [unit]; exact none_left)
      (by rw [unit]; exact hc) (by rw [unit]; exact ha) number, last, reportedIn_append]
    refine ⟨?_, fun _ => raised⟩
    rw [State.onRu_ru, unit, burstIn, none_left]
    rfl

/-! ## The test (R142) -/

theorem closeTally_closes (hr : s.ru.runs = []) (hc : s.ru.scattered.count = 0) :
    closeTally s = { s with ru := { s.ru with tallyOpen := false } } := by
  unfold closeTally
  rw [hr, hc]
  rfl

theorem closeTally_open (hr : s.ru.runs ≠ []) : closeTally s = s := by
  refine if_neg ?_
  simp [hr]

/-- R142: the test is passed. -/
theorem lossTest_iff {r : RecordUnit} :
    (r.tallyOpen && lossTestAllowed r && decide (Config.lossBurst ≤ freeSlots r)) = true ↔
      r.tallyOpen = true ∧ slotsOf r.queue ≤ 56 ∧ r.abandoned = false ∧ r.nextSeq ≤ 4294967295 := by
  have room : Config.lossBurst ≤ freeSlots r ↔ slotsOf r.queue ≤ 56 := by
    unfold freeSlots Config.lossBurst Config.holdingSlots
    omega
  rw [Bool.and_eq_true, Bool.and_eq_true, decide_eq_true_eq, lossTestAllowed_iff, room]
  exact ⟨fun ⟨⟨ho, ha, hn⟩, hs⟩ => ⟨ho, hs, ha, hn⟩, fun ⟨ho, hs, ha, hn⟩ => ⟨⟨ho, ha, hn⟩, hs⟩⟩

theorem closeLoss_failed (n : Nat)
    (h : s.ru.tallyOpen = false ∨ 56 < slotsOf s.ru.queue ∨ s.ru.abandoned = true ∨ 4294967295 < s.ru.nextSeq) :
    closeLoss n s = s := by
  cases n with
  | zero => rfl
  | succ n =>
    refine if_neg fun passed => ?_
    obtain ⟨ho, hs, ha, hn⟩ := lossTest_iff.1 passed
    rcases h with closed | full | given | past
    · exact Bool.false_ne_true (closed.symm.trans ho)
    · exact absurd hs (Nat.not_le.2 full)
    · exact Bool.false_ne_true (ha.symm.trans given)
    · exact absurd hn (Nat.not_le.2 past)

theorem closeLoss_passed (n : Nat) (ho : s.ru.tallyOpen = true) (hs : slotsOf s.ru.queue ≤ 56) (ha : s.ru.abandoned = false)
    (hn : s.ru.nextSeq ≤ 4294967295) :
    closeLoss (n + 1) s = closeLoss n (closeTally (lossRecords Config.lossBurst s)) :=
  if_pos (lossTest_iff.2 ⟨ho, hs, ha, hn⟩)

/-- R142: with the tally closed nothing happens. -/
theorem testLoss_closed (h : s.ru.tallyOpen = false) : testLoss s = s := closeLoss_failed 9 (.inl h)

/-- R142: up to eight entries are all reported, and the tally closes. -/
theorem testLoss_closes (hp : aged.Perm s.ru.runs) (ho : aged.Pairwise fun a b => a.entered < b.entered)
    (hopen : s.ru.tallyOpen = true) (hs : slotsOf s.ru.queue ≤ 56) (ha : s.ru.abandoned = false)
    (hn : s.ru.nextSeq ≤ 4294967295) (hl : (lossEntries aged s.ru.scattered).length ≤ 8)
    (hroom : s.ru.nextSeq + (lossEntries aged s.ru.scattered).length ≤ 4294967296) :
    (testLoss s).ru =
        { reportedIn s.ru (lossEntries aged s.ru.scattered) with
          runs := []
          scattered := if s.ru.scattered.count = 0 then s.ru.scattered else LossRun.empty
          tallyOpen := false } ∧
      (lossEntries aged s.ru.scattered ≠ [] → LossRaised (testLoss s)) := by
  obtain ⟨unit, raised⟩ := lossRecords_all (n := Config.lossBurst) hp ho ha hl hroom
  have reported : (lossRecords Config.lossBurst s).ru.scattered.count = 0 := by
    rw [unit]
    dsimp only
    split
    · assumption
    · rfl
  have whole : testLoss s = _ := (closeLoss_passed 8 hopen hs ha hn).trans
    ((congrArg (closeLoss 8) (closeTally_closes (congrArg RecordUnit.runs unit) reported)).trans
      (closeLoss_failed 8 (.inl rfl)))
  rw [whole]
  exact ⟨by rw [unit], raised⟩

/-- R142: of more runs the eight oldest are reported, and without room for eight more the tally stays open. -/
theorem testLoss_first_eight (hp : aged.Perm s.ru.runs) (ho : aged.Pairwise fun a b => a.entered < b.entered)
    (hopen : s.ru.tallyOpen = true) (hs : slotsOf s.ru.queue ≤ 56) (ha : s.ru.abandoned = false)
    (hn : s.ru.nextSeq ≤ 4294967295) (hl : 8 < aged.length) (hfull : 48 < slotsOf s.ru.queue)
    (hroom : s.ru.nextSeq + 8 ≤ 4294967296) :
    (testLoss s).ru =
        { reportedIn s.ru (aged.take 8) with runs := s.ru.runs.filter fun x => decide (x ∉ aged.take 8) } ∧
      LossRaised (testLoss s) := by
  have eight : (aged.take 8).length = 8 := List.length_take_of_le hl.le
  obtain ⟨u, burst, unit, raised⟩ := lossRecords_runs (s := s) (taken := aged.take 8) (rest := aged.drop 8) 0
    (by rwa [List.take_append_drop]) (by rwa [List.take_append_drop]) ha (by rw [eight]; exact hroom)
  rw [eight] at burst
  have left : u.ru.runs ≠ [] := fun none_left => by
    have all : aged ⊆ aged.take 8 := fun x hx => by
      by_contra younger
      have stays : x ∈ s.ru.runs.diff (aged.take 8) := by
        rw [diff_reported hp ho]
        exact List.mem_filter.2 ⟨hp.subset hx, decide_eq_true younger⟩
      rw [show s.ru.runs.diff (aged.take 8) = [] from (congrArg RecordUnit.runs unit).symm.trans none_left] at stays
      cases stays
    have short := ((nodup_of_entered ho).subperm all).length_le
    omega
  have full : 56 < slotsOf u.ru.queue := by
    rw [unit]
    show 56 < slotsOf (s.ru.queue ++ lossReport s.ru.nextSeq (aged.take 8))
    rw [slotsOf_append, slotsOf_lossReport, eight]
    omega
  have whole : testLoss s = u := (closeLoss_passed 8 hopen hs ha hn).trans
    ((congrArg (closeLoss 8 ∘ closeTally) burst).trans
      ((congrArg (closeLoss 8) (closeTally_open left)).trans (closeLoss_failed 8 (.inr (.inl full)))))
  rw [whole, unit, burstIn, diff_reported hp ho]
  exact ⟨rfl, raised (.inr (List.ne_nil_of_length_eq_add_one eight))⟩

/-- Settles O52: the test that fails, and the burst of all entries or of the eight oldest. -/
theorem lossTallyCloses : Obligations.LossTallyCloses := by
  intro s aged hp ho r scattered entries reported t
  refine ⟨testLoss_reporting s, closeLoss_failed 9, fun hopen hs ha hn => ⟨fun hl hroom => ?_, fun hl hfull hroom => ?_⟩⟩
  · exact testLoss_closes hp ho hopen hs ha hn hl hroom
  · obtain ⟨unit, raised⟩ := testLoss_first_eight hp ho hopen hs ha hn hl hfull hroom
    have eight : (aged.take 8).length = 8 := List.length_take_of_le hl.le
    refine ⟨unit.trans ?_, raised⟩
    rw [reportedIn, eight]
    rfl

end Sys2Proof.Machine
end

section
/-! SUPPORT. The holding queue drains into a page, and a page fails: what taking and losing records leaves of the pages, what of the
records is still to be drained, and what close-out makes of it. -/

namespace Sys2Proof.Machine

variable {s t u v : State} {page : Page} {x : Record} {rest : List Record}

/-! ## What records taken and lost leave alone -/

/-- The pages, the stock cursor, the abandon mark and the Mark Unit are unchanged. -/
structure PagesStand (s t : State) : Prop where
  exchange  : SameExchange s.xu t.xu
  abandoned : t.ru.abandoned = s.ru.abandoned
  ku        : t.ku = s.ku

theorem PagesStand.refl (s : State) : PagesStand s s := ⟨.refl _, rfl, rfl⟩

theorem PagesStand.trans (h : PagesStand s t) (k : PagesStand t u) : PagesStand s u :=
  ⟨h.exchange.trans k.exchange, k.abandoned.trans h.abandoned, k.ku.trans h.ku⟩

theorem OnlyExchange.pagesStand (h : OnlyExchange s t) : PagesStand s t := by
  obtain ⟨xu, out, rfl, same⟩ := h
  exact ⟨same, rfl, rfl⟩

theorem onRu_pages (s : State) (g : RecordUnit → RecordUnit) (hg : (g s.ru).abandoned = s.ru.abandoned) :
    PagesStand s (s.onRu g) := ⟨.refl _, hg, rfl⟩

theorem onCu_pages (s : State) (g : ControlUnit → ControlUnit) : PagesStand s (s.onCu g) := ⟨.refl _, rfl, rfl⟩

theorem captureFault_pages (s : State) (code : FaultCode) : PagesStand s (captureFault s code) :=
  (onCu_pages s _).trans (raise_exchange _ _).pagesStand

theorem joinLoss_abandoned (r : RecordUnit) (seq : Nat) (h : Int) (body : RecordBody) :
    (joinLoss r seq h body).abandoned = r.abandoned := by
  unfold joinLoss
  repeat' first | rfl | split

theorem loseRecord_pages (s : State) (entry : Record) : PagesStand s (loseRecord s entry) :=
  onRu_pages s _ (joinLoss_abandoned _ _ _ _)

theorem loseRecords_pages (s : State) (records : List Record) : PagesStand s (loseRecords s records) := by
  induction records generalizing s with
  | nil => exact .refl s
  | cons entry later ih => exact (loseRecord_pages s entry).trans (ih _)

theorem numberGiven_pages (s : State) : PagesStand s (numberGiven s) := ⟨.refl _, rfl, rfl⟩

theorem placedIn_abandoned (r : RecordUnit) (seq : Nat) (h : Int) (mark : MarkState) (body : RecordBody) :
    (placedIn r seq h mark body).abandoned = r.abandoned := by
  unfold placedIn
  split
  · rfl
  · exact joinLoss_abandoned _ _ _ _

theorem recordPlaced_pages (s : State) (body : RecordBody) : PagesStand s (recordPlaced s body) := by
  unfold recordPlaced
  split
  · exact ⟨.refl _, placedIn_abandoned _ _ _ _ _, rfl⟩
  · exact ⟨.refl _, rfl, rfl⟩

theorem countRecord_pages (s : State) (body : RecordBody) : PagesStand s (countRecord s body) := by
  cases body
  case fault code subject first last count => exact captureFault_pages s code
  all_goals exact ⟨.refl _, rfl, rfl⟩

theorem issue_pages (s : State) (body : RecordBody) : PagesStand s (issue s body) := by
  rw [issue_eq]
  exact (recordPlaced_pages s body).trans (countRecord_pages _ body)

theorem issueLoss_pages (s : State) (run : LossRun) : PagesStand s (issueLoss s run) := by
  unfold issueLoss
  by_cases hn : s.ru.nextSeq ≤ Config.lastSequence
  · rw [takeNumber_given hn]
    exact (numberGiven_pages s).trans ((onRu_pages _ _ rfl).trans (raise_exchange _ _).pagesStand)
  · rw [takeNumber_past (Nat.not_le.1 hn)]
    exact .refl s

theorem lossRecords_pages (n : Nat) (s : State) : PagesStand s (lossRecords n s) := by
  induction n generalizing s with
  | zero => exact .refl s
  | succ n ih =>
    unfold lossRecords
    split
    · split
      · exact (onRu_pages s _ rfl).trans ((issueLoss_pages _ _).trans (ih _))
      · split
        · exact .refl s
        · exact (onRu_pages s _ rfl).trans (issueLoss_pages _ _)
    · exact .refl s

theorem closeTally_pages (s : State) : PagesStand s (closeTally s) := by
  unfold closeTally
  split
  · exact onRu_pages s _ rfl
  · exact .refl s

theorem closeLoss_pages (n : Nat) (s : State) : PagesStand s (closeLoss n s) := by
  induction n generalizing s with
  | zero => exact .refl s
  | succ n ih =>
    unfold closeLoss
    split
    · exact (lossRecords_pages _ s).trans ((closeTally_pages _).trans (ih _))
    · exact .refl s

theorem testLoss_pages (s : State) : PagesStand s (testLoss s) := closeLoss_pages 9 s

theorem loseRecords_reporting (s : State) (records : List Record) : OnlyReporting s (loseRecords s records) :=
  foldl_reporting loseRecord (fun u _ => onRu_reporting u _) records s

theorem abandonPage_reporting (s : State) (records : List Record) : OnlyReporting s (abandonPage s records) := by
  have tested := (loseRecords_reporting s records).trans (testLoss_reporting _)
  unfold abandonPage
  dsimp only
  split
  · exact tested.trans (captureFault_reporting _ _)
  · exact tested.trans (issueFault_reporting _ _ _ _ _ _)

theorem abandonPage_pages (s : State) (records : List Record) : PagesStand s (abandonPage s records) := by
  have tested := (loseRecords_pages s records).trans (testLoss_pages _)
  unfold abandonPage
  dsimp only
  split
  · exact tested.trans (captureFault_pages _ _)
  · exact tested.trans (issue_pages _ _)

/-! ## Records still to be drained (R141, R142, R165) -/

/-- R165: something waits to be drained: a record in the queue, or an entry of the open loss tally. -/
def Backlog (r : RecordUnit) : Prop :=
  r.queue ≠ [] ∨ r.tallyOpen = true ∧ (r.runs ≠ [] ∨ r.scattered.count ≠ 0)

theorem insertBy_ne_nil {α : Type} (after : α → α → Bool) (y : α) (ys : List α) : insertBy after y ys ≠ [] := by
  cases ys with
  | nil => exact nofun
  | cons z zs =>
    unfold insertBy
    split <;> exact nofun

theorem extendRun_ne_nil {seq : Nat} {h : Int} {body : RecordBody} {runs longer : List LossRun}
    (e : extendRun seq h body runs = some longer) : longer ≠ [] := by
  rintro rfl
  have same := congrArg List.length (extendRun_map e)
  cases runs with
  | nil => cases e
  | cons run later => simp at same

theorem bump32_ne_zero (n : Nat) : bump32 n ≠ 0 := by
  unfold bump32 satAdd max32
  omega

/-- R141: a lost record stands in the tally. -/
theorem joinLoss_backlog (r : RecordUnit) (seq : Nat) (h : Int) (body : RecordBody) : Backlog (joinLoss r seq h body) := by
  unfold joinLoss
  split
  · next e => exact .inr ⟨rfl, .inl (extendRun_ne_nil e)⟩
  · split
    · exact .inr ⟨rfl, .inl (insertBy_ne_nil _ _ _)⟩
    · exact .inr ⟨rfl, .inr (bump32_ne_zero _)⟩

theorem placedIn_backlog (r : RecordUnit) (seq : Nat) (h : Int) (mark : MarkState) (body : RecordBody) :
    Backlog (placedIn r seq h mark body) := by
  unfold placedIn
  split
  · exact .inl (List.append_ne_nil_of_right_ne_nil _ nofun)
  · exact joinLoss_backlog r seq h body

theorem countedIn_backlog {r : RecordUnit} (h : Backlog r) (body : RecordBody) : Backlog (countedIn body r) := by
  cases body <;> exact h

theorem issue_backlog (h : Backlog s.ru) (body : RecordBody) : Backlog (issue s body).ru := by
  by_cases hn : s.ru.nextSeq ≤ Config.lastSequence
  · rw [issue_ru_numbered hn]
    exact countedIn_backlog (placedIn_backlog _ _ _ _ _) body
  · rw [issue_ru_past (Nat.not_le.1 hn)]
    exact countedIn_backlog (r := { s.ru with lostTotal := bump32 s.ru.lostTotal }) h body

theorem loseRecords_backlog (s : State) {records : List Record} (hr : records ≠ []) : Backlog (loseRecords s records).ru := by
  obtain ⟨earlier, last, rfl⟩ := List.eq_nil_or_concat records |>.resolve_left hr
  unfold loseRecords
  rw [List.concat_eq_append, List.foldl_append]
  exact joinLoss_backlog _ _ _ _

/-- R142: a LOSS record finds its place behind those that wait. -/
theorem issueLoss_queue (h : t.ru.queue = s.ru.queue) (run : LossRun) : s.ru.queue <+: (issueLoss t run).ru.queue := by
  rw [← h]
  by_cases hn : t.ru.nextSeq ≤ Config.lastSequence
  · rw [(issueLoss_reports hn run).1]
    exact ⟨_, rfl⟩
  · unfold issueLoss
    rw [takeNumber_past (Nat.not_le.1 hn)]

theorem lossRecords_queue (n : Nat) (s : State) : s.ru.queue <+: (lossRecords n s).ru.queue := by
  induction n generalizing s with
  | zero => exact ⟨[], List.append_nil _⟩
  | succ n ih =>
    unfold lossRecords
    split
    · split
      · exact (issueLoss_queue (by rfl) _).trans (ih _)
      · split
        · exact ⟨[], List.append_nil _⟩
        · exact issueLoss_queue (by rfl) _
    · exact ⟨[], List.append_nil _⟩

theorem issueLoss_queued (hn : s.ru.nextSeq ≤ Config.lastSequence) (run : LossRun) : (issueLoss s run).ru.queue ≠ [] := by
  rw [(issueLoss_reports hn run).1]
  exact List.append_ne_nil_of_right_ne_nil _ nofun

/-- R142: a burst that may be made leaves records in the queue where something waited. -/
theorem lossRecords_queued (n : Nat) (ht : lossTestAllowed s.ru = true) (hb : Backlog s.ru) :
    (lossRecords (n + 1) s).ru.queue ≠ [] := by
  have room := (lossTestAllowed_iff.1 ht).2
  rcases hb with waiting | ⟨_, entries⟩
  · exact (lossRecords_queue _ s).ne_nil waiting
  · rw [lossRecords, if_pos ht]
    split
    · exact (lossRecords_queue _ _).ne_nil (issueLoss_queued (by exact room) _)
    · next none_left =>
      have scattered := entries.resolve_left (not_not.2 (oldestRun_nil_iff.1 none_left))
      rw [if_neg scattered]
      exact issueLoss_queued (by exact room) _

theorem closeTally_queue (s : State) : (closeTally s).ru.queue = s.ru.queue := by
  unfold closeTally
  split <;> rfl

/-- R142: what waits to be drained still waits after the loss test. -/
theorem closeLoss_backlog (n : Nat) (hb : Backlog s.ru) : Backlog (closeLoss n s).ru := by
  induction n generalizing s with
  | zero => exact hb
  | succ n ih =>
    unfold closeLoss
    split
    · next passed =>
      obtain ⟨_, _, ha, hn⟩ := lossTest_iff.1 passed
      refine ih (.inl ?_)
      rw [closeTally_queue]
      exact lossRecords_queued 7 (lossTestAllowed_iff.2 ⟨ha, hn⟩) hb
    · exact hb

/-- R144: the records of an abandoned page wait to be reported as lost. -/
theorem abandonPage_backlog (s : State) {records : List Record} (hr : records ≠ []) : Backlog (abandonPage s records).ru := by
  have tested : Backlog (testLoss (loseRecords s records)).ru := closeLoss_backlog 9 (loseRecords_backlog s hr)
  unfold abandonPage
  dsimp only
  split
  · rw [captureFault_eq]
    exact tested
  · exact issue_backlog tested _

theorem drained_false (hb : Backlog s.ru) (ha : s.ru.abandoned = false) : drained s = false := by
  unfold drained
  rw [ha]
  rcases hb with waiting | ⟨opened, _⟩
  · simp [waiting]
  · simp [opened]

/-! ## Step 7 of close-out (R165, R170) -/

theorem closeoutCheck_outside (h : s.cu.state ≠ .closing ∨ s.cu.phase ≠ .drain) : closeoutCheck s = s := by
  refine if_neg fun ⟨state, phase, _⟩ => ?_
  rcases h with h | h
  · exact h state
  · exact h phase

theorem closeoutCheck_undrained (h : drained s = false) : closeoutCheck s = s :=
  if_neg fun ⟨_, _, _, d⟩ => Bool.false_ne_true (h.symm.trans d)

theorem endCloseout_eq (s : State) : endCloseout s = closeoutEnded s := by
  unfold endCloseout closeoutEnded
  cases he : s.xu.enable <;> rfl

/-- R165: with no page in hand that holds records close-out ends. -/
theorem closeoutCheck_ends (hs : s.cu.state = .closing) (hp : s.cu.phase = .drain) (hx : s.xu.posting = none)
    (hd : drained s = true) (hf : ∀ page ∈ s.xu.filling, page.records = []) : closeoutCheck s = closeoutEnded s := by
  have bare : (s.xu.filling.any fun page => !page.records.isEmpty) = false := by
    cases h : s.xu.filling with
    | none => rfl
    | some page => simp [hf page h]
  unfold closeoutCheck
  rw [if_pos ⟨hs, hp, by rw [hx]; rfl, hd⟩, bare, if_neg Bool.false_ne_true, endCloseout_eq]

/-- R165, R170: a page that holds records is the final one. -/
theorem closeoutCheck_posts (hs : s.cu.state = .closing) (hp : s.cu.phase = .drain) (hx : s.xu.posting = none)
    (hd : drained s = true) (hf : s.xu.filling = some page) (hr : page.records ≠ []) :
    closeoutCheck s = (postBegun s page (finalReason s)).onCu fun c => { c with phase := .final } := by
  unfold closeoutCheck
  rw [if_pos ⟨hs, hp, by rw [hx]; rfl, hd⟩, hf, Option.any_some, if_pos (by simpa using hr), beginPost_records _ hf hr]

/-! ## A drain (R139, R185) -/

theorem postWhenFull_waits (hf : s.xu.filling = some page) (hu : page.used < Config.pageSlots) : postWhenFull s = s := by
  unfold postWhenFull
  rw [hf]
  exact if_neg (Nat.not_le.2 hu)

theorem postWhenFull_posts (hf : s.xu.filling = some page) (hu : page.used = Config.pageSlots) (hr : page.records ≠ []) :
    postWhenFull s = postBegun s page .full := by
  unfold postWhenFull
  rw [hf]
  exact (if_pos hu.ge).trans (beginPost_records .full hf hr)

theorem drainQueue_eq (hf : s.xu.filling = some page) (hq : s.ru.queue = x :: rest) :
    drainQueue s = closeoutCheck (drainInto s page x rest) := by
  unfold drainQueue
  rw [hf, hq]

theorem drainQueue_nothing (h : s.xu.filling = none ∨ s.ru.queue = []) : drainQueue s = s := by
  unfold drainQueue
  rcases h with h | h
  · rw [h]
  · rw [h]
    cases s.xu.filling <;> rfl

theorem drainInto_writes (h : page.used + x.body.slots ≤ Config.pageSlots) :
    drainInto s page x rest = postWhenFull (testLoss (writeRecord s page x rest)) := if_pos h

theorem drainInto_noRoom (hf : s.xu.filling = some page) (h : Config.pageSlots < page.used + x.body.slots)
    (hr : page.records ≠ []) : drainInto s page x rest = postBegun s page .full :=
  (if_neg (Nat.not_le.2 h)).trans (beginPost_records .full hf hr)

/-- Where close-out stands is left as it is by the loss test. -/
theorem testLoss_outside (h : s.cu.state ≠ .closing ∨ s.cu.phase ≠ .drain) :
    (testLoss s).cu.state ≠ .closing ∨ (testLoss s).cu.phase ≠ .drain := by
  have tested : Aside s (testLoss s) := closeLoss_aside 9 (Aside.refl s)
  rw [tested.state, tested.phase]
  exact h

/-- Settles O32: along the branches of a drain, then of step 7. -/
theorem holdingQueueDrains : Obligations.HoldingQueueDrains := by
  intro s hq
  refine ⟨?_, fun h => exec_onlyStatus rfl (drainQueue_nothing h) hq.1⟩
  intro page x rest hf hx page1 u outside
  have drains := drainQueue_eq hf hx
  have held : page1.records ≠ [] := List.append_ne_nil_of_right_ne_nil _ nofun
  have filled : (testLoss u).xu.filling = some page1 := (testLoss_pages u).exchange.filling
  have waits : page.used + x.body.slots < Config.pageSlots → drainInto s page x rest = testLoss u := fun h =>
    (drainInto_writes h.le).trans (postWhenFull_waits filled h)
  have posts : page.used + x.body.slots = Config.pageSlots → drainInto s page x rest = postBegun (testLoss u) page1 .full :=
    fun h => (drainInto_writes h.le).trans (postWhenFull_posts filled h held)
  have closed : s.ru.tallyOpen = false → testLoss u = u := fun h => testLoss_closed h
  refine ⟨fun out ht h => ?_, fun out ht h => ?_, fun out h hr => ?_, fun out ht h hl => ?_, fun out ht h hl => ?_,
    fun hs hp ha hn hrest ht h => ?_⟩
  · refine exec_onlyStatus rfl (drains.trans ?_) hq.1
    rw [waits h, closed ht]
    exact closeoutCheck_outside out
  · refine exec_onlyStatus rfl (drains.trans ?_) hq.1
    rw [posts h, closed ht]
    exact closeoutCheck_outside out
  · refine exec_onlyStatus rfl (drains.trans ?_) hq.1
    rw [drainInto_noRoom hf h hr]
    exact closeoutCheck_outside out
  · refine exec_onlyStatus rfl (drains.trans ?_) hl
    rw [waits h]
    exact closeoutCheck_outside (testLoss_outside (s := u) out)
  · refine exec_onlyStatus rfl (drains.trans ?_) hl
    rw [posts h]
    exact closeoutCheck_outside (testLoss_outside (s := u) out)
  · have emptied : drained u = true := by
      unfold drained
      simp [u, hrest, ht]
    have reason : finalReason u = if s.cu.endReason = some .halt then .halt else .rollEnd := by
      unfold finalReason
      simp [u, ha]
    refine exec_onlyStatus rfl (drains.trans ?_) hq.1
    rw [waits h, closed ht, closeoutCheck_posts (s := u) hs hp hn emptied rfl held, reason]
    rfl

end Sys2Proof.Machine
end

section
/-! SUPPORT. A page fails: its records are lost and reported, close-out is judged anew, and what the rest of the step leaves of the
failure. -/

namespace Sys2Proof.Machine

variable {s t u : State} {p : Posting} {page : Page}

/-! ## The failure, and close-out after it (R144, R165, R188) -/

theorem failPage_posting (hp : s.xu.posting = some p) : failPage s = failPost s p := by
  unfold failPage
  rw [hp]

theorem failPage_filling (hn : s.xu.posting = none) (hf : s.xu.filling = some page) (hr : page.records ≠ []) :
    failPage s = failFilling s page := by
  unfold failPage
  rw [hn, hf]
  exact if_neg (by simpa using hr)

theorem failPage_empty (hn : s.xu.posting = none) (hf : s.xu.filling = some page) (hr : page.records = []) :
    failPage s = s := by
  unfold failPage
  rw [hn, hf]
  exact if_pos (by simpa using hr)

theorem failPage_none (hn : s.xu.posting = none) (hf : s.xu.filling = none) : failPage s = s := by
  unfold failPage
  rw [hn, hf]

/-- R188: the records of the post in progress have been given up, and the status block write has been asked for. -/
def postAbandoned (s : State) (p : Posting) : State :=
  wantStatus (abandonPage (s.onXu fun x => { x with posting := none }) p.page.records) Owed.none

theorem failPost_eq (s : State) (p : Posting) : failPost s p = afterPost (postAbandoned s p) false := rfl

/-- R165: but for a final post, what a failed post means to close-out is what step 7 makes of it. -/
theorem afterPost_drains (written : Bool) (h : s.cu.phase ≠ .final) : afterPost s written = closeoutCheck s := if_neg h

theorem afterPost_ends (h : s.cu.phase = .final) (ha : s.ru.abandoned = true) : afterPost s false = closeoutEnded s := by
  unfold afterPost
  rw [if_pos h, ha]
  exact endCloseout_eq s

theorem afterPost_returns (h : s.cu.phase = .final) (ha : s.ru.abandoned = false) :
    afterPost s false = closeoutCheck (s.onCu fun c => { c with phase := .drain }) := by
  unfold afterPost
  rw [if_pos h, ha]
  rfl

/-- R144: where close-out stands, and the page in hand, are left as they are by an abandoned page. -/
theorem abandonPage_stands (s : State) (records : List Record) :
    (abandonPage s records).cu.state = s.cu.state ∧ (abandonPage s records).cu.phase = s.cu.phase ∧
      (abandonPage s records).ru.abandoned = s.ru.abandoned ∧ (abandonPage s records).xu.posting = s.xu.posting ∧
      (abandonPage s records).xu.filling = s.xu.filling := by
  have aside := abandonPage_aside (Aside.refl s) records
  have pages := abandonPage_pages s records
  exact ⟨aside.state, aside.phase, pages.abandoned, pages.exchange.posting, pages.exchange.filling⟩

theorem postAbandoned_stands (s : State) (p : Posting) :
    (postAbandoned s p).cu.state = s.cu.state ∧ (postAbandoned s p).cu.phase = s.cu.phase ∧
      (postAbandoned s p).ru.abandoned = s.ru.abandoned ∧ (postAbandoned s p).xu.posting = none ∧
      (postAbandoned s p).xu.filling = s.xu.filling := by
  obtain ⟨state, phase, abandoned, posting, filling⟩ :=
    abandonPage_stands (s.onXu fun x => { x with posting := none }) p.page.records
  obtain ⟨xu, out, e, same⟩ := wantStatus_exchange
    (abandonPage (s.onXu fun x => { x with posting := none }) p.page.records) Owed.none
  unfold postAbandoned
  rw [e]
  exact ⟨state, phase, abandoned, same.posting.trans posting, same.filling.trans filling⟩

theorem postAbandoned_undrained (hr : p.page.records ≠ []) (ha : s.ru.abandoned = false) :
    drained (postAbandoned s p) = false := by
  have backlog := abandonPage_backlog (s.onXu fun x => { x with posting := none }) hr
  obtain ⟨_, _, abandoned, _, _⟩ := postAbandoned_stands s p
  refine drained_false ?_ (abandoned.trans ha)
  obtain ⟨xu, out, e, _⟩ := wantStatus_exchange
    (abandonPage (s.onXu fun x => { x with posting := none }) p.page.records) Owed.none
  unfold postAbandoned
  rw [e]
  exact backlog

theorem drained_abandoned (h : s.ru.abandoned = true) : drained s = true := by
  unfold drained
  rw [h]
  rfl

theorem closeoutEnded_limitEvent (s : State) : (closeoutEnded s).cu.limitEvent = s.cu.limitEvent := by
  unfold closeoutEnded
  rw [wantStatus_cu]

theorem closeoutEnded_reporting (s : State) : OnlyReporting s (closeoutEnded s) :=
  (OnlyReporting.refl s).trans (wantStatus_reporting _ _)

theorem closeoutCheck_reporting (s : State) : OnlyReporting s (closeoutCheck s) := by
  have posts : ∀ reason, OnlyReporting s (beginPost s reason) := fun reason => by
    unfold beginPost
    repeat' first | exact OnlyReporting.refl s | split
  unfold closeoutCheck
  split
  · split
    · exact (posts _).trans (onCu_reporting _ _)
    · rw [endCloseout_eq]
      exact closeoutEnded_reporting s
  · exact OnlyReporting.refl s

theorem afterPost_reporting (s : State) (written : Bool) : OnlyReporting s (afterPost s written) := by
  unfold afterPost
  split
  · split
    · rw [endCloseout_eq]
      exact closeoutEnded_reporting s
    · exact (onCu_reporting s _).trans (closeoutCheck_reporting _)
  · exact closeoutCheck_reporting s

theorem failPost_reporting (s : State) (p : Posting) : OnlyReporting s (failPost s p) :=
  (onXu_reporting s _).trans ((abandonPage_reporting _ _).trans ((wantStatus_reporting _ _).trans (afterPost_reporting _ _)))

/-! ## What the rest of the step leaves of the failure -/

/-- The pages, the fault capture, the Track Engine, the Spot Merger, the Pairing Unit and the Mark Unit are unchanged, and FAULT stays
raised where it was. -/
structure FailureStands (s t : State) : Prop where
  exchange : SameExchange s.xu t.xu
  capture  : t.cu.capture = s.cu.capture
  fault    : s.xu.flags.getLsbD 4 = true → t.xu.flags.getLsbD 4 = true
  defects  : SameDefects s t
  ku       : t.ku = s.ku

theorem FailureStands.refl (s : State) : FailureStands s s := ⟨.refl _, rfl, id, ⟨rfl, rfl, rfl⟩, rfl⟩

theorem FailureStands.trans (h : FailureStands s t) (k : FailureStands t u) : FailureStands s u := by
  obtain ⟨te, sm, pu⟩ := h.defects
  obtain ⟨te', sm', pu'⟩ := k.defects
  exact ⟨h.exchange.trans k.exchange, k.capture.trans h.capture, k.fault ∘ h.fault,
    ⟨te'.trans te, sm'.trans sm, pu'.trans pu⟩, k.ku.trans h.ku⟩

theorem setFlag_kept {flags : Byte} {i : Nat} (h : flags.getLsbD i = true) (cause : Cause) :
    (setFlag flags cause).getLsbD i = true := by
  unfold setFlag
  rw [BitVec.getLsbD_or, h, Bool.true_or]

theorem raise_flag {i : Nat} (h : s.xu.flags.getLsbD i = true) (cause : Cause) :
    (raise s cause).xu.flags.getLsbD i = true := by
  rw [raise_eq]
  exact setFlag_kept h cause

/-- R191: paying what a write owes clears no flag. -/
theorem payOwed_flag {i : Nat} (h : s.xu.flags.getLsbD i = true) (owed : Owed) :
    (payOwed s owed).xu.flags.getLsbD i = true := by
  have posted : (if owed.posted then raise s .posted else s).xu.flags.getLsbD i = true := by
    split
    · exact raise_flag h _
    · exact h
  unfold payOwed
  dsimp only
  split
  · exact raise_flag posted _
  · exact posted

theorem wantStatus_flag {i : Nat} (h : s.xu.flags.getLsbD i = true) (owed : Owed) :
    (wantStatus s owed).xu.flags.getLsbD i = true := by
  unfold wantStatus beginStatus
  split
  · exact h
  · split
    · exact payOwed_flag h owed
    · exact h

theorem wantStatus_failure (s : State) (owed : Owed) : FailureStands s (wantStatus s owed) := by
  have flag := fun h => wantStatus_flag (s := s) (i := 4) h owed
  obtain ⟨xu, out, e, same⟩ := wantStatus_exchange s owed
  rw [e] at flag ⊢
  exact ⟨same, rfl, flag, ⟨rfl, rfl, rfl⟩, rfl⟩

theorem onCu_failure (s : State) (g : ControlUnit → ControlUnit) (hg : (g s.cu).capture = s.cu.capture) :
    FailureStands s (s.onCu g) := ⟨.refl _, hg, id, ⟨rfl, rfl, rfl⟩, rfl⟩

theorem closeoutEnded_failure (s : State) : FailureStands s (closeoutEnded s) := by
  unfold closeoutEnded
  refine FailureStands.trans ?_ (wantStatus_failure _ _)
  cases s.xu.enable <;> exact { FailureStands.refl s with exchange := ⟨rfl, rfl, rfl, rfl, rfl, rfl, rfl, rfl, rfl, rfl⟩ }

/-- R165: with no page filling step 7 posts none. -/
theorem closeoutCheck_failure (hf : s.xu.filling = none) : FailureStands s (closeoutCheck s) := by
  unfold closeoutCheck
  split
  · rw [hf, Option.any_none, if_neg Bool.false_ne_true, endCloseout_eq]
    exact closeoutEnded_failure s
  · exact .refl s

theorem afterPost_failure (hf : s.xu.filling = none) : FailureStands s (afterPost s false) := by
  unfold afterPost
  split
  · split
    · rw [endCloseout_eq]
      exact closeoutEnded_failure s
    · exact (onCu_failure s _ rfl).trans (closeoutCheck_failure (by exact hf))
  · exact closeoutCheck_failure hf

/-! ## Lines assembled in CLOSING (R39, R163) -/

/-- The Link Unit alone has changed. -/
def OnlyLinks (s t : State) : Prop := ∃ lu, t = { s with lu := lu }

theorem OnlyLinks.refl (s : State) : OnlyLinks s s := ⟨s.lu, rfl⟩

theorem OnlyLinks.trans (h : OnlyLinks s t) (k : OnlyLinks t u) : OnlyLinks s u := by
  obtain ⟨lu, rfl⟩ := h
  obtain ⟨lu', rfl⟩ := k
  exact ⟨lu', rfl⟩

theorem OnlyLinks.inspecting (h : OnlyLinks s t) (hi : s.inspecting = false) : t.inspecting = false := by
  obtain ⟨lu, rfl⟩ := h
  exact hi

theorem OnlyLinks.failure (h : OnlyLinks s t) : FailureStands s t := by
  obtain ⟨lu, rfl⟩ := h
  exact { FailureStands.refl s with }

theorem onHead_links (s : State) (port : Port) (g : Head → Head) : OnlyLinks s (s.onHead port g) := ⟨_, rfl⟩

theorem leaveLive_links (s : State) (port : Port) : OnlyLinks s (leaveLive s port) := by
  unfold leaveLive
  split
  · exact ⟨_, rfl⟩
  · exact .refl s

/-- R39: out of RUNNING and STOPPING a head fails without a record. -/
theorem failHead_links (hi : s.inspecting = false) (port : Port) (desc : LineDesc) (limit : Nat) :
    OnlyLinks s (failHead s port desc limit) := by
  have left := (leaveLive_links s port).trans (onHead_links _ port fun h =>
    { h with link := .failed, recovering := false, failedLine := some { number := desc.number, stamp := desc.stamp } })
  unfold failHead
  dsimp only
  rw [if_neg (Bool.eq_false_iff.1 hi)]
  exact left

theorem countMiss_links (hi : s.inspecting = false) (port : Port) (desc : LineDesc) :
    OnlyLinks s (countMiss s port desc) := by
  unfold countMiss
  dsimp only
  split
  · exact onHead_links s port _
  · split
    · exact (onHead_links s port _).trans (failHead_links (by exact hi) _ _ _)
    · exact onHead_links s port _

theorem judgeHead_links (hi : s.inspecting = false) (desc : LineDesc) (port : Port) :
    OnlyLinks s (judgeHead desc s port) := by
  unfold judgeHead
  dsimp only
  split
  · exact onHead_links s port _
  · split
    · exact (onHead_links s port _).trans (countMiss_links (by exact hi) _ _)
    · exact onHead_links s port _

theorem foldl_links {α : Type} (g : State → α → State) (hg : ∀ u x, u.inspecting = false → OnlyLinks u (g u x))
    (l : List α) (hi : s.inspecting = false) : OnlyLinks s (l.foldl g s) := by
  induction l generalizing s with
  | nil => exact .refl s
  | cons x rest ih =>
    have first := hg s x hi
    exact first.trans (ih (first.inspecting hi))

theorem assembleLine_links (hi : s.inspecting = false) (f : Face) (line : OpenLine) : OnlyLinks s (assembleLine s f line) := by
  have built : OnlyLinks s (lineBuilt s f line) := ⟨_, rfl⟩
  have judged := foldl_links (judgeHead line.desc) (fun u p h => judgeHead_links h line.desc p) line.expected
    (built.inspecting hi)
  rw [assembleLine_eq]
  exact built.trans (judged.trans (foldl_links _ (fun u p _ => onHead_links u p _) _ (judged.inspecting (built.inspecting hi))))

theorem assembleAll_links (hi : s.inspecting = false) (f : Face) : OnlyLinks s (assembleAll s f) :=
  foldl_links _ (fun u _ h => by
    unfold assembleOldest
    split
    · exact .refl u
    · exact assembleLine_links h f _) _ hi

/-! ## The end of the step -/

/-- R163: with no skip stretch open, entry to CLOSING issues no record. -/
theorem enterClosing_failure (hk : ∀ f, (s.muFace f).skip = Tally.empty) (reason : EndReason) :
    FailureStands s (enterClosing s reason) := by
  unfold enterClosing
  dsimp only
  split
  · generalize hc : s.onCu (fun c => { c with state := .closing, endReason := some reason, phase := .waiting }) = closing
    have entered : FailureStands s closing := hc ▸ onCu_failure s _ rfl
    have skips : ∀ f, closeSkip closing f = closing := fun f => closeSkip_closed (hc ▸ hk f)
    have stopped : (discardBegun closing).inspecting = false := closing_inspecting (hc ▸ rfl)
    have upper := assembleAll_links stopped .upper
    have lower := assembleAll_links (upper.inspecting stopped) .lower
    have begun : FailureStands closing (discardBegun closing) := { FailureStands.refl closing with }
    have pending : ∀ u, FailureStands u (discardPending u) := fun u => { FailureStands.refl u with }
    rw [skips, skips]
    exact entered.trans (begun.trans ((upper.trans lower).failure.trans ((pending _).trans (wantStatus_failure _ _))))
  · exact .refl s

theorem settle_failure (before : State) (hk : ∀ f, (s.muFace f).skip = Tally.empty) : FailureStands s (settle before s) := by
  have limit : FailureStands s (takeLimit s) := by
    unfold takeLimit
    split
    · exact (enterClosing_failure hk _).trans (onCu_failure _ _ rfl)
    · exact .refl s
  have marked : ∀ u, FailureStands u (markChanged before u) := fun u => by
    obtain ⟨changed, e⟩ := markChanged_eq before u
    rw [e]
    exact { FailureStands.refl u with exchange := ⟨rfl, rfl, rfl, rfl, rfl, rfl, rfl, rfl, rfl, rfl⟩ }
  exact limit.trans (marked _)

/-- R146: an abandoned page is captured as PAGE_WRITE at the present H, and FAULT is raised. -/
theorem abandonPage_captures (s : State) (records : List Record) :
    (abandonPage s records).cu.capture = some { code := .pageWrite, stamp := s.mu.h } ∧
      (abandonPage s records).xu.flags.getLsbD 4 = true := by
  obtain ⟨_, _, _, ⟨mu, _, _⟩, _⟩ := (loseRecords_reporting s records).trans (testLoss_reporting _)
  have raised : ∀ u, (raise u .fault).xu.flags.getLsbD 4 = true := fun u => by
    rw [raise_eq]
    exact setFlag_raised _ .fault
  unfold abandonPage
  dsimp only
  split
  · rw [captureFault_eq, mu]
    exact ⟨rfl, raised _⟩
  · obtain ⟨xu, _, capture⟩ := issueFault_captures (testLoss (loseRecords s records)) .pageWrite .none s.mu.h s.mu.h
      records.length
    rw [xu, capture, mu]
    exact ⟨rfl, raised _⟩

/-- R188: what a failed post leaves once the step has ended, whatever close-out and the limit event make of it. -/
theorem settle_failPost (hx : PagesOk s.xu) (hk : ∀ f, (s.muFace f).skip = Tally.empty) (hp : s.xu.posting = some p) :
    let t := settle s (failPost s p)
    t.xu.posting = none ∧ t.xu.nextPage = s.xu.nextPage ∧ t.xu.lastPosted = s.xu.lastPosted ∧
      t.cu.capture = some { code := .pageWrite, stamp := s.mu.h } ∧ t.xu.flags.getLsbD 4 = true ∧ t.te = s.te ∧
      t.sm = s.sm ∧ t.pu = s.pu ∧ t.ku = s.ku := by
  intro t
  have empty : s.xu.filling = none := (hx.2 p hp).2
  obtain ⟨_, _, _, _, filling⟩ := postAbandoned_stands s p
  have pages := abandonPage_pages (s.onXu fun x => { x with posting := none }) p.page.records
  obtain ⟨_, _, _, ⟨mu, _, _⟩, ⟨te, sm, pu⟩, _⟩ := failPost_reporting s p
  obtain ⟨capture, flag⟩ := abandonPage_captures (s.onXu fun x => { x with posting := none }) p.page.records
  have closed := (wantStatus_failure _ Owed.none).trans (afterPost_failure (filling.trans empty))
  have skips : ∀ f, ((failPost s p).muFace f).skip = Tally.empty := fun f => by
    rw [State.muFace, mu]
    exact hk f
  have ended : FailureStands (failPost s p) t := settle_failure s skips
  have stands := closed.trans ended
  obtain ⟨te', sm', pu'⟩ := ended.defects
  exact ⟨stands.exchange.posting.trans pages.exchange.posting, stands.exchange.nextPage.trans pages.exchange.nextPage,
    stands.exchange.lastPosted.trans pages.exchange.lastPosted, stands.capture.trans capture, stands.fault flag,
    te'.trans te, sm'.trans sm, pu'.trans pu, stands.ku.trans pages.ku⟩

/-- Settles O35: the page that fails, then step 7 by the phase of close-out and the abandon mark; the end of the step. -/
theorem pageWriteFails : Obligations.PageWriteFails := by
  intro s hq faulted
  refine ⟨?posting, ?filling, fun hn hf => exec_onlyStatus rfl (failPage_none hn hf) hq.1, fun u x => rfl⟩
  case posting =>
    intro p hp u v drains
    have fails : failPage s = afterPost (postAbandoned s p) false := (failPage_posting hp).trans (failPost_eq s p)
    obtain ⟨state, phase, abandoned, posting, filling⟩ := postAbandoned_stands s p
    have quiet : u.cu.limitEvent = false → v.cu.limitEvent = false :=
      fun h => (congrArg ControlUnit.limitEvent (wantStatus_cu u Owed.none)).trans h
    refine ⟨fun hphase hd hl => ?_, fun ⟨hs, hphase⟩ ha hf hl => ?_, fun hphase ha hl => ?_, fun hphase ha hr hl => ?_,
      fun hx hk => ⟨_, rfl, ?_⟩⟩
    · refine exec_onlyStatus rfl (fails.trans ?_) (quiet hl)
      rw [afterPost_drains false (phase.trans_ne hphase)]
      rcases hd with outside | ⟨ha, hr⟩
      · refine closeoutCheck_outside ?_
        rw [state, phase]
        exact not_and_or.1 outside
      · exact closeoutCheck_undrained (postAbandoned_undrained hr ha)
    · refine exec_onlyStatus rfl (fails.trans ?_) ((closeoutEnded_limitEvent v).trans (quiet hl))
      have going : (postAbandoned s p).cu.phase ≠ .final := by
        rw [phase, hphase]
        exact nofun
      rw [afterPost_drains false going]
      exact closeoutCheck_ends (state.trans hs) (phase.trans hphase) posting (drained_abandoned (abandoned.trans ha))
        (by rw [filling, hf]; exact nofun)
    · exact exec_onlyStatus rfl (fails.trans (afterPost_ends (phase.trans hphase) (abandoned.trans ha)))
        ((closeoutEnded_limitEvent v).trans (quiet hl))
    · refine exec_onlyStatus rfl (fails.trans ?_) (quiet hl)
      rw [afterPost_returns (phase.trans hphase) (abandoned.trans ha)]
      exact closeoutCheck_undrained (postAbandoned_undrained hr ha)
    · have ended := settle_failPost hx hk hp
      rw [← failPage_posting hp] at ended
      exact ended
  case filling =>
    intro page hn hf u drains
    obtain ⟨state, phase, abandoned, posting, filling⟩ :=
      abandonPage_stands (s.onXu fun x => { x with filling := none }) page.records
    refine ⟨fun hr hd hl => ?_, fun hr ⟨hs, hphase⟩ ha hl => ?_,
      fun hr => exec_onlyStatus rfl (failPage_empty hn hf hr) hq.1⟩
    · refine exec_onlyStatus rfl ((failPage_filling hn hf hr).trans ?_) hl
      rcases hd with outside | ha
      · refine closeoutCheck_outside ?_
        rw [state, phase]
        exact not_and_or.1 outside
      · exact closeoutCheck_undrained (drained_false (abandonPage_backlog _ hr) (abandoned.trans ha))
    · refine exec_onlyStatus rfl ((failPage_filling hn hf hr).trans ?_) ((closeoutEnded_limitEvent u).trans hl)
      exact closeoutCheck_ends (state.trans hs) (phase.trans hphase) (posting.trans hn)
        (drained_abandoned (abandoned.trans ha)) (by rw [filling]; exact nofun)

end Sys2Proof.Machine
end

section
/-! SUPPORT. The bytes of records and of page headers: fields laid in their places, each of which stands at its offset, with 0 in every
byte that no field names. -/

namespace Sys2Proof.Machine

variable {bytes body : List Byte} {fields : List (Nat × List Byte)} {x : Record} {size n : Nat}

/-! ## Little-endian fields (R193) -/

theorem le16_eq (n : Nat) : le16 n = [BitVec.ofNat 8 (n / 256 ^ 0), BitVec.ofNat 8 (n / 256 ^ 1)] := by
  simp [le16]

theorem le24_eq (n : Nat) :
    le24 n = [BitVec.ofNat 8 (n / 256 ^ 0), BitVec.ofNat 8 (n / 256 ^ 1), BitVec.ofNat 8 (n / 256 ^ 2)] := by
  simp [le24, le16]

theorem le32_eq (n : Nat) :
    le32 n =
      [BitVec.ofNat 8 (n / 256 ^ 0), BitVec.ofNat 8 (n / 256 ^ 1), BitVec.ofNat 8 (n / 256 ^ 2),
        BitVec.ofNat 8 (n / 256 ^ 3)] := by
  simp [le32, le16, Nat.div_div_eq_div_mul]

theorem le64_eq (n : Nat) :
    le64 n =
      [BitVec.ofNat 8 (n / 256 ^ 0), BitVec.ofNat 8 (n / 256 ^ 1), BitVec.ofNat 8 (n / 256 ^ 2),
        BitVec.ofNat 8 (n / 256 ^ 3), BitVec.ofNat 8 (n / 256 ^ 4), BitVec.ofNat 8 (n / 256 ^ 5),
        BitVec.ofNat 8 (n / 256 ^ 6), BitVec.ofNat 8 (n / 256 ^ 7)] := by
  simp [le64, le32, le16, Nat.div_div_eq_div_mul]

theorem leInt16_eq (i : Int) : leInt16 i = le16 (i % 65536).toNat := by
  simp [leInt16, BitVec.toNat_ofInt]

theorem leInt32_eq (i : Int) : leInt32 i = le32 (i % 4294967296).toNat := by
  simp [leInt32, BitVec.toNat_ofInt]

@[simp] theorem le16_length (n : Nat) : (le16 n).length = 2 := rfl
@[simp] theorem le24_length (n : Nat) : (le24 n).length = 3 := rfl
@[simp] theorem le32_length (n : Nat) : (le32 n).length = 4 := rfl
@[simp] theorem le64_length (n : Nat) : (le64 n).length = 8 := rfl
@[simp] theorem leInt16_length (i : Int) : (leInt16 i).length = 2 := rfl
@[simp] theorem leInt32_length (i : Int) : (leInt32 i).length = 4 := rfl

/-! ## Fields in their places -/

/-- The bytes from offset `n` up to `size`: fields at their offsets, 0 between them and behind the last. -/
def laidFrom (size : Nat) : Nat → List (Nat × List Byte) → List Byte
  | n, [] => List.replicate (size - n) 0
  | n, f :: later => List.replicate (f.1 - n) 0 ++ f.2 ++ laidFrom size (f.1 + f.2.length) later

/-- The fields follow one another between offset `n` and `size`. -/
def InOrder (size : Nat) : Nat → List (Nat × List Byte) → Prop
  | n, [] => n ≤ size
  | n, f :: later => n ≤ f.1 ∧ InOrder size (f.1 + f.2.length) later

/-- A byte that no field names. -/
def Unnamed (fields : List (Nat × List Byte)) (j : Nat) : Prop := ∀ f ∈ fields, j < f.1 ∨ f.1 + f.2.length ≤ j

theorem InOrder.le (h : InOrder size n fields) : n ≤ size := by
  induction fields generalizing n with
  | nil => exact h
  | cons f later ih => exact h.1.trans ((Nat.le_add_right _ _).trans (ih h.2))

theorem laidFrom_length (h : InOrder size n fields) : (laidFrom size n fields).length = size - n := by
  induction fields generalizing n with
  | nil => exact List.length_replicate
  | cons f later ih =>
    obtain ⟨after, order⟩ := h
    have bound := order.le
    rw [laidFrom, List.length_append, List.length_append, List.length_replicate, ih order]
    omega

/-- Each field laid stands at its offset, whatever stands before and behind. -/
theorem laidFrom_field (h : InOrder size n fields) {before : List Byte} (hb : before.length = n) (behind : List Byte) :
    ∀ f ∈ fields, ((before ++ (laidFrom size n fields ++ behind)).drop f.1).take f.2.length = f.2 := by
  induction fields generalizing n before with
  | nil => exact nofun
  | cons f later ih =>
    obtain ⟨after, order⟩ := h
    have reached : (before ++ List.replicate (f.1 - n) 0).length = f.1 := by
      rw [List.length_append, List.length_replicate, hb]
      omega
    have split : before ++ (laidFrom size n (f :: later) ++ behind) =
        before ++ List.replicate (f.1 - n) 0 ++ (f.2 ++ (laidFrom size (f.1 + f.2.length) later ++ behind)) := by
      simp only [laidFrom, List.append_assoc]
    rw [split]
    refine List.forall_mem_cons.2 ⟨?_, ?_⟩
    · rw [List.drop_left' reached, List.take_left' rfl]
    · rw [← List.append_assoc]
      exact ih order (by rw [List.length_append, reached])

/-- A byte that no field names is 0. -/
theorem laidFrom_zero (h : InOrder size n fields) {j : Nat} (hn : n ≤ j) (hj : j < size) (hu : Unnamed fields j) :
    (laidFrom size n fields)[j - n]? = some 0 := by
  induction fields generalizing n with
  | nil => exact List.getElem?_replicate_of_lt (by omega)
  | cons f later ih =>
    obtain ⟨after, order⟩ := h
    rw [laidFrom]
    rcases hu f (List.mem_cons_self ..) with gap | behind
    · rw [List.append_assoc, List.getElem?_append_left (by rw [List.length_replicate]; omega)]
      exact List.getElem?_replicate_of_lt (by omega)
    · have length : (List.replicate (f.1 - n) (0 : Byte) ++ f.2).length = f.1 + f.2.length - n := by
        rw [List.length_append, List.length_replicate]
        omega
      rw [List.getElem?_append_right (by rw [length]; omega), length]
      have place : j - n - (f.1 + f.2.length - n) = j - (f.1 + f.2.length) := by omega
      rw [place]
      exact ih order behind fun g hg => hu g (List.mem_cons_of_mem _ hg)

/-! ## Slots (R132, R197) -/

/-- The fields stand at their offsets in a slot of a record, and every other byte of it is 0. -/
def FilledAt (bytes : List Byte) (slot : Nat) (fields : List (Nat × List Byte)) : Prop :=
  (∀ f ∈ fields, (bytes.drop (32 * slot + f.1)).take f.2.length = f.2) ∧
    ∀ j < 32, (∀ f ∈ fields, j < f.1 ∨ f.1 + f.2.length ≤ j) → bytes[32 * slot + j]? = some 0

theorem laid_filledAt (h : InOrder 32 0 fields) {before : List Byte} {slot : Nat} (hb : before.length = 32 * slot)
    (behind : List Byte) : FilledAt (before ++ (laidFrom 32 0 fields ++ behind)) slot fields := by
  refine ⟨fun f hf => ?_, fun j hj hu => ?_⟩
  · rw [← List.drop_drop, List.drop_left' hb]
    exact laidFrom_field h (before := []) rfl behind f hf
  · rw [List.getElem?_append_right (by omega), hb, Nat.add_sub_cancel_left,
      List.getElem?_append_left (by rw [laidFrom_length h]; exact hj)]
    exact laidFrom_zero h (Nat.zero_le _) hj hu

theorem padTo_length (h : body.length ≤ n) : (padTo n body).length = n := by
  rw [padTo, List.length_append, List.length_replicate]
  omega

theorem slotBytes_length (second : Bool) (face code a b : Nat) (h : body.length ≤ 24) :
    (slotBytes x second face code a b body).length = 32 :=
  padTo_length (by
    simp only [List.length_append, List.length_cons, List.length_nil, le32_length]
    omega)

theorem firstSlot_length (x : Record) : (firstSlot x).length = 32 := by
  unfold firstSlot
  split
  all_goals exact slotBytes_length _ _ _ _ _ (by simp [spotBody])

/-- R132: the kinds that take two slots have a second one. -/
theorem secondSlot_length (h : x.body.slots = 2) : (secondSlot x).length = 32 := by
  unfold secondSlot
  split
  · exact slotBytes_length _ _ _ _ _ (by simp)
  · exact slotBytes_length _ _ _ _ _ (by simp)
  · next single partnered closing =>
    exfalso
    unfold RecordBody.slots at h
    split at h
    · next e => exact partnered _ _ _ e
    · next e => exact closing _ _ _ _ _ _ _ _ _ _ _ e
    · cases h

theorem recordBytes_one (h : x.body.slots = 1) : recordBytes x = firstSlot x := by
  unfold recordBytes
  rw [h]
  rfl

theorem recordBytes_two (h : x.body.slots = 2) : recordBytes x = firstSlot x ++ secondSlot x := if_pos h

theorem slots_one_or_two (body : RecordBody) : body.slots = 1 ∨ body.slots = 2 := by
  unfold RecordBody.slots
  split
  · exact .inr rfl
  · split
    · exact .inr rfl
    · exact .inl rfl
  · exact .inl rfl

theorem recordBytes_length (x : Record) : (recordBytes x).length = 32 * x.body.slots := by
  rcases slots_one_or_two x.body with h | h
  · rw [recordBytes_one h, firstSlot_length, h]
  · rw [recordBytes_two h, List.length_append, firstSlot_length, secondSlot_length h, h]

/-! ## The fields every slot begins with (R197) -/

/-- R197: the first eight bytes of a record's first slot. -/
def headFields (x : Record) (face code a b : Nat) : List (Nat × List Byte) :=
  [(0, [BitVec.ofNat 8 x.body.kind]), (1, [BitVec.ofNat 8 (64 * face + 8 * x.mark.code + code)]), (2, [BitVec.ofNat 8 a]),
    (3, [BitVec.ofNat 8 b]), (4, le32 x.seq)]

/-- R197: the first eight bytes of a second slot. -/
def secondFields (x : Record) (face b : Nat) : List (Nat × List Byte) :=
  [(0, [BitVec.ofNat 8 x.body.kind]), (1, [BitVec.ofNat 8 (128 + 64 * face + 8 * x.mark.code)]), (3, [BitVec.ofNat 8 b]),
    (4, le32 x.seq)]

theorem padTo_slot (k c a b : Byte) (seq : Nat) (body : List Byte) :
    padTo 32 ([k, c, a, b] ++ le32 seq ++ body) = [k, c, a, b] ++ le32 seq ++ padTo 24 body := by
  have room : 32 - ([k, c, a, b] ++ le32 seq ++ body).length = 24 - body.length := by
    simp only [List.length_append, List.length_cons, List.length_nil, le32_length]
    omega
  unfold padTo
  rw [room, List.append_assoc ([k, c, a, b] ++ le32 seq)]

theorem slotBytes_first {face m : Nat} (code a b : Nat) (hf : face = m) (hb : padTo 24 body = laidFrom 32 8 fields) :
    slotBytes x false face code a b body = laidFrom 32 0 (headFields x m code a b ++ fields) := by
  subst hf
  unfold slotBytes
  rw [padTo_slot, hb, show weight false 128 = 0 from rfl, Nat.zero_add]
  rfl

theorem slotBytes_second {face m : Nat} (b : Nat) (hf : face = m) (hb : padTo 24 body = laidFrom 32 8 fields) :
    slotBytes x true face 0 0 b body = laidFrom 32 0 (secondFields x m b ++ fields) := by
  subst hf
  unfold slotBytes
  rw [padTo_slot, hb]
  rfl

/-- The fields of a body follow those every slot begins with. -/
theorem headFields_inOrder (face code a b : Nat) (h : InOrder 32 8 fields) :
    InOrder 32 0 (headFields x face code a b ++ fields) := by
  simpa [headFields, InOrder] using h

theorem secondFields_inOrder (face b : Nat) (h : InOrder 32 8 fields) : InOrder 32 0 (secondFields x face b ++ fields) := by
  simpa [secondFields, InOrder] using h

theorem faceBit_eq (f : Face) : faceBit f = if f = .upper then 0 else 1 := by
  cases f <;> rfl

/-! ## The fields of each kind (R197) -/

/-- R197: the fields of a SPOT or a LARGE record. -/
def objectFields (x : Record) (y : SpotFields) : List (Nat × List Byte) :=
  headFields x (if y.face = .upper then 0 else 1) 0 (objectFlags y.cut y.blind y.lights y.failed) y.classBits.toNat
    ++ [(8, leInt32 y.first), (12, leInt32 y.last), (16, le32 y.patchIndex.toNat), (20, leInt32 y.offset),
      (24, le16 y.cdMin), (26, le16 y.cdMax), (28, [BitVec.ofNat 8 y.lane]), (29, le24 y.pixels)]

/-- R197: the face bit and the byte that name the subject of a FAULT record. -/
def subjectFields : FaultSubject → Nat × Nat
  | .face f => (if f = .upper then 0 else 1, if f = .upper then 0 else 1)
  | .head p => (0, p.val)
  | .none => (0, 0xFF)

/-- R197: the fields of a record's first slot. -/
def firstFields (x : Record) : List (Nat × List Byte) :=
  match x.body with
  | .rollStart rollId s0 slot id =>
    headFields x 0 0 slot.toNat 0 ++ [(8, le32 rollId.toNat), (12, leInt32 s0), (16, le32 id.toNat)]
  | .rollEnd stamp reason pinholes through spots larges streaks =>
    headFields x 0 reason.code 0 0
      ++ [(8, leInt32 stamp), (12, le32 pinholes), (16, le32 through), (20, le32 spots), (24, le32 larges),
        (28, le32 streaks)]
  | .patch face index first last flags edgeExtra pinholes spots larges confirmations noise =>
    headFields x (if face = .upper then 0 else 1) 0 (patchFlagBits flags edgeExtra) 0
      ++ [(8, le32 index.toNat), (12, leInt32 first), (16, leInt32 last), (22, le16 pinholes), (24, le16 spots),
        (26, le16 larges), (28, le16 confirmations), (30, le16 noise)]
  | .pinhole result c partner =>
    headFields x (if c.face = .upper then 0 else 1) result.code
        (objectFlags (c.cut || partner.any fun q => q.cut) (c.blind || partner.any fun q => q.blind) c.lights false)
        c.classBits.toNat
      ++ [(8, leInt32 c.first), (12, leInt32 c.last), (16, le32 c.patchIndex.toNat), (20, leInt32 c.offset),
        (24, leInt16 c.cdMin), (26, [BitVec.ofInt 8 (c.cdMax - c.cdMin)]), (27, [c.minValue]), (28, [c.maxValue]),
        (29, le24 c.pixels)]
  | .spot y => objectFields x y
  | .large y => objectFields x y
  | .streakOpen number face lane centre width start confirm patchIndex classBits =>
    headFields x (if face = .upper then 0 else 1) 0 lane classBits.toNat
      ++ [(8, le32 number), (12, leInt32 start), (16, leInt32 confirm), (20, le32 patchIndex.toNat), (24, le16 centre),
        (26, le16 width)]
  | .streakClose number face stop hits observed maxWidth reason patches widened _ _ =>
    headFields x (if face = .upper then 0 else 1) reason.code (weight widened 1) 0
      ++ [(8, le32 number), (12, leInt32 stop), (16, le32 hits), (20, le32 observed), (24, le16 maxWidth),
        (26, le16 patches)]
  | .markMissed out fire source reason =>
    headFields x 0 0 (if out = .a then 0 else 1) reason.code ++ [(8, leInt32 fire), (12, le32 source.toNat)]
  | .fault code subject first last count =>
    headFields x (subjectFields subject).1 0 code.code (subjectFields subject).2
      ++ [(8, leInt32 first), (12, leInt32 last), (16, le32 count)]
  | .splice stamp first last => headFields x 0 0 0 0 ++ [(8, leInt32 stamp), (12, leInt32 first), (16, leInt32 last)]
  | .recipe face slot id effective =>
    headFields x (if face = .upper then 0 else 1) 0 slot.toNat 0 ++ [(8, le32 id.toNat), (12, leInt32 effective)]
  | .note value stamp => headFields x 0 0 0 0 ++ [(8, le64 value.toNat), (16, leInt32 stamp)]
  | .loss firstLost count first last pinhole streak =>
    headFields x 0 0 0 0
      ++ [(8, le32 firstLost), (12, le32 count), (16, leInt32 first), (20, leInt32 last), (24, le32 pinhole),
        (28, le32 streak)]

/-- R197: the fields of the second slot of a THROUGH record, those of the arriving closure. -/
def partnerFields (x : Record) (q : Closure) : List (Nat × List Byte) :=
  secondFields x (if q.face = .upper then 0 else 1) q.classBits.toNat
    ++ [(8, leInt32 q.first), (12, leInt32 q.last), (16, leInt16 q.cdMin),
      (18, [BitVec.ofInt 8 (q.cdMax - q.cdMin + 1)]), (19, [q.minValue]), (20, [q.maxValue]), (21, le24 q.pixels)]

/-- R197: the fields of the second slot of a STREAK_CLOSE record. -/
def heldFields (x : Record) (face : Face) (survivor : Nat) (held : Tally) : List (Nat × List Byte) :=
  secondFields x (if face = .upper then 0 else 1) 0
    ++ [(8, le32 survivor), (12, le32 held.count), (16, leInt32 held.first), (20, leInt32 held.last)]

theorem firstSlot_laid (x : Record) : firstSlot x = laidFrom 32 0 (firstFields x) := by
  obtain ⟨seq, mark, body⟩ := x
  cases body with
  | rollStart rollId s0 slot id => exact slotBytes_first _ _ _ rfl rfl
  | rollEnd stamp reason pinholes through spots larges streaks => exact slotBytes_first _ _ _ rfl rfl
  | patch face index first last flags edgeExtra pinholes spots larges confirmations noise =>
    exact slotBytes_first _ _ _ (faceBit_eq face) rfl
  | pinhole result c partner => exact slotBytes_first _ _ _ (faceBit_eq c.face) rfl
  | spot y => exact slotBytes_first _ _ _ (faceBit_eq y.face) rfl
  | large y => exact slotBytes_first _ _ _ (faceBit_eq y.face) rfl
  | streakOpen number face lane centre width start confirm patchIndex classBits =>
    exact slotBytes_first _ _ _ (faceBit_eq face) rfl
  | streakClose number face stop hits observed maxWidth reason patches widened survivor held =>
    exact slotBytes_first _ _ _ (faceBit_eq face) rfl
  | markMissed out fire source reason =>
    cases out <;> exact slotBytes_first _ _ _ rfl rfl
  | fault code subject first last count =>
    cases subject with
    | face f => cases f <;> exact slotBytes_first _ _ _ rfl rfl
    | head p => exact slotBytes_first _ _ _ rfl rfl
    | none => exact slotBytes_first _ _ _ rfl rfl
  | splice stamp first last => exact slotBytes_first _ _ _ rfl rfl
  | recipe face slot id effective => exact slotBytes_first _ _ _ (faceBit_eq face) rfl
  | note value stamp => exact slotBytes_first _ _ _ rfl rfl
  | loss firstLost count first last pinhole streak => exact slotBytes_first _ _ _ rfl rfl

theorem firstFields_inOrder (x : Record) : InOrder 32 0 (firstFields x) := by
  unfold firstFields
  split
  all_goals exact headFields_inOrder _ _ _ _ (by simp [InOrder])

/-- R197: the first slot of a record of any kind. -/
theorem firstSlot_filled (x : Record) : FilledAt (recordBytes x) 0 (firstFields x) := by
  rcases slots_one_or_two x.body with h | h
  · rw [recordBytes_one h, firstSlot_laid, ← List.append_nil (laidFrom 32 0 (firstFields x))]
    exact laid_filledAt (firstFields_inOrder x) (before := []) rfl []
  · rw [recordBytes_two h, firstSlot_laid]
    exact laid_filledAt (firstFields_inOrder x) (before := []) rfl _

theorem secondSlot_filled (h : x.body.slots = 2) (hs : secondSlot x = laidFrom 32 0 fields) (ho : InOrder 32 0 fields) :
    FilledAt (recordBytes x) 1 fields := by
  rw [recordBytes_two h, hs, ← List.append_nil (laidFrom 32 0 fields)]
  exact laid_filledAt ho (firstSlot_length x) []

/-- R115, R197: the second slot of a THROUGH record. -/
theorem through_filled {result : PinholeResult} {c q : Closure} (hx : x.body = .pinhole result c (some q)) :
    FilledAt (recordBytes x) 1 (partnerFields x q) := by
  refine secondSlot_filled (by rw [hx]; rfl) ?_ (secondFields_inOrder _ _ (by simp [InOrder]))
  unfold secondSlot
  rw [hx]
  exact slotBytes_second _ (faceBit_eq q.face) rfl

/-- R132, R197: the second slot of a STREAK_CLOSE record. -/
theorem held_filled {number stop hits observed maxWidth reason patches widened survivor} {face : Face} {held : Tally}
    (hx : x.body = .streakClose number face stop hits observed maxWidth reason patches widened survivor held)
    (h : x.body.slots = 2) : FilledAt (recordBytes x) 1 (heldFields x face survivor held) := by
  refine secondSlot_filled h ?_ (secondFields_inOrder _ _ (by simp [InOrder]))
  unfold secondSlot
  rw [hx]
  exact slotBytes_second _ (faceBit_eq face) rfl

/-! ## Page headers (R187, R197) -/

/-- R187, R197: the fields of a page header whose page holds records from `first` to `last`. -/
def headerFields (sequence rollId : Word) (page : Page) (reason : PostReason) (previous : BitVec 64) (stamp : Int)
    (first last : Record) : List (Nat × List Byte) :=
  [(0, le32 sequence.toNat), (4, le32 rollId.toNat), (8, le16 page.used), (10, [BitVec.ofNat 8 reason.code]),
    (12, le32 first.seq), (16, le32 last.seq), (24, le64 previous.toNat), (32, leInt32 stamp)]

section
variable {sequence rollId : Word} {page : Page} {reason : PostReason} {previous : BitVec 64} {stamp : Int} {first last : Record}

theorem pageHeader_length : (pageHeader sequence rollId page reason previous stamp).length = 64 :=
  padTo_length (by simp)

theorem pageHeader_laid (hf : page.records.head? = some first) (hl : page.records.getLast? = some last) :
    pageHeader sequence rollId page reason previous stamp =
      laidFrom 64 0 (headerFields sequence rollId page reason previous stamp first last) := by
  unfold pageHeader
  rw [hf, hl]
  rfl

theorem headerFields_inOrder :
    InOrder 64 0 (headerFields sequence rollId page reason previous stamp first last) := by
  simp [headerFields, InOrder]

end

/-- Settles O59: kind by kind, the body laid field by field behind the bytes every slot begins with. -/
theorem recordFillsSlots : Obligations.RecordFillsSlots := by
  refine ⟨fun n => ⟨le16_eq n, le24_eq n, le32_eq n, le64_eq n⟩, fun i => ⟨leInt16_eq i, leInt32_eq i⟩, ?records, ?headers,
    rfl, rfl, rfl, rfl, rfl, rfl⟩
  case records =>
    intro x bytes filled byte bit side head second object
    refine ⟨recordBytes_length x, ?_⟩
    obtain ⟨seq, mark, body⟩ := x
    have first := firstSlot_filled { seq := seq, mark := mark, body := body }
    cases body with
    | pinhole result c partner =>
      refine ⟨first, fun q hq => ?_⟩
      obtain rfl : partner = some q := hq
      exact through_filled (x := { seq := seq, mark := mark, body := .pinhole result c (some q) }) rfl
    | streakClose number face stop hits observed maxWidth reason patches widened survivor held =>
      exact ⟨first, held_filled rfl⟩
    | fault code subject start last count => cases subject <;> exact first
    | _ => exact first
  case headers =>
    intro sequence rollId page reason previous stamp a b bytes fields
    refine ⟨pageHeader_length, fun ha hb => ?_⟩
    have laid : bytes = _ := pageHeader_laid ha hb
    have order : InOrder 64 0 fields := headerFields_inOrder
    rw [laid]
    refine ⟨fun f hf => ?_, fun j hj hu => laidFrom_zero order (Nat.zero_le _) hj hu⟩
    have placed := laidFrom_field order (before := []) rfl [] f hf
    rwa [List.nil_append, List.append_nil] at placed

end Sys2Proof.Machine
end

section
/-! SUPPORT. What the failure of each read does, by the read. -/

namespace Sys2Proof.Machine

variable {s : State}

/-! ## Time-outs and error completions (R180) -/

/-- R180: a time-out from the second ms tick on acts as an error completion does. -/
theorem readTimeout_late {read : ReadKind} {waited : Nat} (hw : readWaited s read = some waited) (h : 2 ≤ waited) :
    exec (.readTimeout read) s = exec (.readErrorCompletion read) s := by
  have flying : (readWaited s read).isSome = true := Option.isSome_of_eq_some hw
  have late : Config.readTimeoutTicks ≤ waited := h
  simp only [exec, execReadTimeout, execReadErrorCompletion, flying, if_true]
  simp only [hw, late, if_true]

/-- R180: an error completion of a read in flight is its failure. -/
theorem exec_readErrorCompletion {read : ReadKind} (h : (readWaited s read).isSome = true) :
    exec (.readErrorCompletion read) s = .next (settle s (failRead s read)) := by
  simp only [exec, execReadErrorCompletion, h, if_true]

/-- R180: before the second ms tick a time-out does nothing. -/
theorem readTimeout_early {read : ReadKind} {waited : Nat} (hw : readWaited s read = some waited) (h : waited < 2) :
    exec (.readTimeout read) s = .next (settle s s) := by
  have early : ¬Config.readTimeoutTicks ≤ waited := Nat.not_le.2 h
  simp only [exec, execReadTimeout, hw, early, if_false]

/-- Log 5: a read that is not in flight cannot fail. -/
theorem readTimeout_idle {read : ReadKind} (hw : readWaited s read = none) :
    exec (.readTimeout read) s = .next (settle s s) := by
  simp only [exec, execReadTimeout, hw]

theorem readErrorCompletion_idle {read : ReadKind} (hw : readWaited s read = none) :
    exec (.readErrorCompletion read) s = .next (settle s s) := by
  simp only [exec, execReadErrorCompletion, hw, Option.isSome_none, Bool.false_eq_true, if_false]

/-- R188: a failed completion read of a post is the failure of the page being posted. -/
theorem failRead_post {p : Posting} (h : s.xu.posting = some p) : failRead s .postCompletion = failPage s := by
  rw [failPage_posting h]
  simp only [failRead, h]

/-- R180, R181: what a sample that failed with no repeat marked leaves, whichever of its two effects comes first. -/
theorem failSample_single (h : s.xu.resample = false) :
    failRead s .sample = captureFault { s with xu := { s.xu with sample := none } } .memoryRead := by
  rw [captureFault_eq, raise_eq]
  simp only [failRead, endSample, captureFault_eq, raise_eq, h, Bool.false_eq_true, if_false]
  rfl

/-- R181: the sample in progress is over, with no repeat of it marked. -/
def sampleOver (s : State) : State := { s with xu := { s.xu with sample := none, resample := false } }

theorem endSample_marked (h : s.xu.resample = true) : endSample s = startSample (sampleOver s) := if_pos h

theorem captureFault_cu (s : State) (code : FaultCode) :
    (captureFault s code).cu = { s.cu with capture := some { code := code, stamp := s.mu.h } } := by
  rw [captureFault_eq]

theorem captureFault_xbase (s : State) (code : FaultCode) : (captureFault s code).xu.xbase = s.xu.xbase := by
  rw [captureFault_eq, raise_eq]

theorem captureFault_resample (s : State) (code : FaultCode) : (captureFault s code).xu.resample = s.xu.resample := by
  rw [captureFault_eq, raise_eq]

/-- R181: a failed sample with a repeat marked is reported, and the repeat starts. -/
theorem failSample_repeated (h : s.xu.resample = true) :
    failRead s .sample = startSample (sampleOver (captureFault s .memoryRead)) :=
  endSample_marked ((captureFault_resample s .memoryRead).trans h)

/-- Settles O38: a time-out by its age, then the failure of each read in flight. -/
theorem readsFail : Obligations.ReadsFail := by
  intro s hq
  have quiet : ∀ {u : State} code, u.cu = s.cu → (captureFault u code).cu.limitEvent = false := fun code hu => by
    rw [captureFault_cu, hu]
    exact hq.1
  refine ⟨fun read waited hw h => ?late, fun read waited hw h => ?early, fun read hw => ?idle, fun hp => ?post,
    fun hw => ?status, fun hs hr => ?single, fun hs hr ho => ?repeated, fun hs hr ho => ?off, fun hc => ?copy,
    fun hr => ?reread, fun hl hb => ?load⟩
  case late =>
    have fails := exec_readErrorCompletion (Option.isSome_of_eq_some hw)
    exact ⟨_, (readTimeout_late hw h).trans fails, fails⟩
  case early => exact exec_onlyStatus (readTimeout_early hw h) rfl hq.1
  case idle => exact ⟨exec_onlyStatus (readTimeout_idle hw) rfl hq.1, exec_onlyStatus (readErrorCompletion_idle hw) rfl hq.1⟩
  case post =>
    obtain ⟨p, posting⟩ := Option.isSome_iff_exists.1 hp
    have flying : (readWaited s .postCompletion).isSome = true := Option.isSome_map.trans hp
    rw [exec_readErrorCompletion flying, failRead_post posting]
    rfl
  case status => exact exec_readErrorCompletion (Option.isSome_map.trans hw)
  case single => exact exec_onlyStatus (exec_readErrorCompletion hs) (failSample_single hr) (quiet _ rfl)
  case repeated =>
    have roll : (captureFault s .memoryRead).cu.state ≠ .off := by
      rw [captureFault_cu]
      exact ho
    refine exec_onlyStatus (exec_readErrorCompletion hs) ((failSample_repeated hr).trans ?_) (quiet .memoryRead rfl)
    rw [startSample_fresh (s := sampleOver (captureFault s .memoryRead)) roll rfl, ← captureFault_xbase s .memoryRead]
    rfl
  case off =>
    have off : (captureFault s .memoryRead).cu.state = .off := by
      rw [captureFault_cu]
      exact ho
    exact exec_onlyStatus (exec_readErrorCompletion hs) ((failSample_repeated hr).trans (if_pos off)) (quiet .memoryRead rfl)
  case copy => exact exec_onlyStatus (exec_readErrorCompletion (Option.isSome_map.trans hc)) rfl (quiet _ rfl)
  case reread => exact exec_onlyStatus (exec_readErrorCompletion (Option.isSome_map.trans hr)) rfl (quiet _ rfl)
  case load =>
    refine ⟨_, exec_readErrorCompletion (Option.isSome_map.trans hl), settle_endOrder s _ ?_ (quiet _ rfl)⟩
    rw [captureFault_cu]
    exact hb

end Sys2Proof.Machine
end

section
/-! SUPPORT. The start of a recipe load. -/

namespace Sys2Proof.Machine

variable {s : State} {slot : Word}

theorem recipe_refused {code : ResultCode} (hq : Quiescent s) (hd : orderDue s = some (.recipe slot))
    (hr : recipeRefused s slot = some code) :
    ∃ t, exec (.recipe slot) s = .next t ∧ OrderEnded s (plainResult code) t := by
  refine ⟨settle s (endOrder s (plainResult code)), ?_, settle_endOrder s _ (orderDue_batch hd) hq.1⟩
  simp only [exec, execRecipe, hd, hr, if_true]

/-- R148: the read of a load goes to its slot. -/
theorem beginLoad_eq (s : State) (h : slot.toNat ≤ 3) :
    beginLoad s (slot.setWidth 2) =
      { s with
        rs := { s.rs with load := some { slot := slot.setWidth 2, copy := [], waited := 0 } }
        out := s.out ++ [.busRead (s.xu.xbase + BitVec.ofNat 64 (0x2000 * (slot.toNat + 1))) 2496] } := by
  have same : (slot.setWidth 2).toNat = slot.toNat := by
    rw [BitVec.toNat_setWidth]
    exact Nat.mod_eq_of_lt (Nat.lt_succ_of_le h)
  unfold beginLoad slotOffset
  rw [same]
  rfl

/-- Settles O45: by the slot and the inspection state. -/
theorem recipeLoadBegins : Obligations.RecipeLoadBegins := by
  intro slot s hq hd
  refine ⟨fun beyond => ?_, fun h off => ?_, fun h on => ?_⟩
  · exact recipe_refused hq hd (if_pos beyond)
  · exact recipe_refused hq hd ((if_neg (Nat.not_lt.2 h)).trans (if_pos off))
  · have begins : recipeRefused s slot = none := (if_neg (Nat.not_lt.2 h)).trans (if_neg on)
    have loads : exec (.recipe slot) s = .next (settle s (beginLoad s (slot.setWidth 2))) := by
      simp only [exec, execRecipe, hd, begins, if_true]
    exact exec_onlyStatus loads (beginLoad_eq s h) hq.1

end Sys2Proof.Machine
end

section
/-! SUPPORT. The tests of a recipe check: the first that fails, where tests fail, and when all of them pass. -/

namespace Sys2Proof.Machine

variable {tests passed rest : List FieldTest} {test : FieldTest} {o code : Nat} {x : CheckFailure} {straps : Straps}
  {slot : List Byte}

/-! ## Where tests fail, and when they pass -/

/-- A test that fails reports the offset `o`. -/
def FailsAt (tests : List FieldTest) (o : Nat) : Prop := ∃ t ∈ tests, o = t.offset ∧ t.fails = true

/-- Every test passes. -/
def Passes (tests : List FieldTest) : Prop := ∀ t ∈ tests, t.fails = false

@[simp] theorem failsAt_nil : ¬FailsAt [] o := by simp [FailsAt]

@[simp] theorem failsAt_cons : FailsAt (test :: rest) o ↔ (o = test.offset ∧ test.fails = true) ∨ FailsAt rest o := by
  simp [FailsAt]

@[simp] theorem failsAt_map {α : Type} (l : List α) (g : α → FieldTest) :
    FailsAt (l.map g) o ↔ ∃ i ∈ l, o = (g i).offset ∧ (g i).fails = true := by
  simp [FailsAt]

@[simp] theorem failsAt_flatten_map {α : Type} (l : List α) (g : α → List FieldTest) :
    FailsAt (l.map g).flatten o ↔ ∃ i ∈ l, FailsAt (g i) o := by
  simp only [FailsAt, List.mem_flatten, List.mem_map]
  constructor
  · rintro ⟨t, ⟨_, ⟨i, hi, rfl⟩, ht⟩, fails⟩
    exact ⟨i, hi, t, ht, fails⟩
  · rintro ⟨i, hi, t, ht, fails⟩
    exact ⟨t, ⟨_, ⟨i, hi, rfl⟩, ht⟩, fails⟩

@[simp] theorem failsAt_eachFace (g : Face → List FieldTest) : FailsAt (eachFace g) o ↔ ∃ f, FailsAt (g f) o := by
  simp only [FailsAt, eachFace, List.mem_append]
  constructor
  · rintro ⟨t, upper | lower, fails⟩
    · exact ⟨.upper, t, upper, fails⟩
    · exact ⟨.lower, t, lower, fails⟩
  · rintro ⟨f, t, ht, fails⟩
    cases f
    · exact ⟨t, .inl ht, fails⟩
    · exact ⟨t, .inr ht, fails⟩

theorem passes_iff_failsAt : Passes tests ↔ ∀ o, ¬FailsAt tests o := by
  simp only [Passes, FailsAt, not_exists, not_and, Bool.not_eq_true]
  exact ⟨fun h o t ht _ => h t ht, fun h t ht => h _ t ht rfl⟩

theorem passes_of_failsAt {ι : Type} {place : ι → Nat} {bad : ι → Prop}
    (h : ∀ o, FailsAt tests o ↔ ∃ i, o = place i ∧ bad i) : Passes tests ↔ ∀ i, ¬bad i := by
  simp only [passes_iff_failsAt, h, not_exists, not_and]
  exact ⟨fun sound i => sound _ i rfl, fun sound _ i _ => sound i⟩

@[simp] theorem passes_nil : Passes [] := by simp [Passes]

@[simp] theorem passes_cons : Passes (test :: rest) ↔ test.fails = false ∧ Passes rest := by simp [Passes]

@[simp] theorem passes_append : Passes (passed ++ rest) ↔ Passes passed ∧ Passes rest := by
  simp [Passes, or_imp, forall_and]

@[simp] theorem passes_map {α : Type} (l : List α) (g : α → FieldTest) :
    Passes (l.map g) ↔ ∀ i ∈ l, (g i).fails = false := by
  simp [Passes]

@[simp] theorem passes_flatten_map {α : Type} (l : List α) (g : α → List FieldTest) :
    Passes (l.map g).flatten ↔ ∀ i ∈ l, Passes (g i) := by
  simp only [passes_iff_failsAt, failsAt_flatten_map, not_exists, not_and]
  exact ⟨fun h i hi o => h o i hi, fun h o i hi => h i hi o⟩

@[simp] theorem passes_eachFace (g : Face → List FieldTest) : Passes (eachFace g) ↔ ∀ f, Passes (g f) := by
  simp only [passes_iff_failsAt, failsAt_eachFace, not_exists]
  exact forall_comm

/-! ## The first failing test of the first failing check (R150) -/

theorem firstFailing_none : firstFailing code tests = none ↔ Passes tests := by
  simp [firstFailing, Passes]

theorem firstFailing_first (hp : Passes passed) (hf : test.fails = true) :
    firstFailing code (passed ++ test :: rest) = some { code := code, offset := test.offset } := by
  have before : passed.find? FieldTest.fails = none := by simpa [Passes] using hp
  unfold firstFailing
  rw [List.find?_append, before, Option.none_or, List.find?_cons_of_pos hf]
  rfl

theorem firstFailing_some (h : firstFailing code tests = some x) : x.code = code ∧ FailsAt tests x.offset := by
  obtain ⟨t, found, rfl⟩ := Option.map_eq_some_iff.1 h
  exact ⟨rfl, t, List.mem_of_find?_eq_some found, rfl, List.find?_some found⟩

theorem validate_none : validate straps slot = none ↔ ∀ c ∈ checkTests straps slot, Passes c.2 := by
  unfold validate
  rw [List.findSome?_eq_none_iff]
  simp only [firstFailing_none]

/-- R150: the order of the checks and of the tests in each decides. -/
theorem validate_first {before after : List (Nat × List FieldTest)} {check : Nat × List FieldTest}
    (hc : checkTests straps slot = before ++ check :: after) (hb : ∀ c ∈ before, Passes c.2)
    (ht : check.2 = passed ++ test :: rest) (hp : Passes passed) (hf : test.fails = true) :
    validate straps slot = some { code := check.1, offset := test.offset } := by
  have earlier : (before.findSome? fun c => firstFailing c.1 c.2) = none :=
    List.findSome?_eq_none_iff.2 fun c hm => firstFailing_none.2 (hb c hm)
  unfold validate
  rw [hc, List.findSome?_append, earlier, Option.none_or, List.findSome?_cons, ht, firstFailing_first hp hf]

theorem checkTests_codes : (checkTests straps slot).map Prod.fst = List.range' 1 13 := rfl

theorem checkTests_code {i : Nat} (h : i < (checkTests straps slot).length) : (checkTests straps slot)[i].1 = i + 1 := by
  have code : ((checkTests straps slot).map Prod.fst)[i]'(by rwa [List.length_map]) = 1 + 1 * i := by
    simp only [checkTests_codes, List.getElem_range']
  rw [List.getElem_map] at code
  omega

/-- R150: a failed check is the one its code numbers, and one of its tests fails at the offset reported. -/
theorem validate_failsAt (hv : validate straps slot = some x) (i : Fin 13) (hx : x.code = i.val + 1) :
    FailsAt (checkTests straps slot)[i].2 x.offset := by
  obtain ⟨c, hc, fails⟩ := List.exists_of_findSome?_eq_some hv
  obtain ⟨j, hj, rfl⟩ := List.mem_iff_getElem.1 hc
  obtain ⟨hcode, reports⟩ := firstFailing_some fails
  have same : j = i.val := by
    rw [checkTests_code hj] at hcode
    omega
  subst same
  exact reports

end Sys2Proof.Machine
end

section
/-! SUPPORT. The checks of a recipe, one by one: where each fails and when it passes. -/

namespace Sys2Proof.Machine

variable {o : Nat} {straps : Straps} {slot : List Byte} {heads : Vector HeadEntry 8} {sp : SharedPart} {f : Face}
  {part : FacePart}

/-! ## Heads (R150, R152) -/

/-- R152: `q` is a present head numbered below `p`, and of its face. -/
def SameFaceBelow (heads : Vector HeadEntry 8) (p q : Port) : Prop :=
  q.val < p.val ∧ heads[q].present = true ∧ heads[q].face = heads[p].face

/-- R152: the ranges of two heads share their origin, or one lies within the other. -/
def Clash (a b : HeadEntry) : Prop :=
  a.origin = b.origin ∨ (a.origin ≤ b.origin ∧ b.last ≤ a.last) ∨ (b.origin ≤ a.origin ∧ a.last ≤ b.last)

theorem mem_headsBelow {p q : Port} : q ∈ headsBelow heads p ↔ SameFaceBelow heads p q := by
  simp [headsBelow, SameFaceBelow, mem_allPorts, and_assoc]

theorem rangesClash_iff {a b : HeadEntry} : rangesClash b a = true ↔ Clash a b := by
  simp only [rangesClash, Clash, Bool.or_eq_true, Bool.and_eq_true, decide_eq_true_eq, or_assoc, eq_comm (a := b.origin)]

theorem headClashes_iff {p : Port} :
    ((headsBelow heads p).any fun q => rangesClash heads[q] heads[p]) = true ↔
      ∃ q, SameFaceBelow heads p q ∧ Clash heads[p] heads[q] := by
  simp only [List.any_eq_true, mem_headsBelow, rangesClash_iff]

theorem failsAt_headPort :
    FailsAt (headPortTests straps heads) o ↔
      ∃ p : Port, o = headOffset p.val ∧ heads[p].present = true ∧ straps.fitted p = false := by
  simp [headPortTests, mem_allPorts]

theorem failsAt_headExtent :
    FailsAt (headExtentTests heads) o ↔
      ∃ p : Port, o = headOffset p.val + 4 ∧ heads[p].present = true ∧ 16383 < heads[p].last := by
  simp [headExtentTests, mem_allPorts]

theorem failsAt_headCount :
    FailsAt (headCountTests heads) o ↔
      ∃ p : Port, o = headOffset p.val + 1 ∧ heads[p].present = true ∧ (headsBelow heads p).length = 4 := by
  simp [headCountTests, mem_allPorts]

theorem failsAt_headOrder :
    FailsAt (headOrderTests heads) o ↔
      ∃ p : Port, o = headOffset p.val + 2 ∧ heads[p].present = true ∧
        ∃ q, SameFaceBelow heads p q ∧ Clash heads[p] heads[q] := by
  simp only [headOrderTests, failsAt_map, mem_allPorts, true_and, Bool.and_eq_true, headClashes_iff]

/-- R152: the four checks on heads pass when every present head meets their conditions. -/
theorem passes_heads :
    (Passes (headPortTests straps heads) ∧ Passes (headExtentTests heads) ∧ Passes (headCountTests heads) ∧
        Passes (headOrderTests heads)) ↔
      ∀ p : Port, heads[p].present = true →
        straps.fitted p = true ∧ heads[p].last ≤ 16383 ∧ (headsBelow heads p).length ≠ 4 ∧
          ∀ q, SameFaceBelow heads p q → ¬Clash heads[p] heads[q] := by
  rw [passes_of_failsAt fun _ => failsAt_headPort, passes_of_failsAt fun _ => failsAt_headExtent,
    passes_of_failsAt fun _ => failsAt_headCount, passes_of_failsAt fun _ => failsAt_headOrder]
  simp only [not_and, not_exists, Bool.not_eq_false, Nat.not_lt, ne_eq, imp_and, forall_and]

/-! ## Stations and pairing (R150, R152) -/

theorem failsAt_station :
    FailsAt (stationTests sp) o ↔
      (o = 0x04C ∧ 0 < sp.qU) ∨ (o = 0x050 ∧ (sp.d : Int) < sp.qL) ∨ (o = 0x054 ∧ -(sp.eb : Int) < sp.qS) := by
  simp [stationTests]

theorem passes_station : Passes (stationTests sp) ↔ sp.qU ≤ 0 ∧ sp.qL ≤ sp.d ∧ sp.qS ≤ -(sp.eb : Int) := by
  simp [stationTests]

theorem within_passes {value lo hi : Nat} : (within o value lo hi).fails = false ↔ lo ≤ value ∧ value ≤ hi := by
  simp [within]

theorem withinInt_passes {value lo hi : Int} : (withinInt o value lo hi).fails = false ↔ lo ≤ value ∧ value ≤ hi := by
  simp [withinInt]

theorem failsAt_pairMap (h : FailsAt (pairMapTests sp) o) : o = 0x064 := by
  simp only [pairMapTests, failsAt_cons, failsAt_nil, or_false] at h
  obtain ⟨rfl, _⟩ := h
  split <;> rfl

theorem passes_pairMap :
    Passes (pairMapTests sp) ↔
      (sp.mirror = true → 0 ≤ sp.columnOffset ∧ sp.columnOffset ≤ 32766) ∧
        (sp.mirror = false → -16383 ≤ sp.columnOffset ∧ sp.columnOffset ≤ 16383) := by
  cases h : sp.mirror <;> simp [pairMapTests, h, withinInt_passes]

/-! ## Columns seen (R152) -/

/-- R152: a present head of the face covers the column. -/
def ColumnSeen (heads : Vector HeadEntry 8) (f : Face) (c : Nat) : Prop :=
  ∃ p : Port, heads[p].present = true ∧ heads[p].face = f ∧ heads[p].origin ≤ c ∧ c ≤ heads[p].last

theorem covers_iff {p : Port} {c : Nat} :
    (heads[p].present && heads[p].face == f && decide (heads[p].origin ≤ c) && decide (c ≤ heads[p].last)) = true ↔
      heads[p].present = true ∧ heads[p].face = f ∧ heads[p].origin ≤ c ∧ c ≤ heads[p].last := by
  simp [and_assoc]

/-- The ports whose range reaches the column or beyond: one fewer after every step of `covered`. -/
def reaching (heads : Vector HeadEntry 8) (c : Nat) : Finset Port := Finset.univ.filter fun p => c ≤ heads[p].last

theorem reaching_past {p : Port} {c : Nat} (h : c ≤ heads[p].last) :
    (reaching heads (heads[p].last + 1)).card < (reaching heads c).card := by
  refine Finset.card_lt_card (Finset.ssubset_iff_of_subset (fun q hq => ?_) |>.2 ⟨p, ?_, ?_⟩)
  · simp only [reaching, Finset.mem_filter, Finset.mem_univ, true_and] at hq ⊢
    omega
  · simpa [reaching] using h
  · simp [reaching]

theorem covered_sound {hi n c : Nat} (h : covered heads f hi n c = true) :
    ∀ x, c ≤ x → x ≤ hi → ColumnSeen heads f x := by
  induction n generalizing c with
  | zero =>
    have past : hi < c := of_decide_eq_true h
    omega
  | succ n ih =>
    intro x hc hx
    unfold covered at h
    rw [if_neg (Nat.not_lt.2 (hc.trans hx))] at h
    split at h
    · cases h
    · next p found =>
      obtain ⟨present, face, origin, _⟩ := covers_iff.1 (List.find?_some found :)
      by_cases reached : x ≤ heads[p].last
      · exact ⟨p, present, face, origin.trans hc, reached⟩
      · exact ih h x (Nat.lt_of_not_le reached) hx

theorem covered_complete {hi n c : Nat} (hn : (reaching heads c).card ≤ n)
    (h : ∀ x, c ≤ x → x ≤ hi → ColumnSeen heads f x) : covered heads f hi n c = true := by
  induction n generalizing c with
  | zero =>
    refine decide_eq_true (Nat.lt_of_not_le fun hc => ?_)
    obtain ⟨p, _, _, _, last⟩ := h c le_rfl hc
    exact Nat.not_lt_zero _ ((reaching_past last).trans_le hn)
  | succ n ih =>
    unfold covered
    by_cases past : hi < c
    · rw [if_pos past]
    · rw [if_neg past]
      split
      · next none =>
        obtain ⟨p, covers⟩ := h c le_rfl (Nat.not_lt.1 past)
        exact absurd (covers_iff.2 covers) (List.find?_eq_none.1 none p (mem_allPorts p))
      · next p found =>
        obtain ⟨_, _, _, last⟩ := covers_iff.1 (List.find?_some found :)
        have fewer := reaching_past last
        exact ih (by omega) fun x hx => h x (by omega)

/-- R152: eight steps are enough, since each passes the end of one head. -/
theorem covered_iff {hi c : Nat} :
    covered heads f hi 8 c = true ↔ ∀ x, c ≤ x → x ≤ hi → ColumnSeen heads f x :=
  ⟨covered_sound, covered_complete ((Finset.card_le_univ _).trans_eq (Fintype.card_fin 8))⟩

/-! ## Face parts (R150, R152) -/

theorem failsAt_laneOrder {i : Nat} :
    FailsAt (laneOrderTests f part i) o ↔
      (o = laneAt f i ∧ 0 < i ∧ (part.lane i).first ≤ (part.lane (i - 1)).last) ∨
        (o = laneAt f i + 2 ∧ (part.lane i).last < (part.lane i).first) := by
  simp [laneOrderTests]

theorem passes_laneOrder {i : Nat} :
    Passes (laneOrderTests f part i) ↔
      (0 < i → (part.lane (i - 1)).last < (part.lane i).first) ∧ (part.lane i).first ≤ (part.lane i).last := by
  simp [laneOrderTests, Nat.pos_iff_ne_zero]

theorem laneCover_passes {i : Nat} :
    (laneCoverTest heads f part i).fails = false ↔
      ∀ c, (part.lane i).first ≤ c → c ≤ (part.lane i).last → ColumnSeen heads f c := by
  simp only [laneCoverTest, Bool.not_eq_false', covered_iff]

theorem laneCover_fails {i : Nat} :
    (laneCoverTest heads f part i).fails = true ↔
      ∃ c, (part.lane i).first ≤ c ∧ c ≤ (part.lane i).last ∧ ¬ColumnSeen heads f c := by
  rw [← Bool.not_eq_false, laneCover_passes]
  push Not
  rfl

theorem endMisses_passes {i : Nat} :
    (endMissesTest f part i).fails = false ↔ (part.lane i).fadeMisses < (part.lane i).endMisses := by
  simp [endMissesTest]

theorem endMisses_fails {i : Nat} :
    (endMissesTest f part i).fails = true ↔ (part.lane i).endMisses ≤ (part.lane i).fadeMisses := by
  simp [endMissesTest]

theorem streakStart_fails : (streakStartTest f part).fails = true ↔ part.streakStart ≤ part.pinholeMd := by
  simp [streakStartTest]

theorem streakStart_passes : (streakStartTest f part).fails = false ↔ part.pinholeMd < part.streakStart := by
  simp [streakStartTest]

theorem segment_fails : (segmentTest f part).fails = true ↔ part.mode = .continuous ∧ part.segment = 0 := by
  simp [segmentTest]

theorem segment_passes : (segmentTest f part).fails = false ↔ (part.mode = .continuous → part.segment ≠ 0) := by
  simp [segmentTest]

/-- R198: the lanes of a face part are as many as its lane count says. -/
theorem slotFacePart_lanes (slot : List Byte) (f : Face) :
    (slotFacePart slot f).lanes.length = u8 slot (facePartOffset f + 2) := by
  simp [slotFacePart, readFacePart, u8, byteAt, Nat.add_comm]

end Sys2Proof.Machine
end

section
/-! SUPPORT. RANGE, and what a valid slot is. -/

namespace Sys2Proof.Machine

variable {straps : Straps} {slot : List Byte} {f : Face} {o : Nat}

/-! ## FORMAT and RANGE (R150, R151) -/

theorem failsAt_format :
    FailsAt [{ offset := 0x004, fails := decide (u32 slot 0x004 ≠ 1) }] o ↔ o = 0x004 ∧ u32 slot 0x004 ≠ 1 := by
  simp

theorem passes_range :
    Passes (rangeTests slot) ↔
      Passes (rangeTiming slot ++ rangePairing slot ++ rangeMarker slot 0x080 ++ rangeMarker slot 0x088) ∧
        (∀ p : Port, Passes (rangeHead slot p.val)) ∧ ∀ f, Passes (rangeFace slot f) := by
  have heads : Passes ((List.range 8).map (rangeHead slot)).flatten ↔ ∀ p : Port, Passes (rangeHead slot p.val) := by
    rw [passes_flatten_map, Fin.forall_iff]
    simp only [List.mem_range]
  have faces : (∀ f, Passes (rangeFace slot f)) ↔ Passes (rangeFace slot .upper) ∧ Passes (rangeFace slot .lower) :=
    ⟨fun h => ⟨h .upper, h .lower⟩, fun ⟨upper, lower⟩ f => by cases f <;> assumption⟩
  unfold rangeTests
  rw [passes_append, passes_append, passes_append, heads, faces, and_assoc, and_assoc]

/-- R151: a head entry is judged whole with its present mark on, and else by the mark alone. -/
theorem passes_rangeHead {p : Nat} :
    Passes (rangeHead slot p) ↔
      let o := headOffset p
      (0 ≤ u8 slot o ∧ u8 slot o ≤ 1) ∧
        (u8 slot o = 1 →
          (0 ≤ u8 slot (o + 1) ∧ u8 slot (o + 1) ≤ 1) ∧ (0 ≤ u16 slot (o + 2) ∧ u16 slot (o + 2) ≤ 16383) ∧
            (256 ≤ u16 slot (o + 4) ∧ u16 slot (o + 4) ≤ 4096) ∧ u16 slot (o + 4) % 64 = 0 ∧
            1 ≤ u8 slot (o + 6) ∧ u8 slot (o + 6) ≤ 255) := by
  unfold rangeHead
  dsimp only
  split
  · next present =>
    simp only [passes_cons, passes_nil, and_true, within_passes, Bool.or_eq_false_iff, decide_eq_false_iff_not,
      Nat.not_lt, ne_eq, not_not]
    exact ⟨fun ⟨mark, face, origin, ⟨width, multiple⟩, limit⟩ =>
        ⟨mark, fun _ => ⟨face, origin, width, multiple, limit⟩⟩,
      fun ⟨mark, entry⟩ =>
        have ⟨face, origin, width, multiple, limit⟩ := entry present
        ⟨mark, face, origin, ⟨width, multiple⟩, limit⟩⟩
  · next absent =>
    simp only [passes_cons, passes_nil, and_true, within_passes]
    exact ⟨fun mark => ⟨mark, fun present => absurd present absent⟩, And.left⟩

/-! ## The checks on face parts (R150, R152) -/

/-- The indices of the lanes the checks judge. -/
def laneIndices (slot : List Byte) (f : Face) : List Nat := List.range (slotFacePart slot f).lanes.length

theorem mem_laneIndices {i : Nat} : i ∈ laneIndices slot f ↔ i < u8 slot (facePartOffset f + 2) := by
  rw [laneIndices, List.mem_range, slotFacePart_lanes]

theorem failsAt_laneOrders :
    FailsAt (eachFace fun f => ((laneIndices slot f).map (laneOrderTests f (slotFacePart slot f))).flatten) o ↔
      ∃ f i, i < u8 slot (facePartOffset f + 2) ∧
        ((o = laneAt f i ∧ 0 < i ∧ ((slotFacePart slot f).lane i).first ≤ ((slotFacePart slot f).lane (i - 1)).last) ∨
          (o = laneAt f i + 2 ∧ ((slotFacePart slot f).lane i).last < ((slotFacePart slot f).lane i).first)) := by
  simp only [failsAt_eachFace, failsAt_flatten_map, mem_laneIndices, failsAt_laneOrder]

theorem failsAt_laneCovers {heads : Vector HeadEntry 8} :
    FailsAt (eachFace fun f => (laneIndices slot f).map (laneCoverTest heads f (slotFacePart slot f))) o ↔
      ∃ f i c, i < u8 slot (facePartOffset f + 2) ∧ o = laneAt f i ∧ ((slotFacePart slot f).lane i).first ≤ c ∧
        c ≤ ((slotFacePart slot f).lane i).last ∧ ¬ColumnSeen heads f c := by
  simp only [failsAt_eachFace, failsAt_map, mem_laneIndices, laneCover_fails, exists_and_left]
  rfl

theorem failsAt_streakStarts :
    FailsAt (eachFace fun f => [streakStartTest f (slotFacePart slot f)]) o ↔
      ∃ f, o = facePartOffset f + 0x1A ∧ (slotFacePart slot f).streakStart ≤ (slotFacePart slot f).pinholeMd := by
  simp only [failsAt_eachFace, failsAt_cons, failsAt_nil, or_false, streakStart_fails]
  rfl

theorem failsAt_endMisses :
    FailsAt (eachFace fun f => (laneIndices slot f).map (endMissesTest f (slotFacePart slot f))) o ↔
      ∃ f i, i < u8 slot (facePartOffset f + 2) ∧ o = laneAt f i + 20 ∧
        ((slotFacePart slot f).lane i).endMisses ≤ ((slotFacePart slot f).lane i).fadeMisses := by
  simp only [failsAt_eachFace, failsAt_map, mem_laneIndices, endMisses_fails]
  rfl

theorem failsAt_segments :
    FailsAt (eachFace fun f => [segmentTest f (slotFacePart slot f)]) o ↔
      ∃ f, o = facePartOffset f + 0x10 ∧ (slotFacePart slot f).mode = .continuous ∧ (slotFacePart slot f).segment = 0 := by
  simp only [failsAt_eachFace, failsAt_cons, failsAt_nil, or_false, segment_fails]
  rfl

/-- R152: the conditions between the fields of a face part. -/
def FaceSound (slot : List Byte) (f : Face) : Prop :=
  let part := slotFacePart slot f
  (∀ i, i < u8 slot (facePartOffset f + 2) →
    (part.lane i).first ≤ (part.lane i).last ∧ (0 < i → (part.lane (i - 1)).last < (part.lane i).first) ∧
      (∀ c, (part.lane i).first ≤ c → c ≤ (part.lane i).last → ColumnSeen (readShared slot).heads f c) ∧
      (part.lane i).fadeMisses < (part.lane i).endMisses) ∧
    part.pinholeMd < part.streakStart ∧ (part.mode = .continuous → part.segment ≠ 0)

/-- R150: the five checks on face parts pass when the fields of both are sound. -/
theorem passes_faces :
    (Passes (eachFace fun f => ((laneIndices slot f).map (laneOrderTests f (slotFacePart slot f))).flatten) ∧
        Passes (eachFace fun f =>
          (laneIndices slot f).map (laneCoverTest (readShared slot).heads f (slotFacePart slot f))) ∧
        Passes (eachFace fun f => [streakStartTest f (slotFacePart slot f)]) ∧
        Passes (eachFace fun f => (laneIndices slot f).map (endMissesTest f (slotFacePart slot f))) ∧
        Passes (eachFace fun f => [segmentTest f (slotFacePart slot f)])) ↔
      ∀ f, FaceSound slot f := by
  simp only [passes_eachFace, passes_flatten_map, passes_map, passes_cons, passes_nil, and_true, mem_laneIndices,
    passes_laneOrder, laneCover_passes, streakStart_passes, endMisses_passes, segment_passes]
  simp only [FaceSound, imp_and, forall_and]
  exact ⟨fun ⟨⟨apart, ordered⟩, seen, start, misses, segment⟩ => ⟨⟨ordered, apart, seen, misses⟩, start, segment⟩,
    fun ⟨⟨ordered, apart, seen, misses⟩, start, segment⟩ => ⟨⟨apart, ordered⟩, seen, start, misses, segment⟩⟩

/-! ## A valid slot (R150) -/

/-- R150: a slot is valid when all 13 checks pass, those on heads and those on face parts taken together. -/
theorem validate_none_iff :
    let sp := readShared slot
    validate straps slot = none ↔
      u32 slot 0x004 = 1 ∧ Passes (rangeTests slot) ∧
        (∀ p : Port, sp.heads[p].present = true →
          straps.fitted p = true ∧ sp.heads[p].last ≤ 16383 ∧ (headsBelow sp.heads p).length ≠ 4 ∧
            ∀ q, SameFaceBelow sp.heads p q → ¬Clash sp.heads[p] sp.heads[q]) ∧
        Passes (stationTests sp) ∧ Passes (pairMapTests sp) ∧ ∀ f, FaceSound slot f := by
  intro sp
  rw [validate_none, ← passes_heads, ← passes_faces]
  simp only [checkTests, List.forall_mem_cons, List.not_mem_nil, false_imp_iff, implies_true, passes_cons,
    passes_nil, and_true, and_assoc, ne_eq, decide_not, Bool.not_eq_false', decide_eq_true_eq]
  rfl

/-- Settles O53: the order of the checks, then all checks passed, then the one that failed, each by the lemma about its tests. -/
theorem recipeChecked : Obligations.RecipeChecked := by
  intro straps slot sp base part lane count place head last sameFace clash seen byte half word signed marker sharedInRange
    headInRange laneInRange faceInRange
  have bases : base = facePartOffset := funext fun f => by cases f <;> rfl
  clear_value base
  subst bases
  have places : place = laneAt := funext₂ fun f i => Nat.add_assoc _ _ _
  clear_value place
  subst places
  refine ⟨fun before check after hc hb passed test rest ht hp hf => validate_first hc hb ht hp hf, rfl, ?valid, ?failed⟩
  case valid =>
    have markers : ∀ o, Passes (rangeMarker slot o) ↔ marker o := fun o => by
      simp only [rangeMarker, passes_cons, passes_nil, and_true, within_passes]
      rfl
    have shared : Passes (rangeTiming slot ++ rangePairing slot ++ rangeMarker slot 0x080 ++ rangeMarker slot 0x088) ↔
        sharedInRange := by
      simp only [rangeTiming, rangePairing, passes_append, passes_cons, passes_nil, and_true, and_assoc, markers]
      simp only [within_passes, withinInt_passes]
      rfl
    have lanes : ∀ o, Passes (rangeLane slot o) ↔ laneInRange o := fun o => by
      simp only [rangeLane, passes_cons, passes_nil, and_true, within_passes]
      rfl
    have faces : ∀ f, Passes (rangeFace slot f) ↔ faceInRange f := fun f => by
      have inUse : u8 slot (facePartOffset f + 2) ≤ 12 → laneCount slot f = count f := min_eq_right
      simp only [rangeFace, passes_append, passes_cons, passes_nil, and_true, passes_flatten_map, List.mem_range, and_assoc,
        lanes]
      simp only [within_passes]
      rcases Nat.lt_or_ge 12 (u8 slot (facePartOffset f + 2)) with many | few
      · exact iff_of_false (fun ⟨_, _, ⟨_, few⟩, _⟩ => Nat.not_le.2 many few)
          fun ⟨_, _, ⟨_, few⟩, _⟩ => Nat.not_le.2 many few
      · rw [inUse few]
        rfl
    refine validate_none_iff.trans (and_congr_right' (and_congr ?_ (and_congr_right' (and_congr passes_station
      (and_congr passes_pairMap Iff.rfl)))))
    exact passes_range.trans (and_congr shared (and_congr (forall_congr' fun p => passes_rangeHead) (forall_congr' faces)))
  case failed =>
    intro x hx
    have reported := validate_failsAt hx
    have ordered : x.code = 6 → ∃ p q, x.offset = head p + 2 ∧ sp.heads[p].present = true ∧ sameFace p q ∧ clash p q :=
      fun h => by
        obtain ⟨p, reports, present, q, below, clashes⟩ := failsAt_headOrder.1 (reported 5 h)
        exact ⟨p, q, reports, present, below, clashes⟩
    exact ⟨fun h => failsAt_format.1 (reported 0 h), fun h => failsAt_headPort.1 (reported 2 h),
      fun h => failsAt_headExtent.1 (reported 3 h), fun h => failsAt_headCount.1 (reported 4 h), ordered,
      fun h => failsAt_station.1 (reported 6 h), fun h => failsAt_pairMap (reported 7 h),
      fun h => failsAt_laneOrders.1 (reported 8 h), fun h => failsAt_laneCovers.1 (reported 9 h),
      fun h => failsAt_streakStarts.1 (reported 10 h), fun h => failsAt_endMisses.1 (reported 11 h),
      fun h => failsAt_segments.1 (reported 12 h)⟩

end Sys2Proof.Machine
end

section
/-! SUPPORT. Entry to IDLE, and writes to the halves of XBASE. -/

namespace Sys2Proof.Machine

variable {s : State}

/-! ## The halves of XBASE (R178) -/

/-- The bits of the masks that clear one half of XBASE. -/
theorem halfMask_bits : ∀ i < 32,
    (0xFFFFFFFF00000000#64).getLsbD i = false ∧ (0xFFFFFFFF00000000#64).getLsbD (32 + i) = true ∧
      (0x00000000FFFFFFFF#64).getLsbD i = true ∧ (0x00000000FFFFFFFF#64).getLsbD (32 + i) = false := by decide

theorem replaceXbase_lo (xbase : BitVec 64) (value : Word) :
    (replaceXbase xbase .lo value).extractLsb' 0 32 = value &&& 0xFFFFF000#32 ∧
      (replaceXbase xbase .lo value).extractLsb' 32 32 = xbase.extractLsb' 32 32 := by
  unfold replaceXbase
  generalize value &&& 0xFFFFF000#32 = low
  constructor
  · ext i hi
    obtain ⟨bit, _⟩ := halfMask_bits i hi
    have wide : i < 64 := by omega
    rw [BitVec.getElem_extractLsb', BitVec.getLsbD_or, BitVec.getLsbD_and, Nat.zero_add, bit, BitVec.getLsbD_setWidth]
    simp [wide, hi]
  · ext i hi
    obtain ⟨_, bit, _⟩ := halfMask_bits i hi
    simp [bit]

theorem replaceXbase_hi (xbase : BitVec 64) (value : Word) :
    (replaceXbase xbase .hi value).extractLsb' 0 32 = xbase.extractLsb' 0 32 ∧
      (replaceXbase xbase .hi value).extractLsb' 32 32 = value := by
  unfold replaceXbase
  constructor
  · ext i hi
    obtain ⟨_, _, bit, _⟩ := halfMask_bits i hi
    simp [bit, hi]
  · ext i hi
    obtain ⟨_, _, _, bit⟩ := halfMask_bits i hi
    have wide : 32 + i < 64 := by omega
    rw [BitVec.getElem_extractLsb', BitVec.getLsbD_or, BitVec.getLsbD_and, bit]
    simp [wide, hi]

theorem eq_of_halves {x y : BitVec 64} (lo : x.extractLsb' 0 32 = y.extractLsb' 0 32)
    (hi : x.extractLsb' 32 32 = y.extractLsb' 32 32) : x = y := by
  refine BitVec.eq_of_getLsbD_eq fun i h => ?_
  rcases Nat.lt_or_ge i 32 with low | high
  · have bit := congrArg (fun b : BitVec 32 => b.getLsbD i) lo
    simpa [low] using bit
  · have bit := congrArg (fun b : BitVec 32 => b.getLsbD (i - 32)) hi
    have below : i - 32 < 32 := by omega
    simpa [below, Nat.add_sub_cancel' high] using bit

/-- R178: the write replaces the half it names, and nothing else of XBASE. -/
theorem replaceXbase_eq {half : XbaseHalf} {value : Word} {xbase x : BitVec 64}
    (lo : x.extractLsb' 0 32 = if half = .lo then value &&& 0xFFFFF000#32 else xbase.extractLsb' 0 32)
    (hi : x.extractLsb' 32 32 = if half = .hi then value else xbase.extractLsb' 32 32) :
    replaceXbase xbase half value = x := by
  cases half with
  | lo =>
    obtain ⟨low, high⟩ := replaceXbase_lo xbase value
    exact eq_of_halves (low.trans lo.symm) (high.trans hi.symm)
  | hi =>
    obtain ⟨low, high⟩ := replaceXbase_hi xbase value
    exact eq_of_halves (low.trans lo.symm) (high.trans hi.symm)

/-! ## Entry to IDLE (R161, R181) -/

theorem startSample_inIdle (s : State) : startSample (s.onCu fun c => { c with state := .idle }) = inIdle s := by
  have on : (s.onCu fun c => { c with state := .idle }).cu.state ≠ .off := nofun
  unfold inIdle
  split
  · next sampling => exact startSample_again on sampling
  · next free => exact startSample_fresh on (Option.not_isSome_iff_eq_none.1 free)

theorem enterIdle_enters (ho : s.cu.state = .off) (he : s.xu.enable = true) (hx : s.xu.xbase ≠ 0) :
    enterIdle s = wantStatus (inIdle s) Owed.none := by
  rw [← startSample_inIdle]
  exact if_pos ⟨ho, he, hx⟩

theorem enterIdle_stays (h : s.cu.state ≠ .off ∨ s.xu.enable = false ∨ s.xu.xbase = 0) : enterIdle s = s := by
  refine if_neg fun ⟨off, enable, xbase⟩ => ?_
  rcases h with on | disabled | zero
  · exact on off
  · exact Bool.false_ne_true (disabled.symm.trans enable)
  · exact xbase zero

/-- R161: entry to IDLE sends no limit event. -/
theorem inIdle_limitEvent (s : State) : (wantStatus (inIdle s) Owed.none).cu.limitEvent = s.cu.limitEvent := by
  rw [wantStatus_cu]
  unfold inIdle
  split <;> rfl

/-! ## The write (R178) -/

/-- R178: a write to XBASE is taken in OFF alone. -/
theorem exec_xbaseWrite_on (half : XbaseHalf) (value : Word) (h : s.cu.state ≠ .off) :
    exec (.xbaseWrite half value) s = .next (settle s s) := by
  simp only [exec, execXbaseWrite, h, if_false]

theorem exec_xbaseWrite_off {half : XbaseHalf} {value : Word} {x : BitVec 64} (h : s.cu.state = .off)
    (hx : replaceXbase s.xu.xbase half value = x) :
    exec (.xbaseWrite half value) s = .next (settle s (enterIdle { s with xu := { s.xu with xbase := x } })) := by
  simp only [exec, execXbaseWrite, h, if_true, State.onXu, hx]

/-- Settles O14: by the inspection state, then by the condition for IDLE with the half replaced. -/
theorem xbaseWritten : Obligations.XbaseWritten := by
  intro half value s x hq lo hi written
  have replaced := replaceXbase_eq lo hi
  refine ⟨fun on => ?outside, fun off h => ?stays, fun off enabled nonzero => ?enters⟩
  case outside => exact exec_onlyStatus (exec_xbaseWrite_on half value on) rfl hq.1
  case stays => exact exec_onlyStatus (exec_xbaseWrite_off off replaced) (enterIdle_stays (s := written) (.inr h)) hq.1
  case enters =>
    exact exec_onlyStatus (exec_xbaseWrite_off off replaced) (enterIdle_enters (s := written) off enabled nonzero)
      ((inIdle_limitEvent written).trans hq.1)

end Sys2Proof.Machine
end

section
/-! SUPPORT. A sample that ends with the bytes it found, and the batch copy it may start. -/

namespace Sys2Proof.Machine

variable {s : State}

/-! ## The bytes a sample finds (R181, R195) -/

/-- A word of host memory, low byte first. -/
theorem word32_cons (b0 b1 b2 b3 : Byte) (rest : List Byte) :
    word32 (b0 :: b1 :: b2 :: b3 :: rest) 0 = b3 ++ b2 ++ b1 ++ b0 := by
  have bytes : u32 (b0 :: b1 :: b2 :: b3 :: rest) 0 =
      b0.toNat + 256 * b1.toNat + 65536 * (b2.toNat + 256 * b3.toNat) := rfl
  refine BitVec.eq_of_toNat_eq ?_
  unfold word32
  rw [bytes, BitVec.toNat_ofNat]
  rw [BitVec.toNat_append, BitVec.toNat_append, BitVec.toNat_append, ← Nat.shiftLeft_add_eq_or_of_lt b0.isLt,
    ← Nat.shiftLeft_add_eq_or_of_lt b1.isLt, ← Nat.shiftLeft_add_eq_or_of_lt b2.isLt]
  simp only [Nat.shiftLeft_eq]
  omega

/-! ## A sample that ends (R181) -/

/-- R181: a sample that ends leaves none in progress, but for the repeat that is marked, which starts outside OFF. -/
theorem endSample_eq (s : State) :
    let again : Bool := s.xu.resample && decide (s.cu.state ≠ .off)
    endSample s =
      { s with
        xu := { s.xu with sample := if again then some 0 else none, resample := false }
        out := s.out ++ if again then [.busRead s.xu.xbase 8, .busRead (s.xu.xbase + 0x400#64) 4] else [] } := by
  intro again
  cases hr : s.xu.resample with
  | false =>
    have single : again = false := by simp [again, hr]
    have ended : endSample s = sampleOver s := if_neg (Bool.eq_false_iff.1 hr)
    rw [ended, single, if_neg Bool.false_ne_true, if_neg Bool.false_ne_true, List.append_nil]
    rfl
  | true =>
    rw [endSample_marked hr]
    by_cases ho : s.cu.state = .off
    · have stops : again = false := by simp [again, ho]
      have none : startSample (sampleOver s) = sampleOver s := if_pos ho
      rw [none, stops, if_neg Bool.false_ne_true, if_neg Bool.false_ne_true, List.append_nil]
      rfl
    · have repeats : again = true := by simp [again, ho, hr]
      rw [startSample_fresh (s := sampleOver s) ho rfl, repeats, if_pos rfl, if_pos rfl]
      rfl

/-- R182: the batch copy that is started where it is wanted. -/
theorem startCopy_if (b : Bool) (s : State) (generation count : Word) :
    (if b then startCopy s generation count else s) =
      { s with
        xu := { s.xu with copy := if b then some { generation := generation, count := count, waited := 0 } else s.xu.copy }
        out := s.out ++ if b then [.busRead (s.xu.xbase + 0x40#64) 512] else [] } := by
  cases b
  · simp
  · rfl

/-- R183: the stock re-read that is started where it is wanted. -/
theorem startReread_if (b : Bool) (s : State) (written : Word) :
    (if b then startReread s written else s) =
      { s with
        xu := { s.xu with reread := if b then some { written := written, waited := 0 } else s.xu.reread }
        out := s.out ++ if b then [.busRead (s.xu.xbase + 0x410#64) 256] else [] } := by
  cases b
  · simp
  · rfl

theorem bne_eq_decide_ne {α : Type} [DecidableEq α] (a b : α) : (a != b) = decide (a ≠ b) := by
  rw [bne, decide_not]
  rfl

theorem copyWanted_eq (s : State) (generation : Word) :
    copyWanted s generation =
      (decide (s.cu.state ≠ .off) && decide (generation ≠ s.xu.taken) && s.cu.batch.isNone && s.xu.copy.isNone
        && !resultsUnwritten s.xu) := by
  rw [← bne_eq_decide_ne, ← bne_eq_decide_ne]
  rfl

theorem rereadWanted_eq (s : State) (written : Word) :
    rereadWanted s written =
      (decide (s.cu.state ≠ .off) && decide (written ≠ s.xu.seenWritten) && s.xu.reread.isNone) := by
  rw [← bne_eq_decide_ne, ← bne_eq_decide_ne]
  rfl

theorem completeSample_sampling (generation count written : Word) (h : s.xu.sample.isSome = true) :
    completeSample s generation count written =
      let copied := if copyWanted s generation then startCopy s generation count else s
      endSample (if rereadWanted s written then startReread copied written else copied) := if_pos h

theorem completeSample_none (generation count written : Word) (h : s.xu.sample = none) :
    completeSample s generation count written = s := by
  refine if_neg ?_
  rw [h]
  exact Bool.false_ne_true

/-- Settles O39: the fields as they are read, then the copy, the re-read and the repeat, each where it is wanted. -/
theorem sampleCompletes : Obligations.SampleCompletes := by
  intro g0 g1 g2 g3 c0 c1 c2 c3 w0 w1 w2 w3 s hq command generation count written copies rereads again
  have reads : exec command s = .next (settle s (completeSample s generation count written)) := by
    have readGeneration : generation = _ := (word32_cons g0 g1 g2 g3 [c0, c1, c2, c3]).symm
    have readCount : count = _ := (word32_cons c0 c1 c2 c3 []).symm
    have readWritten : written = _ := (word32_cons w0 w1 w2 w3 []).symm
    rw [readGeneration, readCount, readWritten]
    rfl
  refine ⟨fun sampling => ?_, fun none => exec_onlyStatus reads (completeSample_none _ _ _ none) hq.1⟩
  refine exec_onlyStatus reads ((completeSample_sampling generation count written sampling).trans ?_) hq.1
  rw [copyWanted_eq, rereadWanted_eq]
  dsimp only
  rw [startCopy_if, startReread_if, endSample_eq]

/-! ## The batch copy (R167, R182) -/

theorem completeCopy_none (entries : OrderListBytes) (h : s.xu.copy = none) : completeCopy s entries = s := by
  unfold completeCopy
  rw [h]

/-- Log 11: in OFF the part takes no batch. -/
theorem completeCopy_off {c : BatchCopy} (entries : OrderListBytes) (h : s.xu.copy = some c) (ho : s.cu.state = .off) :
    completeCopy s entries = { s with xu := { s.xu with copy := none } } := by
  unfold completeCopy
  rw [h]
  exact if_pos ho

theorem completeCopy_on {c : BatchCopy} (entries : OrderListBytes) (h : s.xu.copy = some c) (ho : s.cu.state ≠ .off) :
    completeCopy s entries = handBatch { s with xu := { s.xu with copy := none } } c.generation c.count entries := by
  unfold completeCopy
  rw [h]
  exact if_neg ho

theorem countValid_iff (count : Word) : countValid count = true ↔ 1 ≤ count.toNat ∧ count.toNat ≤ 16 := by
  unfold countValid Config.listEntries
  rw [Bool.and_eq_true, decide_eq_true_eq, decide_eq_true_eq]

/-- Settles O40: by the inspection state and by the count the sample read. -/
theorem batchCopyCompletes : Obligations.BatchCopyCompletes := by
  intro entries s hq
  refine ⟨fun c hc => ⟨fun ho h1 h16 => ?handed, fun ho bad => ?refused, fun ho => ?off⟩, fun none => ?nothing⟩
  case handed =>
    exact exec_onlyStatus rfl ((completeCopy_on entries hc ho).trans (if_pos ((countValid_iff _).2 ⟨h1, h16⟩))) hq.1
  case refused =>
    intro ended
    have invalid : ¬countValid c.count = true := fun h => by
      obtain ⟨h1, h16⟩ := (countValid_iff _).1 h
      omega
    refine exec_onlyStatus rfl ((completeCopy_on entries hc ho).trans (if_neg invalid)) ?_
    exact (congrArg ControlUnit.limitEvent (wantStatus_cu ended owesOrders)).trans hq.1
  case off => exact exec_onlyStatus rfl (completeCopy_off entries hc ho) hq.1
  case nothing => exact exec_onlyStatus rfl (completeCopy_none entries none) hq.1

end Sys2Proof.Machine
end

section
/-! SUPPORT. A post that has succeeded, and what it means to close-out. -/

namespace Sys2Proof.Machine

variable {s : State}

/-! ## A post that has succeeded (R165, R187) -/

theorem postDone_cu (s : State) (p : Posting) : (postDone s p).cu = s.cu := wantStatus_cu _ _

theorem postDone_stands (s : State) (p : Posting) :
    (postDone s p).ru = s.ru ∧ (postDone s p).xu.filling = s.xu.filling ∧ (postDone s p).xu.posting = none := by
  obtain ⟨xu, out, e, same⟩ := wantStatus_exchange
    (s.onXu fun x => { x with posting := none, lastPosted := p.page.address, nextPage := x.nextPage + 1 }) owesPosted
  have posted : postDone s p = _ := e
  rw [posted]
  exact ⟨rfl, same.filling, same.posting⟩

theorem completePost_posting {p : Posting} (h : s.xu.posting = some p) :
    completePost s = afterPost (postDone s p) true := by
  unfold completePost
  rw [h]

theorem completePost_none (h : s.xu.posting = none) : completePost s = s := by
  unfold completePost
  rw [h]

/-- R165: the final post that was written ends close-out. -/
theorem afterPost_written (h : s.cu.phase = .final) : afterPost s true = closeoutEnded s := by
  unfold afterPost
  rw [if_pos h, ← endCloseout_eq]
  rfl

theorem drained_iff : drained s = true ↔ s.ru.abandoned = true ∨ s.ru.queue = [] ∧ s.ru.tallyOpen = false := by
  simp [drained]

/-- Settles O34: by the phase of close-out, and in its drain by what is left to drain and by the page in hand. -/
theorem postSucceeds : Obligations.PostSucceeds := by
  intro s hq
  refine ⟨fun p hp => ?_, fun none => exec_onlyStatus rfl (completePost_none none) hq.1⟩
  intro u emptied
  have done : completePost s = afterPost u true := completePost_posting hp
  have control : u.cu = s.cu := postDone_cu s p
  obtain ⟨records, filling, posting⟩ : u.ru = s.ru ∧ u.xu.filling = s.xu.filling ∧ u.xu.posting = none := postDone_stands s p
  have quiet : u.cu.limitEvent = false := (congrArg ControlUnit.limitEvent control).trans hq.1
  have checks : s.cu.phase ≠ .final → completePost s = closeoutCheck u := fun h =>
    done.trans (afterPost_drains true (by rw [control]; exact h))
  have drains : drained u = true ↔ emptied := by rw [drained_iff, records]
  refine ⟨fun phase rest => ?stands, fun phase => ?final, fun state phase empty => ⟨fun bare => ?ends, fun page hf hr => ?posts⟩⟩
  case stands =>
    refine exec_onlyStatus rfl ((checks phase).trans ?_) quiet
    rw [← control, or_assoc.symm] at rest
    rcases rest with outside | waiting
    · exact closeoutCheck_outside outside
    · exact closeoutCheck_undrained (Bool.eq_false_iff.2 fun h => waiting (drains.1 h))
  case final =>
    refine exec_onlyStatus rfl (done.trans (afterPost_written (by rw [control]; exact phase))) ?_
    exact (closeoutEnded_limitEvent u).trans quiet
  case ends =>
    refine exec_onlyStatus rfl ((checks (by rw [phase]; exact nofun)).trans ?_) ((closeoutEnded_limitEvent u).trans quiet)
    rw [← control] at state phase
    exact closeoutCheck_ends state phase posting (drains.2 empty) (by rw [filling]; exact bare)
  case posts =>
    intro v
    refine exec_onlyStatus rfl ((checks (by rw [phase]; exact nofun)).trans ?_) quiet
    have reason : finalReason u = if s.ru.abandoned ∨ s.cu.endReason = some .halt then .halt else .rollEnd := by
      unfold finalReason
      rw [records, control]
    rw [← control] at state phase
    rw [closeoutCheck_posts state phase posting (drains.2 empty) (filling.trans hf) hr, reason]
    rfl

end Sys2Proof.Machine
end

section
/-! SUPPORT. Entry to CLOSING and the end of a step outside a roll: every block as it then stands. -/

namespace Sys2Proof.Machine

variable {s t u : State} {f : Face}

/-! ## Reporting and updates of one face -/

theorem OnlyReporting.onMu (h : OnlyReporting s t) (g : MotionUnit → MotionUnit) : OnlyReporting (s.onMu g) (t.onMu g) := by
  obtain ⟨pending, straps, pins, ⟨mu, lu, rx⟩, defects, rs⟩ := h
  exact ⟨pending, straps, pins, ⟨congrArg g mu, lu, rx⟩, defects, rs⟩

theorem OnlyReporting.onMuFace (h : OnlyReporting s t) (f : Face) (g : MuFace → MuFace) :
    OnlyReporting (s.onMuFace f g) (t.onMuFace f g) := h.onMu _

theorem OnlyReporting.onRxFace (h : OnlyReporting s t) (f : Face) (g : RxFace → RxFace) :
    OnlyReporting (s.onRxFace f g) (t.onRxFace f g) := by
  obtain ⟨pending, straps, pins, ⟨mu, lu, rx⟩, defects, rs⟩ := h
  exact ⟨pending, straps, pins, ⟨mu, lu, congrArg (fun x : PerFace RxFace => x.modify f g) rx⟩, defects, rs⟩

theorem OnlyReporting.onSmFace (h : OnlyReporting s t) (f : Face) (g : SmFace → SmFace) :
    OnlyReporting (s.onSmFace f g) (t.onSmFace f g) := by
  obtain ⟨pending, straps, pins, web, ⟨te, sm, pu⟩, rs⟩ := h
  exact ⟨pending, straps, pins, web, ⟨te, congrArg (fun x : PerFace SmFace => x.modify f g) sm, pu⟩, rs⟩

theorem OnlyReporting.onTeFace (h : OnlyReporting s t) (f : Face) (g : TeFace → TeFace) :
    OnlyReporting (s.onTeFace f g) (t.onTeFace f g) := by
  obtain ⟨pending, straps, pins, web, ⟨te, sm, pu⟩, rs⟩ := h
  exact ⟨pending, straps, pins, web,
    ⟨congrArg (fun x : TrackEngine => { x with faces := x.faces.modify f g }) te, sm, pu⟩, rs⟩

/-! ## The Exchange Unit as records are taken -/

/-- Of the Exchange Unit only the attention flags and the outstanding level have changed. -/
def OnlyFlags (s t : State) : Prop :=
  t.xu = { s.xu with flags := t.xu.flags, outstanding := t.xu.outstanding }

theorem OnlyFlags.refl (s : State) : OnlyFlags s s := rfl

theorem OnlyFlags.trans (h : OnlyFlags s t) (k : OnlyFlags t u) : OnlyFlags s u := by
  unfold OnlyFlags at h k ⊢
  rw [k, h]

theorem OnlyFlags.enable (h : OnlyFlags s t) : t.xu.enable = s.xu.enable := by rw [h]
theorem OnlyFlags.filling (h : OnlyFlags s t) : t.xu.filling = s.xu.filling := by rw [h]
theorem OnlyFlags.statusWrite (h : OnlyFlags s t) : t.xu.statusWrite = s.xu.statusWrite := by rw [h]
theorem OnlyFlags.posting (h : OnlyFlags s t) : t.xu.posting = s.xu.posting := by rw [h]

theorem foldl_flags {α : Type} (g : State → α → State) (hg : ∀ u x, OnlyFlags u (g u x)) (l : List α) (s : State) :
    OnlyFlags s (l.foldl g s) := by
  induction l generalizing s with
  | nil => exact .refl s
  | cons x rest ih => exact (hg s x).trans (ih _)

theorem raise_flags (s : State) (c : Cause) : OnlyFlags s (raise s c) := by
  rw [raise_eq]
  rfl

theorem issue_flags (s : State) (body : RecordBody) : OnlyFlags s (issue s body) := by
  obtain ⟨ru, limit, placed⟩ := recordPlaced_frame s body
  rw [issue_eq, placed]
  cases body
  case fault code subject first last count =>
    rw [countRecord_fault]
    exact raise_flags _ _
  all_goals rfl

theorem issueTally_flags (s : State) (code : FaultCode) (f : Face) (tally : Tally) :
    OnlyFlags s (issueTally s code f tally) := by
  unfold issueTally
  split
  · exact .refl s
  · exact issue_flags s _

theorem issueTally_ku (s : State) (code : FaultCode) (f : Face) (tally : Tally) :
    (issueTally s code f tally).ku = s.ku := by
  unfold issueTally
  split
  · rfl
  · exact issue_ku s _

theorem payOwed_flags (s : State) (owed : Owed) : OnlyFlags s (payOwed s owed) := by
  obtain ⟨posted, orders⟩ := owed
  rw [payOwed_eq]
  cases posted <;> cases orders
  · exact .refl s
  · exact raise_flags s _
  · exact raise_flags s _
  · exact (raise_flags s _).trans (raise_flags _ _)

theorem wantStatus_enable (s : State) (owed : Owed) : (wantStatus s owed).xu.enable = s.xu.enable := by
  unfold wantStatus beginStatus
  split
  · rfl
  · split
    · exact (payOwed_flags s owed).enable
    · rfl

/-! ## Entry to CLOSING (R163) -/

/-- R163: the Control Unit has entered CLOSING; no block has acted on it yet. -/
def closingSet (s : State) (reason : EndReason) : State :=
  s.onCu fun c => { c with state := .closing, endReason := some reason, phase := .waiting }

/-- R7, R9, R163: the skip stretches are reported and the edges begun discarded. -/
def closingBegun (s : State) (reason : EndReason) : State :=
  discardBegun (closeSkip (closeSkip (closingSet s reason) .upper) .lower)

/-- R7, R9, R163: skip stretches closed and edges begun discarded, without the reports of the stretches. -/
def closingFaces (s : State) (reason : EndReason) : State :=
  { s with
    cu := { s.cu with state := .closing, endReason := some reason, phase := .waiting }
    mu :=
      { s.mu with
        spliceBegun := none
        faces :=
          { upper := { s.mu.faces.upper with skip := Tally.empty, begun := none }
            lower := { s.mu.faces.lower with skip := Tally.empty, begun := none } } } }

theorem onMuFace_both (s : State) (g h : MuFace → MuFace) :
    (s.onMuFace .upper g).onMuFace .lower h =
      { s with mu := { s.mu with faces := { upper := g s.mu.faces.upper, lower := h s.mu.faces.lower } } } := rfl

theorem closingFaces_eq (s : State) (reason : EndReason) :
    discardBegun
        (((closingSet s reason).onMuFace .upper fun m => { m with skip := Tally.empty }).onMuFace .lower fun m =>
          { m with skip := Tally.empty }) =
      closingFaces s reason := by
  unfold discardBegun
  rw [onMuFace_both, onMuFace_both]
  rfl

/-- R163: the roll in CLOSING, its lines assembled, before the status block write is asked for. -/
def closingEntered (s : State) (reason : EndReason) : State :=
  discardPending (assembleAll (assembleAll (closingBegun s reason) .upper) .lower)

theorem enterClosing_eq (hi : s.inspecting = true) (reason : EndReason) :
    enterClosing s reason = wantStatus (closingEntered s reason) Owed.none := if_pos hi

theorem closeSkip_reporting (s : State) (f : Face) :
    OnlyReporting (s.onMuFace f fun m => { m with skip := Tally.empty }) (closeSkip s f) := issueTally_reporting _ _ _ _

theorem closeSkip_flags (s : State) (f : Face) : OnlyFlags s (closeSkip s f) := issueTally_flags _ _ _ _

theorem closeSkip_ku (s : State) (f : Face) : (closeSkip s f).ku = s.ku := issueTally_ku _ _ _ _

theorem discardBegun_aside (h : Aside s t) : Aside s (discardBegun t) :=
  onMu_aside (onMuFace_aside (onMuFace_aside h _ _) _ _) _

theorem discardBegun_flags (s : State) : OnlyFlags s (discardBegun s) := rfl
theorem discardBegun_ku (s : State) : (discardBegun s).ku = s.ku := rfl

theorem discardBegun_reporting (h : OnlyReporting s t) : OnlyReporting (discardBegun s) (discardBegun t) :=
  ((h.onMuFace .upper _).onMuFace .lower _).onMu _

theorem closingBegun_aside (s : State) (reason : EndReason) : Aside (closingSet s reason) (closingBegun s reason) :=
  discardBegun_aside (closeSkip_aside (closeSkip_aside (Aside.refl _) _) _)

theorem closingBegun_flags (s : State) (reason : EndReason) : OnlyFlags s (closingBegun s reason) := by
  have entered : OnlyFlags s (closingSet s reason) := rfl
  exact entered.trans ((closeSkip_flags _ .upper).trans ((closeSkip_flags _ .lower).trans (discardBegun_flags _)))

theorem closingBegun_ku (s : State) (reason : EndReason) : (closingBegun s reason).ku = s.ku := by
  unfold closingBegun
  rw [discardBegun_ku, closeSkip_ku, closeSkip_ku]
  rfl

theorem closingBegun_reporting (s : State) (reason : EndReason) :
    OnlyReporting (closingFaces s reason) (closingBegun s reason) := by
  rw [← closingFaces_eq]
  exact discardBegun_reporting (((closeSkip_reporting _ .upper).onMuFace .lower _).trans (closeSkip_reporting _ .lower))

theorem closingBegun_outside (s : State) (reason : EndReason) : (closingBegun s reason).inspecting = false :=
  closing_inspecting (closingBegun_aside s reason).state

/-- R42, R158, R163: after the reports of the skip stretches the lines still unassembled change the Link Unit alone, and the pending
parts the Recipe Store alone. -/
theorem closingEntered_frame (s : State) (reason : EndReason) :
    ∃ lu, closingEntered s reason = { discardPending (closingBegun s reason) with lu := lu } := by
  have outside := closingBegun_outside s reason
  have upper := assembleAll_links outside .upper
  obtain ⟨lu, lines⟩ := upper.trans (assembleAll_links (upper.inspecting outside) .lower)
  exact ⟨lu, congrArg discardPending lines⟩

/-- R163: entry to CLOSING, block by block, but for the Link Unit and what the status block write changes. -/
theorem enterClosing_blocks (hi : s.inspecting = true) (reason : EndReason) :
    let t := enterClosing s reason
    let v := closingBegun s reason
    t.cu = v.cu ∧ t.mu = v.mu ∧ t.rx = v.rx ∧ SameDefects v t ∧ t.ku = v.ku ∧ t.rs = (discardPending v).rs := by
  obtain ⟨lu, entered⟩ := closingEntered_frame s reason
  obtain ⟨xu, out, written, _⟩ := wantStatus_exchange (closingEntered s reason) Owed.none
  dsimp only
  generalize closingBegun s reason = v at entered ⊢
  rw [enterClosing_eq hi, written, entered]
  exact ⟨rfl, rfl, rfl, ⟨rfl, rfl, rfl⟩, rfl, rfl⟩

theorem enterClosing_muFace (hi : s.inspecting = true) (reason : EndReason) (f : Face) :
    (enterClosing s reason).muFace f = { s.muFace f with skip := Tally.empty, begun := none } := by
  obtain ⟨_, entered, _⟩ := enterClosing_blocks hi reason
  obtain ⟨_, _, _, ⟨mu, _, _⟩, _, _⟩ := closingBegun_reporting s reason
  have faces : (closingFaces s reason).muFace f = { s.muFace f with skip := Tally.empty, begun := none } := by
    cases f <;> rfl
  rw [State.muFace, entered, mu]
  exact faces

theorem enterClosing_batch (s : State) (reason : EndReason) : (enterClosing s reason).cu.batch = s.cu.batch := by
  cases hi : s.inspecting with
  | false => rw [enterClosing_ignored hi]
  | true =>
    obtain ⟨cu, _⟩ := enterClosing_blocks hi reason
    obtain ⟨capture, limit, control⟩ := (closingBegun_aside s reason).cu
    rw [cu, control]
    rfl

theorem enterClosing_enable (s : State) (reason : EndReason) : (enterClosing s reason).xu.enable = s.xu.enable := by
  cases hi : s.inspecting with
  | false => rw [enterClosing_ignored hi]
  | true =>
    obtain ⟨lu, entered⟩ := closingEntered_frame s reason
    rw [enterClosing_eq hi, wantStatus_enable, entered]
    exact (closingBegun_flags s reason).enable

/-- R189: while a write is in progress, entry to CLOSING asks for one further write. -/
theorem enterClosing_write (hi : s.inspecting = true) (hw : s.xu.statusWrite.isSome = true) (reason : EndReason) :
    (enterClosing s reason).xu.statusWrite = s.xu.statusWrite ∧
      (enterClosing s reason).xu.statusWanted.isSome = true := by
  obtain ⟨lu, entered⟩ := closingEntered_frame s reason
  have write : (closingEntered s reason).xu.statusWrite = s.xu.statusWrite := by
    rw [entered]
    exact (closingBegun_flags s reason).statusWrite
  rw [enterClosing_eq hi, wantStatus_notes _ (by rw [write]; exact hw)]
  exact ⟨write, rfl⟩

/-- R163: what entry to CLOSING leaves of the roll. -/
theorem enterClosing_enters (hi : s.inspecting = true) (reason : EndReason) :
    EntersClosing reason s (enterClosing s reason) := by
  obtain ⟨cu, mu, rx, ⟨te, sm, pu⟩, ku, rs⟩ := enterClosing_blocks hi reason
  obtain ⟨_, _, _, ⟨mu', _, rx'⟩, ⟨te', sm', pu'⟩, _⟩ := closingBegun_reporting s reason
  obtain ⟨capture, limit, control⟩ := (closingBegun_aside s reason).cu
  have faces := enterClosing_muFace hi reason
  refine ⟨?state, ?reason, ?phase, ?splice, fun f => ⟨enterClosing_closed hi reason f, ?begun, ?skip, ?pending⟩,
    rx.trans rx', ⟨te.trans te', sm.trans sm', pu.trans pu'⟩, ku.trans (closingBegun_ku s reason)⟩
  case state => rw [cu, control]; rfl
  case reason => rw [cu, control]; rfl
  case phase => rw [cu, control]; rfl
  case splice => rw [mu, mu']; rfl
  case begun => rw [faces]
  case skip => rw [faces]
  case pending =>
    rw [State.rsFace, rs]
    cases f <;> rfl

/-! ## The end of a step outside a roll -/

/-- R163: outside RUNNING and STOPPING a limit event that waits is ignored. -/
theorem settle_outside (before : State) (hi : s.inspecting = false) :
    ∃ changed, settle before s =
      { s with cu := { s.cu with limitEvent := false }, xu := { s.xu with changed := changed } } := by
  obtain ⟨changed, e⟩ := markChanged_eq before (takeLimit s)
  refine ⟨changed, e.trans ?_⟩
  rw [takeLimit_ignored hi]

theorem EntersClosing.settled {reason : EndReason} (before : State) (h : EntersClosing reason s t) :
    EntersClosing reason s (settle before t) := by
  obtain ⟨changed, e⟩ := settle_outside before (closing_inspecting h.1)
  rw [e]
  exact h

theorem inspecting_iff : s.inspecting = true ↔ s.cu.state = .running ∨ s.cu.state = .stopping := by
  unfold State.inspecting
  cases s.cu.state <;> decide

/-! ## PCTL.ENABLE (R161, R163, R179) -/

theorem exec_enableClear (s : State) :
    exec .enableClear s =
      let disabled : State := { s with xu := { s.xu with enable := false } }
      .next
        (settle s
          (if s.cu.state = .idle then goOff disabled
          else if s.inspecting then enterClosing disabled .halt else disabled)) := by
  unfold exec execEnableClear State.inspecting
  cases s.cu.state <;> rfl

/-- Settles O15: by the inspection state at each of the two writes. -/
theorem enableWritten : Obligations.EnableWritten := by
  intro s hq enabled
  have clears := exec_enableClear s
  refine ⟨fun off nonzero => ?enters, fun h => ?sets, fun idle => ?goesOff, fun roll => ?halts, fun rest => ?clears⟩
  case enters =>
    exact exec_onlyStatus rfl (enterIdle_enters (s := enabled) off rfl nonzero) ((inIdle_limitEvent enabled).trans hq.1)
  case sets => exact exec_onlyStatus rfl (enterIdle_stays (s := enabled) (h.imp_right .inr)) hq.1
  case goesOff =>
    refine exec_onlyStatus clears (if_pos idle) ?_
    rw [wantStatus_cu]
    exact hq.1
  case halts =>
    let disabled : State := { s with xu := { s.xu with enable := false } }
    have hi : s.inspecting = true := inspecting_iff.2 roll
    have busy : s.cu.state ≠ .idle := fun idle => by
      rw [idle] at roll
      exact roll.elim nofun nofun
    dsimp only at clears
    rw [if_neg busy, if_pos hi] at clears
    have entered : EntersClosing .halt s (enterClosing disabled .halt) := enterClosing_enters (s := disabled) hi .halt
    refine ⟨_, clears, ?_, entered.settled s⟩
    obtain ⟨changed, e⟩ := settle_outside s (closing_inspecting entered.1)
    rw [e]
    exact enterClosing_enable disabled .halt
  case clears =>
    have quiet : s.inspecting = false := by
      unfold State.inspecting
      rcases rest with closing | off
      · rw [closing]
      · rw [off]
    have busy : s.cu.state ≠ .idle := fun idle => by
      rw [idle] at rest
      exact rest.elim nofun nofun
    exact exec_onlyStatus clears ((if_neg busy).trans (if_neg (Bool.eq_false_iff.1 quiet))) hq.1

end Sys2Proof.Machine
end

section
/-! SUPPORT. What losing the waiting records and the check of step 7 can change, and the orders `stop` and `halt`. -/

namespace Sys2Proof.Machine

variable {s t u : State} {f : Face}

/-! ## The abandon mark acts (R145, R165, R170) -/

/-- R141, R144: of the Record Unit, records that are lost change the loss tally and the lost record total alone. -/
theorem loseRecords_frame (s : State) (records : List Record) :
    ∃ tally runs scattered lost, loseRecords s records =
      { s with ru := { s.ru with tallyOpen := tally, runs := runs, scattered := scattered, lostTotal := lost } } := by
  have joined : ∀ (r : RecordUnit) (x : Record) (h : Int), ∃ tally runs scattered,
      joinLoss r x.seq h x.body = { r with tallyOpen := tally, runs := runs, scattered := scattered } := fun r x h => by
    unfold joinLoss
    split
    · exact ⟨_, _, _, rfl⟩
    · split <;> exact ⟨_, _, _, rfl⟩
  induction records generalizing s with
  | nil => exact ⟨_, _, _, _, rfl⟩
  | cons x later ih =>
    obtain ⟨tally, runs, scattered, e⟩ := joined s.ru x s.mu.h
    have first : loseRecord s x = { s with ru := { s.ru with
        tallyOpen := tally, runs := runs, scattered := scattered, lostTotal := bump32 s.ru.lostTotal } } := by
      simp only [loseRecord, State.onRu, e]
    obtain ⟨tally', runs', scattered', lost', e'⟩ := ih (loseRecord s x)
    refine ⟨tally', runs', scattered', lost', e'.trans ?_⟩
    rw [first]

/-- R165: the check of step 7 changes the inspection state and the phase of close-out, the Exchange Unit and what is sent. -/
theorem closeoutCheck_frame (s : State) :
    ∃ state phase xu out, closeoutCheck s =
      { s with cu := { s.cu with state := state, phase := phase }, xu := xu, out := out } := by
  have posts : ∀ reason, ∃ xu out, beginPost s reason = { s with xu := xu, out := out } := fun reason => by
    unfold beginPost
    split
    · exact ⟨_, _, rfl⟩
    · split <;> exact ⟨_, _, rfl⟩
  unfold closeoutCheck
  split
  · split
    · obtain ⟨xu, out, e⟩ := posts (finalReason s)
      rw [e]
      exact ⟨_, _, _, _, rfl⟩
    · rw [endCloseout_eq]
      unfold closeoutEnded
      obtain ⟨xu, out, e, _⟩ := wantStatus_exchange { s with
        cu := { s.cu with state := if s.xu.enable then .idle else .off, phase := .notClosing }
        xu := if s.xu.enable then s.xu else { s.xu with pollCount := 0, pollDue := false } } Owed.none
      rw [e]
      exact ⟨_, _, _, _, rfl⟩
  · exact ⟨_, _, _, _, rfl⟩

/-- R165: a post in progress holds close-out open (log 13). -/
theorem closeoutCheck_posting (h : s.xu.posting.isSome = true) : closeoutCheck s = s := by
  refine if_neg fun ⟨_, _, idle, _⟩ => ?_
  rw [Option.isNone_iff_eq_none.1 idle] at h
  cases h

/-- R145, R170: the waiting records have been given up. -/
def recordsGivenUp (s : State) : State := loseRecords (s.onRu fun r => { r with queue := [], abandoned := true }) s.ru.queue

theorem actAbandon_eq (s : State) : actAbandon s = closeoutCheck (recordsGivenUp s) := rfl

/-- R145: the Record Unit once the abandon mark has acted: the queue is empty and the mark stands as having acted, and no number has been
given since `r`. -/
def GivenUp (r v : RecordUnit) : Prop :=
  v.queue = [] ∧ v.abandoned = true ∧ v.nextSeq = r.nextSeq ∧ v.rollEndTaken = r.rollEndTaken

theorem recordsGivenUp_frame (s : State) : ∃ ru, recordsGivenUp s = { s with ru := ru } ∧ GivenUp s.ru ru := by
  obtain ⟨tally, runs, scattered, lost, given⟩ :=
    loseRecords_frame (s.onRu fun r => { r with queue := [], abandoned := true }) s.ru.queue
  exact ⟨_, given, rfl, rfl, rfl, rfl⟩

/-- R145, R165, R170: the abandon mark gives the waiting records up, and the check of step 7 follows. -/
theorem actAbandon_frame (s : State) :
    ∃ state phase xu out ru, actAbandon s =
      { s with cu := { s.cu with state := state, phase := phase }, xu := xu, out := out, ru := ru } ∧ GivenUp s.ru ru := by
  obtain ⟨state, phase, xu, out, checked⟩ := closeoutCheck_frame (recordsGivenUp s)
  obtain ⟨ru, given, records⟩ := recordsGivenUp_frame s
  refine ⟨state, phase, xu, out, ru, ?_, records⟩
  rw [actAbandon_eq, checked, given]

/-- R170: with a final post begun or a post in progress the mark leaves close-out where it stands. -/
theorem actAbandon_holds (h : s.cu.phase = .final ∨ s.xu.posting.isSome = true) :
    (actAbandon s).cu = s.cu ∧ (actAbandon s).xu = s.xu := by
  obtain ⟨ru, given, _⟩ := recordsGivenUp_frame s
  have stays : closeoutCheck (recordsGivenUp s) = recordsGivenUp s := by
    rw [given]
    rcases h with final | posting
    · exact closeoutCheck_outside (.inr (by rw [final]; exact nofun))
    · exact closeoutCheck_posting posting
  rw [actAbandon_eq, stays, given]
  exact ⟨rfl, rfl⟩

/-- R165, R170: in step 7 with no post in progress the mark ends close-out, or begins the final post of a page with records. -/
theorem actAbandon_ends (hs : s.cu.state = .closing) (hp : s.cu.phase = .drain) (hx : s.xu.posting = none) :
    AbandonEnds s (actAbandon s) := by
  obtain ⟨ru, given, _, acted, _⟩ := recordsGivenUp_frame s
  rw [actAbandon_eq, given]
  have empty : drained { s with ru := ru } = true := drained_abandoned acted
  refine ⟨fun bare => ?_, fun page hf records => ?_⟩
  · rw [closeoutCheck_ends (s := { s with ru := ru }) hs hp hx empty bare]
    unfold closeoutEnded
    rw [wantStatus_cu]
    exact ⟨rfl, rfl⟩
  · have reason : finalReason { s with ru := ru } = .halt := if_pos (.inl acted)
    rw [closeoutCheck_posts (s := { s with ru := ru }) hs hp hx empty hf records, reason]
    exact ⟨hs, rfl, rfl, rfl⟩

/-- The end of close-out by the abandon mark is judged by the page in hand and ENABLE before, and by the state, the phase and the pages
after. -/
theorem AbandonEnds.congr {s' t' : State} (h : AbandonEnds s t) (enable : s'.xu.enable = s.xu.enable)
    (before : s'.xu.filling = s.xu.filling) (state : t'.cu.state = t.cu.state) (phase : t'.cu.phase = t.cu.phase)
    (filling : t'.xu.filling = t.xu.filling) (posting : t'.xu.posting = t.xu.posting) : AbandonEnds s' t' := by
  unfold AbandonEnds at h ⊢
  rw [enable, before, state, phase, filling, posting]
  exact h

/-! ## The end of an order in a roll (R167) -/

theorem endOrder_ended (result : OrderResult) (hb : u.cu.batch.isSome = true) : OrderEnded u result (endOrder u result) := by
  obtain ⟨b, e⟩ := Option.isSome_iff_exists.1 hb
  unfold OrderEnded endOrder
  rw [e]
  dsimp only
  split <;> exact .refl _

/-- R167, R189: the end of an order leaves a status block write in progress, and a further one that is wanted stays wanted. -/
theorem endOrder_write (result : OrderResult) (hw : u.xu.statusWrite.isSome = true) :
    (endOrder u result).xu.statusWrite = u.xu.statusWrite ∧
      (u.xu.statusWanted.isSome = true → (endOrder u result).xu.statusWanted.isSome = true) := by
  unfold endOrder
  split
  · exact ⟨rfl, id⟩
  · dsimp only
    split
    · exact ⟨rfl, id⟩
    · unfold finishBatch
      rw [wantStatus_notes _ (by exact hw)]
      exact ⟨rfl, fun _ => rfl⟩

theorem EntersClosing.framed {reason : EndReason} (h : EntersClosing reason s t) (k : OrderFrame t u) :
    EntersClosing reason s u := by
  unfold EntersClosing SameDefects State.luFace State.muFace State.rsFace at h ⊢
  rw [k.cu, k.mu, k.lu, k.rs, k.rx, k.te, k.sm, k.pu, k.ku]
  exact h

theorem ResultNoted.settled {b : Batch} {result : OrderResult} (before : State) (hi : t.inspecting = false)
    (h : ResultNoted b result t) : ResultNoted b result (settle before t) := by
  obtain ⟨changed, e⟩ := settle_outside before hi
  rw [e]
  exact h

/-! ## `halt` (R170) -/

theorem orderHalt_roll (hi : s.inspecting = true) : orderHalt s = (enterClosing s .halt, plainResult .done) := by
  unfold orderHalt
  rcases inspecting_iff.1 hi with running | stopping
  · rw [running]
  · rw [stopping]

theorem orderHalt_closing (h : s.cu.state = .closing) : orderHalt s = (haltClosing s, plainResult .done) := by
  unfold orderHalt
  rw [h]

theorem orderHalt_refused (h : s.cu.state = .idle ∨ s.cu.state = .off) :
    orderHalt s = (s, plainResult .refusedState) := by
  unfold orderHalt
  rcases h with idle | off
  · rw [idle]
  · rw [off]

theorem haltClosing_again (h : s.cu.abandon = true) : haltClosing s = s := if_pos h

theorem haltClosing_waiting (h : s.cu.abandon = false) (hp : s.cu.phase = .waiting) :
    haltClosing s = { s with cu := { s.cu with abandon := true } } := by
  unfold haltClosing
  rw [if_neg (Bool.eq_false_iff.1 h), hp]
  rfl

theorem haltClosing_acts (h : s.cu.abandon = false) (hp : s.cu.phase = .drain ∨ s.cu.phase = .final) :
    haltClosing s = actAbandon { s with cu := { s.cu with abandon := true } } := by
  unfold haltClosing
  rw [if_neg (Bool.eq_false_iff.1 h)]
  rcases hp with drain | final
  · rw [drain]
    rfl
  · rw [final]
    rfl

/-- R163, R167, R170: the roll that `halt` ends. -/
theorem halt_closes {b : Batch} (hi : s.inspecting = true) (hd : orderDue s = some .halt) (hb : s.cu.batch = some b) :
    let t := settle s (executeOrder s .halt orderHalt)
    EntersClosing .halt s t ∧ ResultNoted b (plainResult .done) t := by
  intro t
  have entered := enterClosing_enters hi .halt
  have batch : (enterClosing s .halt).cu.batch = some b := (enterClosing_batch s .halt).trans hb
  have ended : t = settle s (endOrder (enterClosing s .halt) (plainResult .done)) :=
    congrArg (settle s) ((executeOrder_due hd orderHalt).trans (by rw [orderHalt_roll hi]))
  obtain ⟨frame, noted⟩ := (endOrder_ended (plainResult .done) (by rw [batch]; rfl)).frame batch
  have closing := entered.framed frame
  rw [ended]
  exact ⟨closing.settled s, noted.settled s (closing_inspecting closing.1)⟩

/-- Settles O44: a roll, then CLOSING by the abandon mark and the phase of close-out, then the states without a roll. -/
theorem haltEndsRoll : Obligations.HaltEndsRoll := by
  intro s hq hd
  refine ⟨fun b roll hb => ?roll, fun closing fresh waiting => ?waiting, fun b closing fresh late hb => ?acts,
    fun closing again => ?again, fun outside => ?refused⟩
  case roll => exact ⟨_, rfl, halt_closes (inspecting_iff.2 roll) hd hb⟩
  case waiting =>
    refine ⟨_, rfl, executeOrder_ended hd ?_ rfl hq.1⟩
    rw [orderHalt_closing closing, haltClosing_waiting fresh waiting]
  case acts =>
    let marked : State := { s with cu := { s.cu with abandon := true } }
    have halted : orderHalt s = (actAbandon marked, plainResult .done) := by
      rw [orderHalt_closing closing, haltClosing_acts fresh late]
    obtain ⟨state, phase, xu, out, ru, acted, queue, abandoned, nextSeq, _⟩ := actAbandon_frame marked
    have records : (actAbandon marked).ru = ru := by rw [acted]
    have batch : (actAbandon marked).cu.batch = some b := by rw [acted]; exact hb
    have quiet : (actAbandon marked).cu.limitEvent = false := by rw [acted]; exact hq.1
    have mark : (actAbandon marked).cu.abandon = true := by rw [acted]
    refine ⟨_, rfl, ?_⟩
    obtain ⟨frame, noted⟩ := (executeOrder_ended hd halted (batch.trans hb.symm) quiet).frame batch
    rw [← frame.ru.trans records] at queue abandoned nextSeq
    refine ⟨noted, by rw [frame.cu]; exact mark, queue, abandoned, nextSeq, fun drain idle => ?_, fun busy => ?_⟩
    · exact (actAbandon_ends (s := marked) closing drain idle).congr rfl rfl (by rw [frame.cu]) (by rw [frame.cu])
        frame.filling frame.posting
    · obtain ⟨control, pages⟩ := actAbandon_holds (s := marked) busy
      rw [frame.cu, frame.posting, control, pages]
      exact ⟨closing, rfl, rfl⟩
  case again =>
    refine ⟨_, rfl, executeOrder_unchanged hq hd ?_⟩
    rw [orderHalt_closing closing, haltClosing_again again]
  case refused => exact ⟨_, rfl, executeOrder_unchanged hq hd (orderHalt_refused outside)⟩

end Sys2Proof.Machine
end

section
/-! SUPPORT. `stop`: a face in WAIT finishes at once, any other is asked to. -/

namespace Sys2Proof.Machine

variable {s t u : State} {f g : Face}

/-! ## A face finishes (R19, R113) -/

theorem foldl_mu {α : Type} (g : State → α → State) (hg : ∀ u x, (g u x).mu = u.mu) (l : List α) (s : State) :
    (l.foldl g s).mu = s.mu := by
  induction l generalizing s with
  | nil => rfl
  | cons x rest ih => exact (ih _).trans (hg s x)

theorem finishPairing_mu (s : State) (f : Face) : (finishPairing s f).mu = s.mu :=
  foldl_mu _ (fun u c => (issueSingle_frame .uncertain u c).2.2) _ _

/-- R19: finishing a face leaves the section tracker of the other one. -/
theorem finishFace_other (s : State) (h : g ≠ f) : (finishFace s f).muFace g = s.muFace g := by
  have marked : ∀ x : PerFace MuFace, ∀ m, (x.set f m).get g = x.get g := fun x m => PerFace.get_set_other x m h
  unfold finishFace State.muFace
  rw [(closeSkip_frame _ f).1, marked]
  exact marked _ _

/-- From `s` to `t` face `f` has finished, for the Motion Unit and for the Pairing Unit; the status block write, the inspection
state, the batch and the other face stand. -/
structure FaceFinished (f : Face) (s t : State) : Prop where
  done     : (t.muFace f).finished = true
  noticed  : (t.puFace f).finished = true
  other    : ∀ g, g ≠ f → t.muFace g = s.muFace g
  notices  : ∀ g, g ≠ f → (t.puFace g).finished = (s.puFace g).finished
  write    : t.xu.statusWrite = s.xu.statusWrite
  state    : t.cu.state = s.cu.state
  batch    : t.cu.batch = s.cu.batch

/-- R19, R113, R162: a face in WAIT that is asked to finish has finished. -/
theorem requestFinish_wait (h : (s.muFace f).sect = .wait) : FaceFinished f s (requestFinish s f) := by
  let asked := s.onMuFace f fun m => { m with finishRequest := true }
  have request : requestFinish s f = finishPairing (finishFace asked f) f := if_pos h
  have before := finishFace_steady (onMuFace_steady (Steady.refl s) f fun m => { m with finishRequest := true }) f
  have after := finishPairing_finishes (finishFace asked f) f
  have aside := finishPairing_aside
    (finishFace_aside (onMuFace_aside (Aside.refl s) f fun m => { m with finishRequest := true }) f) f
  have tracker : ∀ g, (requestFinish s f).muFace g = (finishFace asked f).muFace g := fun g => by
    rw [request]
    exact congrArg (fun m => m.faces.get g) (finishPairing_mu _ f)
  have notice : ∀ g, ((requestFinish s f).puFace g).finished =
      (((finishFace asked f).onPuFace f fun p => { p with finished := true }).puFace g).finished := fun g => by
    rw [request]
    exact after.finished g
  obtain ⟨capture, limit, control⟩ := aside.cu
  refine ⟨?done, ?noticed, fun g other => ?tracker, fun g other => ?notice, ?write, ?state, ?batch⟩
  case done => rw [tracker, (finishFace_face asked f).1]
  case noticed =>
    rw [notice]
    exact congrArg PuFace.finished (PerFace.get_modify_same _ f _)
  case tracker =>
    rw [tracker, finishFace_other asked other]
    exact PerFace.get_modify_other _ _ other
  case notice =>
    rw [notice]
    exact (congrArg PuFace.finished (PerFace.get_modify_other _ _ other)).trans (before.finished g)
  case write => rw [request, after.write]; exact before.write
  case state => rw [request, after.state]; exact before.state
  case batch => rw [request, control]

/-- R162: a face that has left WAIT is only asked to finish. -/
theorem requestFinish_asks (h : (s.muFace f).sect ≠ .wait) :
    requestFinish s f = s.onMuFace f fun m => { m with finishRequest := true } := if_neg h

/-! ## `stop` (R162, R169) -/

/-- R169: the roll is STOPPING, and the status block with it is on its way (log 9). -/
def stopBegun (s : State) : State := wantStatus { s with cu := { s.cu with state := .stopping } } Owed.none

theorem orderStop_running (h : s.cu.state = .running) :
    orderStop s =
      (stopIfFinished (requestFinish (requestFinish (stopBegun s) .upper) .lower), plainResult .accepted) := by
  unfold orderStop
  rw [h]
  rfl

theorem orderStop_again (h : s.cu.state = .stopping ∨ s.cu.state = .closing) : orderStop s = (s, plainResult .already) := by
  unfold orderStop
  rcases h with stopping | closing
  · rw [stopping]
  · rw [closing]

theorem orderStop_refused (h : s.cu.state = .idle ∨ s.cu.state = .off) : orderStop s = (s, plainResult .refusedState) := by
  unfold orderStop
  rcases h with idle | off
  · rw [idle]
  · rw [off]

theorem stopBegun_cu (s : State) : (stopBegun s).cu = { s.cu with state := .stopping } := wantStatus_cu _ _

theorem stopBegun_frame (s : State) : (stopBegun s).mu = s.mu ∧ (stopBegun s).pu = s.pu := by
  obtain ⟨xu, out, e, _⟩ := wantStatus_exchange { s with cu := { s.cu with state := .stopping } } Owed.none
  unfold stopBegun
  rw [e]
  exact ⟨rfl, rfl⟩

theorem stopIfFinished_waiting (h : bothFinished s = false) : stopIfFinished s = s :=
  if_neg fun both => Bool.false_ne_true (h.symm.trans both.2)

/-- R162: with no face in WAIT and one face still to finish, both are asked and the roll goes on. -/
theorem orderStop_asks (hs : s.cu.state = .running) (hb : bothFinished s = false) (hw : ∀ f, (s.muFace f).sect ≠ .wait) :
    orderStop s =
      ({ stopBegun s with
          mu :=
            { s.mu with
              faces :=
                { upper := { s.mu.faces.upper with finishRequest := true }
                  lower := { s.mu.faces.lower with finishRequest := true } } } }, plainResult .accepted) := by
  obtain ⟨mu, pu⟩ := stopBegun_frame s
  have upper : ((stopBegun s).muFace .upper).sect ≠ .wait := by
    rw [State.muFace, mu]
    exact hw .upper
  have lower : (((stopBegun s).onMuFace .upper fun m => { m with finishRequest := true }).muFace .lower).sect ≠ .wait := by
    refine fun wait => hw .lower ?_
    rw [State.muFace, ← mu]
    exact wait
  have asked := requestFinish_asks lower
  rw [onMuFace_both, mu] at asked
  rw [orderStop_running hs, requestFinish_asks upper, asked, stopIfFinished_waiting]
  unfold bothFinished at hb ⊢
  dsimp only
  rw [pu]
  exact hb

/-- Both faces asked to finish, the upper one first (log 39). -/
def bothAsked (s : State) : State := requestFinish (requestFinish (stopBegun s) .upper) .lower

/-- R162: with both faces in WAIT both finish, and the roll with them; the status block write of STOPPING stands. -/
theorem bothAsked_finishes (hw : ∀ f, (s.muFace f).sect = .wait) :
    (∀ f, ((bothAsked s).muFace f).finished = true) ∧ bothFinished (bothAsked s) = true ∧
      (bothAsked s).xu.statusWrite = (stopBegun s).xu.statusWrite ∧ (bothAsked s).cu.state = .stopping ∧
      (bothAsked s).cu.batch = s.cu.batch := by
  obtain ⟨mu, pu⟩ := stopBegun_frame s
  have sect : ∀ f, ((stopBegun s).muFace f).sect = .wait := fun f => by
    rw [State.muFace, mu]
    exact hw f
  have upper := requestFinish_wait (sect .upper)
  have lower := requestFinish_wait (f := .lower) ((congrArg MuFace.sect (upper.other .lower nofun)).trans (sect .lower))
  refine ⟨fun f => ?_, ?_, lower.write.trans upper.write, ?_, ?_⟩
  · cases f with
    | upper => exact (congrArg MuFace.finished (lower.other .upper nofun)).trans upper.done
    | lower => exact lower.done
  · exact Bool.and_eq_true_iff.2 ⟨(lower.notices .upper nofun).trans upper.noticed, lower.noticed⟩
  · rw [bothAsked, lower.state, upper.state, stopBegun_cu]
  · rw [bothAsked, lower.batch, upper.batch, stopBegun_cu]

/-- R169, R189: the status block write that `stop` begins carries STOPPING. -/
theorem stopBegun_write (hb : s.xu.xbase ≠ 0) (hw : s.xu.statusWrite = none) :
    ∃ w, (stopBegun s).xu.statusWrite = some w ∧ w.contents.state = .stopping := by
  have begun := wantStatus_begins (s := { s with cu := { s.cu with state := .stopping } }) Owed.none hb hw
  exact ⟨_, congrArg ExchangeUnit.statusWrite begun, rfl⟩

/-- Settles O43: by the inspection state, and in RUNNING by the faces in WAIT. -/
theorem stopFinishesFaces : Obligations.StopFinishesFaces := by
  intro s hq hd
  refine ⟨fun again => ?again, fun outside => ?refused, fun running going away => ?asks, fun b running hb wait => ?finishes⟩
  case again => exact ⟨_, rfl, executeOrder_unchanged hq hd (orderStop_again again)⟩
  case refused => exact ⟨_, rfl, executeOrder_unchanged hq hd (orderStop_refused outside)⟩
  case asks =>
    have control := stopBegun_cu s
    have batch : (stopBegun s).cu.batch = s.cu.batch := by rw [control]
    have quiet : (stopBegun s).cu.limitEvent = false := by
      rw [control]
      exact hq.1
    exact ⟨_, rfl, executeOrder_ended hd (orderStop_asks running going away) batch quiet⟩
  case finishes =>
    obtain ⟨finished, both, write, stopping, batch⟩ := bothAsked_finishes wait
    have roll : (bothAsked s).inspecting = true := inspecting_iff.2 (.inr stopping)
    have stopped : orderStop s = (enterClosing (bothAsked s) .stop, plainResult .accepted) :=
      (orderStop_running running).trans (congrArg (·, _) (if_pos ⟨stopping, both⟩))
    let closed := enterClosing (bothAsked s) .stop
    have entered : EntersClosing .stop (bothAsked s) closed := enterClosing_enters roll .stop
    have held : closed.cu.batch = some b := (enterClosing_batch _ _).trans (batch.trans hb)
    obtain ⟨frame, noted⟩ := (endOrder_ended (plainResult .accepted) (u := closed) (by rw [held]; rfl)).frame held
    obtain ⟨state, reason, _⟩ := entered.framed frame
    obtain ⟨changed, ended⟩ := settle_outside s (closing_inspecting state)
    have ends : settle s (executeOrder s .stop orderStop) = settle s (endOrder closed (plainResult .accepted)) := by
      rw [executeOrder_due hd, stopped]
    refine ⟨_, rfl, ?_⟩
    rw [ends]
    refine ⟨noted.settled s (closing_inspecting state), ?_⟩
    rw [ended]
    refine ⟨state, reason, fun f => ?_, fun base idle => ?_⟩
    · have tracker := congrArg (fun m => (m.faces.get f).finished) frame.mu
      refine tracker.trans ((congrArg MuFace.finished (enterClosing_muFace roll .stop f)).trans (finished f))
    · obtain ⟨w, begun, carries⟩ := stopBegun_write base idle
      have busy : (bothAsked s).xu.statusWrite.isSome = true := by rw [write, begun]; rfl
      obtain ⟨kept, wanted⟩ := enterClosing_write roll busy .stop
      obtain ⟨last, further⟩ := endOrder_write (u := closed) (plainResult .accepted) (by rw [kept]; exact busy)
      exact ⟨⟨w, last.trans (kept.trans (write.trans begun)), carries⟩, further wanted⟩

end Sys2Proof.Machine
end

section
/-! SUPPORT. What close-out steps 1 to 6 leave of the Exchange Unit. -/

namespace Sys2Proof.Machine

variable {s t u : State} {f : Face}

/-! ## Updates of the other blocks -/

theorem OnlyFlags.of_xu (h : OnlyFlags s t) (same : u.xu = t.xu) : OnlyFlags s u := by
  unfold OnlyFlags at h ⊢
  rw [same]
  exact h

theorem OnlyFlags.onMu (h : OnlyFlags s t) (g : MotionUnit → MotionUnit) : OnlyFlags s (t.onMu g) := h.of_xu rfl
theorem OnlyFlags.onMuFace (h : OnlyFlags s t) (f : Face) (g : MuFace → MuFace) : OnlyFlags s (t.onMuFace f g) := h.of_xu rfl
theorem OnlyFlags.onRxFace (h : OnlyFlags s t) (f : Face) (g : RxFace → RxFace) : OnlyFlags s (t.onRxFace f g) := h.of_xu rfl
theorem OnlyFlags.onTeFace (h : OnlyFlags s t) (f : Face) (g : TeFace → TeFace) : OnlyFlags s (t.onTeFace f g) := h.of_xu rfl
theorem OnlyFlags.onSmFace (h : OnlyFlags s t) (f : Face) (g : SmFace → SmFace) : OnlyFlags s (t.onSmFace f g) := h.of_xu rfl
theorem OnlyFlags.onPu (h : OnlyFlags s t) (g : PairingUnit → PairingUnit) : OnlyFlags s (t.onPu g) := h.of_xu rfl
theorem OnlyFlags.onKu (h : OnlyFlags s t) (g : MarkUnit → MarkUnit) : OnlyFlags s (t.onKu g) := h.of_xu rfl
theorem OnlyFlags.onRu (h : OnlyFlags s t) (g : RecordUnit → RecordUnit) : OnlyFlags s (t.onRu g) := h.of_xu rfl

theorem OnlyFlags.setTrack (h : OnlyFlags s t) (f : Face) (i : Fin 24) (x : Option Track) :
    OnlyFlags s (t.setTrack f i x) := h.of_xu rfl

theorem OnlyFlags.setSpot (h : OnlyFlags s t) (f : Face) (i : Fin 64) (x : Option Spot) :
    OnlyFlags s (t.setSpot f i x) := h.of_xu rfl

theorem OnlyFlags.discardLogs (h : OnlyFlags s t) : OnlyFlags s (discardLogs t) := h.of_xu rfl

/-! ## Records with a mark request -/

theorem takeRequest_flags (s : State) (entry : MarkEntry) : OnlyFlags s (takeRequest s entry).1 := by
  have laid : ∀ o stop, OnlyFlags s (layMark s o stop) := fun o stop => by
    unfold layMark
    split <;> exact .refl s
  unfold takeRequest
  split
  · exact .refl s
  · split
    · split
      · exact .refl s
      · exact laid _ _
    · exact .refl s
  · exact raise_flags (bumpLate s) _
  · exact raise_flags (bumpMarkFull s) _
  · exact .refl s

theorem markRequest_flags (s : State) (kind : PolicyEntry) (stamp : Int) (source : Word) :
    OnlyFlags s (markRequest s kind stamp source).1 := by
  unfold markRequest
  split
  · exact .refl s
  · split
    · split
      · exact .refl s
      · exact takeRequest_flags s _
      · exact takeRequest_flags s _
    · exact .refl s

theorem takeNumber_flags (s : State) : OnlyFlags s (takeNumber s).1 := by
  unfold takeNumber
  dsimp only
  split
  · dsimp only
    split <;> exact .refl s
  · exact .refl s

theorem sourceOf_flags (s : State) (number : Option Nat) : OnlyFlags s (sourceOf s number).1 := by
  cases number <;> exact .refl s

theorem placeRecord_flags (s : State) (number : Option Nat) (mark : MarkState) (body : RecordBody) :
    OnlyFlags s (placeRecord s number mark body) := by
  obtain ⟨ru, placed⟩ := placeRecord_frame s number mark body
  rw [placed]
  rfl

theorem countRecord_flags (s : State) (body : RecordBody) : OnlyFlags s (countRecord s body) := by
  cases body
  case fault =>
    rw [countRecord_fault]
    exact raise_flags _ _
  all_goals rfl

theorem issueMissed_flags (s : State) (entry : MarkEntry) (reason : MissReason) :
    OnlyFlags s (issueMissed s entry reason) := (issue_flags s _).of_xu rfl

theorem settleMissed_flags (s : State) (answer : MarkAnswer) : OnlyFlags s (settleMissed s answer) := by
  unfold settleMissed
  split
  · exact .refl s
  · exact issueMissed_flags s _ _

/-- R131: of the Exchange Unit, a record with a mark request changes the attention flags and the outstanding level alone. -/
theorem issueMarked_flags (h : OnlyFlags s t) (body : RecordBody) (kind : PolicyEntry) (stamp : Int) :
    OnlyFlags s (issueMarked t body kind stamp).1 :=
  h.trans ((takeNumber_flags t).trans ((sourceOf_flags _ _).trans ((markRequest_flags _ _ _ _).trans
    ((placeRecord_flags _ _ _ _).trans ((countRecord_flags _ _).trans (settleMissed_flags _ _))))))

/-! ## Pairing -/

theorem issueSingle_flags (h : OnlyFlags s t) (result : PinholeResult) (c : Closure) :
    OnlyFlags s (issueSingle result t c) := (issueMarked_flags h _ _ _).onPu _

theorem issueThrough_flags (h : OnlyFlags s t) (entry arriving : Closure) :
    OnlyFlags s (issueThrough t entry arriving) := ((issueMarked_flags h _ _ _).onPu _).trans (raise_flags _ _)

theorem insertClosure_flags (h : OnlyFlags s t) (e : PairEntry) : OnlyFlags s (insertClosure t e) := by
  unfold insertClosure
  split
  · exact h.onPu _
  · split
    · exact h.onPu _
    · exact ((issueSingle_flags (h.onPu _) .evicted _).onPu _).discardLogs

theorem placeClosure_flags (h : OnlyFlags s t) (c : Closure) : OnlyFlags s (placeClosure t c) := by
  unfold placeClosure
  dsimp only
  split
  · exact issueSingle_flags h .uncertain c
  · split
    · exact issueSingle_flags h _ _
    · exact insertClosure_flags h _

theorem takeClosure_flags (s : State) (c : Closure) : OnlyFlags s (takeClosure s c) := by
  unfold takeClosure
  dsimp only
  split
  · split
    · exact (issueThrough_flags ((OnlyFlags.refl s).onPu _) _ _).discardLogs
    · exact placeClosure_flags (.refl s) _
  · exact issueSingle_flags (.refl s) .off _

theorem unresolvedPairing_flags (s : State) : OnlyFlags s (unresolvedPairing s) :=
  ((OnlyFlags.refl s).onPu _).trans (foldl_flags _ (fun u c => issueSingle_flags (.refl u) .unresolved c) _ _)

/-! ## Spots and tracks -/

theorem closeSpot_flags (part : FacePart) (f : Face) (c : Closing) (x : Fin 64 × Spot) (h : OnlyFlags s c.state) :
    OnlyFlags s (closeSpot part f c x).state := by
  unfold closeSpot
  split
  · exact (h.onSmFace _ _).setSpot _ _ _
  · exact (h.onSmFace _ _).setSpot _ _ _
  · exact ((issueMarked_flags h _ _ _).onSmFace _ _).setSpot _ _ _
  · exact ((issueMarked_flags h _ _ _).onSmFace _ _).setSpot _ _ _

theorem cutSpots_flags (s : State) (f : Face) (part : FacePart) : OnlyFlags s (cutSpots s f part).state :=
  List.foldlRecOn (motive := fun c : Closing => OnlyFlags s c.state) _ _ ((OnlyFlags.refl s).onSmFace f _)
    fun c hc x _ => closeSpot_flags part f c x hc

theorem cutAndDeliver_flags (s : State) (f : Face) : OnlyFlags s (cutAndDeliver s f) :=
  (cutSpots_flags s f _).trans (foldl_flags _ takeClosure_flags _ _)

theorem cutOne_flags (f : Face) (reason : CloseReason) (s : State) (x : Fin 24 × Track) :
    OnlyFlags s (cutOne f reason s x) := by
  unfold cutOne
  split
  · exact ((issueMarked_flags (.refl s) _ _ _).setTrack _ _ _).onTeFace _ _
  · exact ((issue_flags s _).setTrack _ _ _).onTeFace _ _
  · exact ((issue_flags s _).setTrack _ _ _).onTeFace _ _

theorem cutTracks_flags (s : State) (f : Face) (reason : CloseReason) : OnlyFlags s (cutTracks s f reason) :=
  foldl_flags _ (cutOne_flags f reason) _ _

theorem clearPatchCounts_flags (s : State) (f : Face) : OnlyFlags s (clearPatchCounts s f) :=
  ((OnlyFlags.refl s).onSmFace f _).onTeFace f _

/-! ## The steps -/

theorem closeAllSpots_flags (s : State) : OnlyFlags s (closeAllSpots s) :=
  (cutAndDeliver_flags s .upper).trans (cutAndDeliver_flags _ .lower)

theorem closeAllTracks_flags (s : State) : OnlyFlags s (closeAllTracks s) :=
  (cutTracks_flags s .upper _).trans ((cutTracks_flags _ .lower _).trans
    ((clearPatchCounts_flags _ .upper).trans (clearPatchCounts_flags _ .lower)))

theorem missAllMarks_flags (s : State) : OnlyFlags s (missAllMarks s) :=
  ((OnlyFlags.refl s).onKu _).trans (foldl_flags _ (fun u e => issueMissed_flags u e .rollEnd) _ _)

theorem reportTallies_flags (s : State) (f : Face) : OnlyFlags s (reportTallies s f) := by
  have overflow : OnlyFlags s (reportOverflow s f) := ((OnlyFlags.refl s).onMuFace f _).trans (issueTally_flags _ _ _ _)
  have runFull : ∀ v, OnlyFlags v (reportRunFull v f) := fun v =>
    ((OnlyFlags.refl v).onRxFace f _).trans (issueTally_flags _ _ _ _)
  have spotFull : ∀ v, OnlyFlags v (reportSpotFull v f) := fun v =>
    ((OnlyFlags.refl v).onSmFace f _).trans (issueTally_flags _ _ _ _)
  have trackFull : ∀ v, OnlyFlags v (reportTrackFull v f) := fun v =>
    ((OnlyFlags.refl v).onTeFace f _).trans (issueTally_flags _ _ _ _)
  exact overflow.trans ((runFull _).trans ((spotFull _).trans (trackFull _)))

theorem reportAllTallies_flags (s : State) : OnlyFlags s (reportAllTallies s) := by
  have jumps : OnlyFlags s (reportJumps s) := ((OnlyFlags.refl s).onMu _).trans (issueTally_flags _ _ _ _)
  exact jumps.trans ((reportTallies_flags _ .upper).trans (reportTallies_flags _ .lower))

theorem issueRollEnd_flags (s : State) : OnlyFlags s (issueRollEnd s) := (issue_flags s _).onRu _

/-- R164: of the Exchange Unit, steps 1 to 6 change the attention flags and the outstanding level alone. -/
theorem closeoutSteps_flags (s : State) : OnlyFlags s (closeoutSteps s) :=
  (closeAllSpots_flags s).trans ((closeAllTracks_flags _).trans ((unresolvedPairing_flags _).trans
    ((missAllMarks_flags _).trans ((reportAllTallies_flags _).trans (issueRollEnd_flags _)))))

end Sys2Proof.Machine
end

section
/-! SUPPORT. What close-out steps 1 to 6 leave of the tables, the lists and the tallies, and step 7 after them. -/

namespace Sys2Proof.Machine

variable {s t u : State} {f : Face}

/-! ## Steps 1 and 2: no spot and no track is left (R69, R97) -/

theorem TablesFree.of_tables (h : TablesFree s f) (k : SameTables s t) : TablesFree t f := by
  unfold TablesFree
  rw [k.teFace, k.smFace]
  exact h

theorem cutTracks_sm (s : State) (f : Face) (reason : CloseReason) : (cutTracks s f reason).sm = s.sm := by
  refine List.foldlRecOn (motive := fun v : State => v.sm = s.sm) _ _ rfl fun v hv x _ => Eq.trans ?_ hv
  unfold cutOne
  split
  · exact (issueMarked_reporting v _ _ _).sameTables.sm
  · exact (issue_reporting v _).sameTables.sm
  · exact (issue_reporting v _).sameTables.sm

theorem closeAllSpots_frees (s : State) (f : Face) (j : Fin 64) : ((closeAllSpots s).smFace f).spots[j] = none := by
  cases f with
  | upper =>
    have kept : (closeAllSpots s).smFace .upper = (cutAndDeliver s .upper).smFace .upper := (cutAndDeliver_other _ .lower).sm
    rw [kept]
    exact (cutAndDeliver_clears s .upper).2 j
  | lower => exact (cutAndDeliver_clears (cutAndDeliver s .upper) .lower).2 j

/-- R69, R97: the per-patch counts that are discarded are no part of the tables. -/
theorem clearPatchCounts_free {g : Face} (h : TablesFree s g) (f : Face) : TablesFree (clearPatchCounts s f) g := by
  have tracks : ((clearPatchCounts s f).teFace g).tracks = (s.teFace g).tracks := by cases f <;> cases g <;> rfl
  have spots : ((clearPatchCounts s f).smFace g).spots = (s.smFace g).spots := by cases f <;> cases g <;> rfl
  unfold TablesFree
  rw [tracks, spots]
  exact h

theorem closeAllTracks_frees (h : ∀ f, ∀ j : Fin 64, (s.smFace f).spots[j] = none) (f : Face) :
    TablesFree (closeAllTracks s) f := by
  have cut : TablesFree (cutTracks (cutTracks s .upper (closeReason s)) .lower (closeReason s)) f := by
    refine ⟨fun i => ?tracks, fun j => ?spots⟩
    case tracks =>
      cases f with
      | upper =>
        have kept := (cutTracks_other (cutTracks s .upper (closeReason s)) .lower (closeReason s)).te
        rw [show otherFace .lower = .upper from rfl] at kept
        rw [kept]
        exact cutTracks_clears s .upper _ i
      | lower => exact cutTracks_clears _ .lower _ i
    case spots =>
      rw [State.smFace, cutTracks_sm, cutTracks_sm]
      exact h f j
  exact clearPatchCounts_free (clearPatchCounts_free cut .upper) .lower

/-! ## Steps 3 and 4: no pairing entry and no mark is left (R114, R127) -/

theorem unresolvedPairing_list (s : State) : (unresolvedPairing s).pu.list = [] :=
  List.foldlRecOn (motive := fun v : State => v.pu.list = []) _ _ rfl fun v hv c _ => (issueSingle_list _ v c).trans hv

theorem issueMissed_queue (s : State) (e : MarkEntry) (reason : MissReason) :
    (issueMissed s e reason).ku.queue = s.ku.queue := by
  unfold issueMissed bumpMissed
  rw [State.onMarkCounters_ku, issue_ku]

theorem missAllMarks_queue (s : State) : (missAllMarks s).ku.queue = [] :=
  List.foldlRecOn (motive := fun v : State => v.ku.queue = []) _ _ rfl fun v hv e _ => (issueMissed_queue v e _).trans hv

theorem missAllMarks_reporting (s : State) : OnlyReporting s (missAllMarks s) :=
  (OnlyReporting.refl s).trans (foldl_reporting _ (fun u e => issueMissed_reporting u e .rollEnd) _ _)

/-! ## Step 5: the tallies are clear (R164) -/

/-- The tallies of one face, clear. -/
def faceTalliesCleared (s : State) (f : Face) : State :=
  (((s.onMuFace f fun m => { m with overflow := Tally.empty }).onRxFace f fun r => { r with runFull := Tally.empty }).onSmFace f
    fun m => { m with full := Tally.empty }).onTeFace f fun e => { e with full := Tally.empty }

/-- All tallies, clear. -/
def talliesCleared (s : State) : State :=
  faceTalliesCleared (faceTalliesCleared (s.onMu fun m => { m with jumps := Tally.empty }) .upper) .lower

theorem OnlyReporting.faceTalliesCleared (h : OnlyReporting s t) (f : Face) :
    OnlyReporting (faceTalliesCleared s f) (faceTalliesCleared t f) :=
  (((h.onMuFace f _).onRxFace f _).onSmFace f _).onTeFace f _

theorem reportTallies_reporting (s : State) (f : Face) : OnlyReporting (faceTalliesCleared s f) (reportTallies s f) := by
  have overflow : OnlyReporting (s.onMuFace f fun m => { m with overflow := Tally.empty }) (reportOverflow s f) :=
    issueTally_reporting _ _ _ _
  have runFull : ∀ v, OnlyReporting (v.onRxFace f fun r => { r with runFull := Tally.empty }) (reportRunFull v f) := fun v =>
    issueTally_reporting _ _ _ _
  have spotFull : ∀ v, OnlyReporting (v.onSmFace f fun m => { m with full := Tally.empty }) (reportSpotFull v f) := fun v =>
    issueTally_reporting _ _ _ _
  have trackFull : ∀ v, OnlyReporting (v.onTeFace f fun e => { e with full := Tally.empty }) (reportTrackFull v f) := fun v =>
    issueTally_reporting _ _ _ _
  have runs := (overflow.onRxFace f _).trans (runFull _)
  have spots := (runs.onSmFace f _).trans (spotFull _)
  exact (spots.onTeFace f _).trans (trackFull _)

/-- R164: beside the reports, step 5 clears the tallies. -/
theorem reportAllTallies_reporting (s : State) : OnlyReporting (talliesCleared s) (reportAllTallies s) := by
  have jumps : OnlyReporting (s.onMu fun m => { m with jumps := Tally.empty }) (reportJumps s) := issueTally_reporting _ _ _ _
  have upper := (jumps.faceTalliesCleared .upper).trans (reportTallies_reporting _ .upper)
  exact (upper.faceTalliesCleared .lower).trans (reportTallies_reporting _ .lower)

theorem reportAllTallies_ku (s : State) : (reportAllTallies s).ku = s.ku := by
  have face : ∀ v f, (reportTallies v f).ku = v.ku := fun v f => by
    unfold reportTallies reportTrackFull reportSpotFull reportRunFull reportOverflow
    rw [issueTally_ku, State.onTeFace_ku, issueTally_ku, State.onSmFace_ku, issueTally_ku, State.onRxFace_ku, issueTally_ku,
      State.onMuFace_ku]
  unfold reportAllTallies reportJumps
  rw [face, face, issueTally_ku, State.onMu_ku]

/-- The tallies of one face are clear. -/
def FaceTalliesClear (s : State) (f : Face) : Prop :=
  (s.muFace f).overflow = Tally.empty ∧ (s.rxFace f).runFull = Tally.empty ∧ (s.smFace f).full = Tally.empty ∧
    (s.teFace f).full = Tally.empty

theorem FaceTalliesClear.congr (h : FaceTalliesClear s f) (mu : t.muFace f = s.muFace f) (rx : t.rxFace f = s.rxFace f)
    (sm : t.smFace f = s.smFace f) (te : t.teFace f = s.teFace f) : FaceTalliesClear t f := by
  unfold FaceTalliesClear
  rw [mu, rx, sm, te]
  exact h

theorem faceTalliesCleared_clear (s : State) (f : Face) : FaceTalliesClear (faceTalliesCleared s f) f := by
  cases f <;> exact ⟨rfl, rfl, rfl, rfl⟩

theorem faceTalliesCleared_other {g : Face} (h : FaceTalliesClear s g) (other : g ≠ f) :
    FaceTalliesClear (faceTalliesCleared s f) g :=
  h.congr (PerFace.get_modify_other _ _ other) (PerFace.get_modify_other _ _ other) (PerFace.get_modify_other _ _ other)
    (PerFace.get_modify_other _ _ other)

/-- A tally is no part of the tables. -/
theorem faceTalliesCleared_free {g : Face} (h : TablesFree s g) (f : Face) : TablesFree (faceTalliesCleared s f) g := by
  have tracks : ((faceTalliesCleared s f).teFace g).tracks = (s.teFace g).tracks := by cases f <;> cases g <;> rfl
  have spots : ((faceTalliesCleared s f).smFace g).spots = (s.smFace g).spots := by cases f <;> cases g <;> rfl
  unfold TablesFree
  rw [tracks, spots]
  exact h

theorem faceTalliesCleared_frame (s : State) (f : Face) :
    (faceTalliesCleared s f).mu.jumps = s.mu.jumps ∧ (faceTalliesCleared s f).pu = s.pu := ⟨rfl, rfl⟩

theorem talliesCleared_frame (s : State) : (talliesCleared s).mu.jumps = Tally.empty ∧ (talliesCleared s).pu = s.pu := by
  unfold talliesCleared
  obtain ⟨jumps, pu⟩ := faceTalliesCleared_frame (s.onMu fun m => { m with jumps := Tally.empty }) .upper
  obtain ⟨jumps', pu'⟩ :=
    faceTalliesCleared_frame (faceTalliesCleared (s.onMu fun m => { m with jumps := Tally.empty }) .upper) .lower
  exact ⟨jumps'.trans jumps, pu'.trans pu⟩

theorem talliesCleared_clear (s : State) (f : Face) : FaceTalliesClear (talliesCleared s) f := by
  cases f with
  | upper => exact faceTalliesCleared_other (faceTalliesCleared_clear _ .upper) nofun
  | lower => exact faceTalliesCleared_clear _ .lower

theorem talliesCleared_free (h : TablesFree s f) : TablesFree (talliesCleared s) f := by
  have start : TablesFree (s.onMu fun m => { m with jumps := Tally.empty }) f := h
  exact faceTalliesCleared_free (faceTalliesCleared_free start .upper) .lower

/-! ## The six steps (R164) -/

/-- What steps 1 to 6 leave of the roll of `s`. -/
structure StepsDone (s u : State) : Prop where
  free    : ∀ f, TablesFree u f
  entries : u.pu.list = []
  marks   : u.ku.queue = []
  jumps   : u.mu.jumps = Tally.empty
  tallies : ∀ f, FaceTalliesClear u f
  rollEnd : u.ru.rollEndTaken = true
  p       : u.mu.p = s.mu.p
  h       : u.mu.h = s.mu.h

/-- What step 7 leaves of the roll: the web, the tables, the pairing list and the marks, and that ROLL_END has been taken. -/
structure StepsStand (u v : State) : Prop where
  web     : SameWeb u v
  defects : SameDefects u v
  marks   : v.ku = u.ku
  rollEnd : v.ru.rollEndTaken = u.ru.rollEndTaken

theorem StepsDone.stands (h : StepsDone s u) (k : StepsStand u t) : StepsDone s t := by
  obtain ⟨free, entries, marks, jumps, tallies, rollEnd, p, hh⟩ := h
  obtain ⟨⟨mu, lu, rx⟩, ⟨te, sm, pu⟩, ku, taken⟩ := k
  refine ⟨fun f => (free f).of_tables ⟨te, sm⟩, ?_, ?_, ?_, fun f => (tallies f).congr ?_ ?_ ?_ ?_, ?_, ?_, ?_⟩
  · rw [pu, entries]
  · rw [ku, marks]
  · rw [mu, jumps]
  · rw [State.muFace, mu, State.muFace]
  · rw [State.rxFace, rx, State.rxFace]
  · rw [State.smFace, sm, State.smFace]
  · rw [State.teFace, te, State.teFace]
  · rw [taken, rollEnd]
  · rw [mu, p]
  · rw [mu, hh]

theorem issueRollEnd_reporting (s : State) : OnlyReporting s (issueRollEnd s) := by
  obtain ⟨pending, straps, pins, web, defects, rs⟩ := issue_reporting s (.rollEnd s.mu.h (s.cu.endReason.getD .halt)
    s.pu.pinholes s.pu.throughs s.ru.spots s.ru.larges (s.te.nextStreak - 1))
  exact ⟨pending, straps, pins, web, defects, rs⟩

theorem issueRollEnd_ku (s : State) : (issueRollEnd s).ku = s.ku := issue_ku s _

/-- R114, R127, R164: steps 3 to 6, after the tables have been freed. -/
theorem stepsAfterTables (free : ∀ f, TablesFree s f) :
    let u := issueRollEnd (reportAllTallies (missAllMarks (unresolvedPairing s)))
    (∀ f, TablesFree u f) ∧ u.pu.list = [] ∧ u.ku.queue = [] ∧ u.mu.jumps = Tally.empty ∧ (∀ f, FaceTalliesClear u f) ∧
      u.ru.rollEndTaken = true := by
  intro u
  have missed : ∀ f, TablesFree (missAllMarks (unresolvedPairing s)) f := fun f =>
    ((free f).of_tables (unresolvedPairing_tables _)).of_tables (missAllMarks_tables _)
  have entries : (missAllMarks (unresolvedPairing s)).pu.list = [] := by
    obtain ⟨_, _, _, _, ⟨_, _, pu⟩, _⟩ := missAllMarks_reporting (unresolvedPairing s)
    rw [pu, unresolvedPairing_list]
  have marks := missAllMarks_queue (unresolvedPairing s)
  have reported := (reportAllTallies_reporting (missAllMarks (unresolvedPairing s))).trans (issueRollEnd_reporting _)
  have kept : u.ku = (missAllMarks (unresolvedPairing s)).ku := (issueRollEnd_ku _).trans (reportAllTallies_ku _)
  change OnlyReporting _ u at reported
  have rollEnd : u.ru.rollEndTaken = true := rfl
  clear_value u
  generalize missAllMarks (unresolvedPairing s) = v at *
  obtain ⟨jumps, pairing⟩ := talliesCleared_frame v
  have tables := reported.sameTables
  obtain ⟨_, _, _, ⟨mu, _, rx⟩, ⟨_, _, pu⟩, _⟩ := reported
  refine ⟨fun f => (talliesCleared_free (missed f)).of_tables tables, ?entries, ?marks, ?jumps, fun f => ?tallies, rollEnd⟩
  case entries => rw [pu, pairing, entries]
  case marks => rw [kept, marks]
  case jumps => rw [mu, jumps]
  case tallies =>
    refine (talliesCleared_clear v f).congr ?_ ?_ (tables.smFace f) (tables.teFace f)
    · rw [State.muFace, mu, State.muFace]
    · rw [State.rxFace, rx, State.rxFace]

theorem closeoutSteps_done (s : State) : StepsDone s (closeoutSteps s) := by
  have steady := closeoutSteps_steady (Steady.refl s)
  obtain ⟨free, entries, marks, jumps, tallies, rollEnd⟩ := stepsAfterTables (closeAllTracks_frees (closeAllSpots_frees s))
  exact ⟨free, entries, marks, jumps, tallies, rollEnd, steady.p, steady.h⟩

/-! ## Step 7 (R165, R170) -/

/-- R165: past step 6 the check never goes back to waiting for the streams, and it opens no roll. -/
theorem closeoutCheck_control (hp : s.cu.phase ≠ .waiting) (hi : s.inspecting = false) :
    (closeoutCheck s).cu.phase ≠ .waiting ∧ (closeoutCheck s).inspecting = false := by
  unfold closeoutCheck
  split
  · next due =>
    obtain ⟨closing, _⟩ := due
    split
    · refine ⟨nofun, closing_inspecting ?_⟩
      exact ((beginPost_steady (Steady.refl s) _).state).trans closing
    · rw [endCloseout_eq]
      unfold closeoutEnded State.inspecting
      rw [wantStatus_cu]
      refine ⟨nofun, ?_⟩
      cases s.xu.enable <;> rfl
  · exact ⟨hp, hi⟩

theorem actAbandon_control (hp : s.cu.phase ≠ .waiting) (hi : s.inspecting = false) :
    (actAbandon s).cu.phase ≠ .waiting ∧ (actAbandon s).inspecting = false := by
  obtain ⟨ru, given, _⟩ := recordsGivenUp_frame s
  rw [actAbandon_eq, given]
  exact closeoutCheck_control (s := { s with ru := ru }) hp hi

theorem closeoutCheck_stands (s : State) : StepsStand s (closeoutCheck s) := by
  obtain ⟨state, phase, xu, out, e⟩ := closeoutCheck_frame s
  rw [e]
  exact ⟨⟨rfl, rfl, rfl⟩, ⟨rfl, rfl, rfl⟩, rfl, rfl⟩

theorem actAbandon_stands (s : State) : StepsStand s (actAbandon s) := by
  obtain ⟨state, phase, xu, out, ru, e, _, _, _, taken⟩ := actAbandon_frame s
  rw [e]
  exact ⟨⟨rfl, rfl, rfl⟩, ⟨rfl, rfl, rfl⟩, rfl, taken⟩

/-- R165: step 7 is reached. -/
def intoDrain (s : State) : State := s.onCu fun c => { c with phase := .drain }

theorem intoDrain_stands (s : State) : StepsStand s (intoDrain s) := ⟨⟨rfl, rfl, rfl⟩, ⟨rfl, rfl, rfl⟩, rfl, rfl⟩
theorem intoDrain_flags (s : State) : OnlyFlags s (intoDrain s) := .refl s
theorem intoDrain_phase (s : State) : (intoDrain s).cu.phase = .drain := rfl
theorem intoDrain_state (s : State) : (intoDrain s).cu.state = s.cu.state := rfl
theorem intoDrain_abandon (s : State) : (intoDrain s).cu.abandon = s.cu.abandon := rfl

/-- R165: the steps are done and step 7 is reached. -/
def stepsReached (s : State) : State := intoDrain (closeoutSteps s)

theorem stepsReached_phase (s : State) : (stepsReached s).cu.phase = .drain := intoDrain_phase _

theorem stepsReached_state (s : State) : (stepsReached s).cu.state = s.cu.state :=
  (intoDrain_state _).trans (closeoutSteps_aside (Aside.refl s)).state

theorem stepsReached_abandon (s : State) : (stepsReached s).cu.abandon = s.cu.abandon := by
  obtain ⟨capture, limit, control⟩ := (closeoutSteps_aside (Aside.refl s)).cu
  rw [stepsReached, intoDrain_abandon, control]

theorem stepsReached_flags (s : State) : OnlyFlags s (stepsReached s) :=
  (closeoutSteps_flags s).trans (intoDrain_flags _)

theorem stepsReached_done (s : State) : StepsDone s (stepsReached s) := (closeoutSteps_done s).stands (intoDrain_stands _)

theorem beginCloseout_eq (hs : s.cu.state = .closing) (hp : s.cu.phase = .waiting) (hd : streamsPassed s = true) :
    beginCloseout s = if s.cu.abandon then actAbandon (stepsReached s) else closeoutCheck (stepsReached s) := by
  rw [← stepsReached_abandon s]
  exact if_pos ⟨hs, hp, hd⟩

/-- R165: close-out in step 7 or past it. -/
theorem beginCloseout_done (hs : s.cu.state = .closing) (hp : s.cu.phase = .waiting) (hd : streamsPassed s = true) :
    StepsDone s (beginCloseout s) ∧ (beginCloseout s).cu.phase ≠ .waiting ∧ (beginCloseout s).inspecting = false := by
  have done := stepsReached_done s
  have drain : (stepsReached s).cu.phase ≠ .waiting := by
    rw [stepsReached_phase]
    nofun
  have closing : (stepsReached s).inspecting = false := closing_inspecting ((stepsReached_state s).trans hs)
  rw [beginCloseout_eq hs hp hd]
  split
  · exact ⟨done.stands (actAbandon_stands _), actAbandon_control drain closing⟩
  · exact ⟨done.stands (closeoutCheck_stands _), closeoutCheck_control drain closing⟩

/-- R145, R165, R170: with the abandon mark set, step 7 gives the waiting records up. -/
theorem beginCloseout_abandons (hs : s.cu.state = .closing) (hp : s.cu.phase = .waiting) (hd : streamsPassed s = true)
    (ha : s.cu.abandon = true) :
    (beginCloseout s).ru.queue = [] ∧ (beginCloseout s).ru.abandoned = true ∧
      (s.xu.posting = none → AbandonEnds s (beginCloseout s)) := by
  obtain ⟨state, phase, xu, out, ru, acted, queue, abandoned, _⟩ := actAbandon_frame (stepsReached s)
  have begun : beginCloseout s = actAbandon (stepsReached s) := (beginCloseout_eq hs hp hd).trans (if_pos ha)
  have pages := stepsReached_flags s
  have closing := (stepsReached_state s).trans hs
  rw [begun]
  refine ⟨by rw [acted]; exact queue, by rw [acted]; exact abandoned, fun idle => ?_⟩
  have ends := actAbandon_ends closing (stepsReached_phase s) (pages.posting.trans idle)
  exact ends.congr pages.enable.symm pages.filling.symm rfl rfl rfl rfl

/-- Settles O31: the six steps in turn, each by what it empties, and step 7 by the abandon mark. -/
theorem closeoutRuns : Obligations.CloseoutRuns := by
  intro s _ hs hp hd
  obtain ⟨done, phase, rest⟩ := beginCloseout_done hs hp hd
  have abandons := beginCloseout_abandons hs hp hd
  obtain ⟨changed, ended⟩ := settle_outside s rest
  refine ⟨_, rfl, ?_⟩
  rw [ended]
  obtain ⟨free, entries, marks, jumps, tallies, rollEnd, p, h⟩ := done
  exact ⟨free, entries, marks, jumps, tallies, rollEnd, phase, p, h, abandons⟩

end Sys2Proof.Machine
end

section
/-! SUPPORT. Every command answers a next state and leaves the waiting commands: `exec_keeps` for the commands that change the state
they find, `comeUp_keeps` for the two resets, whose power-on state takes the waiting commands over. -/

namespace Sys2Proof.Machine

/-- R160: power-on answers, and its fresh state has the commands that wait. -/
theorem powerOn_answers (straps : Straps) (s : State) :
    ∃ t, exec (.powerOn straps) s = .next t ∧ t.pending = s.pending :=
  ⟨_, rfl, (comeUp_keeps (Keeps.refl _)).pending⟩

/-- R166: part reset answers, and its fresh state has the commands that wait. -/
theorem partReset_answers (s : State) : ∃ t, exec .partReset s = .next t ∧ t.pending = s.pending :=
  ⟨_, rfl, (comeUp_keeps (Keeps.refl _)).pending⟩

/-- Settles O2: the two resets, and every other command by what it keeps. -/
theorem everyCommandAnswers : Obligations.EveryCommandAnswers := by
  intro c s
  by_cases hp : ∃ straps, c = .powerOn straps
  · obtain ⟨straps, rfl⟩ := hp
    exact powerOn_answers straps s
  · by_cases hr : c = .partReset
    · subst hr
      exact partReset_answers s
    · obtain ⟨t, answers, keeps⟩ := exec_keeps c (fun straps e => hp ⟨straps, e⟩) hr (s := s)
      exact ⟨t, answers, keeps.pending⟩

end Sys2Proof.Machine
end
